-- ==== Sys2Proof/Word.lean ====
section
/-!
DEFINITION. The word types of the part: bytes, 64-bit register words, 128-bit capability words.
-/
namespace Sys2Proof

/-- A byte of memory (02 R43: words are stored little-endian, byte by byte). -/
abbrev Byte := BitVec 8

/-- A 64-bit general register (01 R10). -/
abbrev Word := BitVec 64

end Sys2Proof
end

