-- ==== Sys2Proof/Syntax.lean ====
section
/-!
DEFINITION. The instructions and events of the part as syntax: operand types, the words of the three engines, and one
constructor for each row of the opcode table.
-/
namespace Sys2Proof

/-- A general register g0 to g31 (01 R10). -/
abbrev GReg := Fin 32

/-- A capability register c0 to c15 (01 R10). -/
abbrev CapReg := Fin 16

/-- A 6-bit register field without peek: a g register or a channel, popped as a source and pushed as a destination (02 R46). -/
inductive RC where
  | g (r : GReg)
  | ch (n : Fin 16)
deriving DecidableEq, Repr

/-- A 6-bit source field with its peek bit (02 R46). -/
inductive Src where
  | g (r : GReg)
  | pop (n : Fin 16)
  | peek (n : Fin 16)
deriving DecidableEq, Repr

/-- Access sizes of AM words: B, H, W, D (02 R50). -/
inductive Size where
  | b | h | w | d
deriving DecidableEq, Repr

/-- The memory scopes, codes 0 to 5 (02 R48). -/
inductive Scope where
  | st | co | cl | di | pk | sy
deriving DecidableEq, Repr

/-- The stream engines of a context (01, "The Stream"). -/
inductive Eng where
  | access | loom | mill
deriving DecidableEq, Repr

/-- Element formats, codes 0x0 to 0xE (02 R53). -/
inductive Fmt where
  | fp32 | fp16 | bf16 | e4m3 | e5m2 | e8m0 | hs4 | hs8 | ps8 | i8 | i16 | i32 | u8 | u16 | u32
deriving DecidableEq, Repr

/-- Rounding codes 0 to 5 (02 R54). -/
inductive Rnd where
  | rne | rtz | rup | rdn | rna | sr
deriving DecidableEq, Repr

/-- A 20-bit Loom operand field (02 R52).  A field that an instruction does not use is `vreg 0 0 0 0`, all zero. -/
inductive LOpnd where
  | vreg (idx : Fin 16) (row0 : Fin 32) (step : Fin 16) (col : Fin 16)
  | stream (i : Fin 16)
  | chan (i : Fin 16) (peek : Bool)
  | const (i : Fin 16)
deriving DecidableEq, Repr

/-- The fields of a Loom word beside its opcode (02 R51).  In VBR the `rnd` field holds the condition (02 R55). -/
structure LForm where
  modf : BitVec 15
  b : LOpnd
  a : LOpnd
  d : LOpnd
  sat : Bool
  rnd : Rnd
  fmt : Fmt
  pred : Fin 8
deriving DecidableEq, Repr

/-- The fields of a Mill word beside its opcode (02 R56).  Format fields keep their 4-bit codes: a reserved code in the
Mill raises 0x18, not 0x01 (02 R53). -/
structure MForm where
  imm2 : BitVec 32
  imm1 : BitVec 32
  mrp0 : BitVec 16
  use : Fin 8
  wfull : Bool
  cons : Bool
  inj : Bool
  erm : Fin 8
  epi : Bool
  os : Fin 16
  ofmt : Fin 16
  act : Fin 32
  grp : Bool
  pro : Bool
  zs : Fin 16
  ss : Fin 16
  steps : BitVec 16
  mode : Fin 4
  bank : Bool
  bfmt : Fin 16
  bs : Fin 16
  afmt : Fin 16
  as : Fin 16
deriving DecidableEq, Repr

/-- Where a context stands: die, core of the die, resident context (01 R13, 05 R126). -/
structure Who where
  die : Nat
  core : Nat
  ctx : Nat
deriving DecidableEq, Repr

/-- The instruction set: one constructor for each row of the opcode table.  Words carry their fields.  Events carry none: which
object an event is about (a context, a message of the fabric, a queue, a die) stands in `State.ev`. -/
inductive Instr where
  -- words with operand fields: access core (02 R50), Loom (02 R55, the word of R51 in its form), Mill (02 R57)
  /-- ADD (R95): adds rs1 and rs2 modulo 2^64 into rd. -/
  | add (d : RC) (a : Src) (b : Src)
  /-- SUB (R95): subtracts rs2 from rs1 modulo 2^64 into rd. -/
  | sub (d : RC) (a : Src) (b : Src)
  /-- AND (R95): bitwise AND of rs1 and rs2 into rd. -/
  | and (d : RC) (a : Src) (b : Src)
  /-- OR (R95): bitwise OR of rs1 and rs2 into rd. -/
  | or (d : RC) (a : Src) (b : Src)
  /-- XOR (R95): bitwise XOR of rs1 and rs2 into rd. -/
  | xor (d : RC) (a : Src) (b : Src)
  /-- SHL (R95): shifts rs1 left by rs2[5:0]. -/
  | shl (d : RC) (a : Src) (b : Src)
  /-- SHR (R95): logical right shift of rs1 by rs2[5:0]. -/
  | shr (d : RC) (a : Src) (b : Src)
  /-- SHA (R95): arithmetic right shift of rs1 by rs2[5:0]. -/
  | sha (d : RC) (a : Src) (b : Src)
  /-- SLT (R95): sets rd to 1 if rs1 is signed-less than rs2. -/
  | slt (d : RC) (a : Src) (b : Src)
  /-- SLTU (R95): sets rd to 1 if rs1 is unsigned-less than rs2. -/
  | sltu (d : RC) (a : Src) (b : Src)
  /-- MIN (R95): signed minimum of rs1 and rs2 into rd. -/
  | min (d : RC) (a : Src) (b : Src)
  /-- MAX (R95): signed maximum of rs1 and rs2 into rd. -/
  | max (d : RC) (a : Src) (b : Src)
  /-- MINU (R95): unsigned minimum of rs1 and rs2 into rd. -/
  | minu (d : RC) (a : Src) (b : Src)
  /-- MAXU (R95): unsigned maximum of rs1 and rs2 into rd. -/
  | maxu (d : RC) (a : Src) (b : Src)
  /-- SEL (R95): selects rs1 if the old rd is nonzero, else rs2. -/
  | sel (d : GReg) (a : Src) (b : Src)
  /-- MUL (R95): low 64 bits of the product of rs1 and rs2. -/
  | mul (d : RC) (a : Src) (b : Src)
  /-- MULH (R95): high 64 bits of the signed product. -/
  | mulh (d : RC) (a : Src) (b : Src)
  /-- MULHU (R95): high 64 bits of the unsigned product. -/
  | mulhu (d : RC) (a : Src) (b : Src)
  /-- DIV (R96): signed quotient truncated toward zero, never trapping. -/
  | div (d : RC) (a : Src) (b : Src)
  /-- DIVU (R96): unsigned quotient, never trapping. -/
  | divu (d : RC) (a : Src) (b : Src)
  /-- REM (R96): signed remainder with the sign of the dividend. -/
  | rem (d : RC) (a : Src) (b : Src)
  /-- REMU (R96): unsigned remainder. -/
  | remu (d : RC) (a : Src) (b : Src)
  /-- CLZ (R95): counts leading zero bits of rs1. -/
  | clz (d : RC) (a : Src)
  /-- CTZ (R95): counts trailing zero bits of rs1. -/
  | ctz (d : RC) (a : Src)
  /-- POPC (R95): counts one bits of rs1. -/
  | popc (d : RC) (a : Src)
  /-- ADDI (R97): adds a sign-extended immediate to rs1. -/
  | addi (d : RC) (a : RC) (i : BitVec 13)
  /-- ANDI (R97): aNDs rs1 with a sign-extended immediate. -/
  | andi (d : RC) (a : RC) (i : BitVec 13)
  /-- ORI (R97): oRs rs1 with a sign-extended immediate. -/
  | ori (d : RC) (a : RC) (i : BitVec 13)
  /-- XORI (R97): xORs rs1 with a sign-extended immediate. -/
  | xori (d : RC) (a : RC) (i : BitVec 13)
  /-- SHLI (R97): shifts rs1 left by an immediate amount. -/
  | shli (d : RC) (a : RC) (i : BitVec 6)
  /-- SHRI (R97): logical right shift of rs1 by an immediate. -/
  | shri (d : RC) (a : RC) (i : BitVec 6)
  /-- SHAI (R97): arithmetic right shift of rs1 by an immediate. -/
  | shai (d : RC) (a : RC) (i : BitVec 6)
  /-- SLTI (R97): sets rd to 1 if rs1 is signed-less than the immediate. -/
  | slti (d : RC) (a : RC) (i : BitVec 13)
  /-- BFX (R98): extracts a zero-extended bit field of rs1. -/
  | bfx (d : RC) (a : RC) (p : BitVec 6) (wd : BitVec 6)
  /-- BFI (R98): inserts the low bits of rs1 into a field of rd. -/
  | bfi (d : GReg) (a : RC) (p : BitVec 6) (wd : BitVec 6)
  /-- LUI (R99): loads a shifted 19-bit immediate into rd. -/
  | lui (d : RC) (i : BitVec 19)
  /-- AUIPC (R99): adds a shifted immediate to the pc into rd. -/
  | auipc (d : RC) (i : BitVec 19)
  /-- B.EQ (R100): branches when rs1 equals rs2. -/
  | bEq (a : RC) (b : RC) (i : BitVec 10)
  /-- B.NE (R100): branches when rs1 differs from rs2. -/
  | bNe (a : RC) (b : RC) (i : BitVec 10)
  /-- B.LT (R100): branches when rs1 is signed-less than rs2. -/
  | bLt (a : RC) (b : RC) (i : BitVec 10)
  /-- B.GE (R100): branches when rs1 is signed-greater-or-equal to rs2. -/
  | bGe (a : RC) (b : RC) (i : BitVec 10)
  /-- B.LTU (R100): branches when rs1 is unsigned-less than rs2. -/
  | bLtu (a : RC) (b : RC) (i : BitVec 10)
  /-- B.GEU (R100): branches when rs1 is unsigned-greater-or-equal to rs2. -/
  | bGeu (a : RC) (b : RC) (i : BitVec 10)
  /-- J (R101): jumps pc-relative without link. -/
  | j (i : BitVec 19)
  /-- JAL (R101): jumps pc-relative and writes pc+4 to rd. -/
  | jal (d : RC) (i : BitVec 19)
  /-- JR (R101): jumps to rs1 plus an immediate without link. -/
  | jr (a : RC) (i : BitVec 13)
  /-- JALR (R101): jumps to rs1 plus an immediate and writes pc+4 to rd. -/
  | jalr (d : RC) (a : RC) (i : BitVec 13)
  /-- LOOP (R102): opens a hardware loop level or skips the body when the count is zero. -/
  | loop (a : RC) (i : BitVec 10)
  /-- CHCFG (R107): writes a channel's configuration word and discards its entries. -/
  | chcfg (n : Fin 16) (b : GReg)
  /-- CHCNT (R108): reads a channel's configuration and entry count. -/
  | chcnt (d : GReg) (n : Fin 16)
  /-- SBW (R109): waits until every selected scoreboard slot is clear. -/
  | sbw (m : BitVec 7)
  /-- LDL (R105): loads a scalar from the scratchpad, zero-extended. -/
  | ldl (d : RC) (b : GReg) (o : BitVec 6) (s : Size)
  /-- STL (R105): stores a scalar to the scratchpad. -/
  | stl (x : RC) (b : GReg) (o : BitVec 6) (s : Size)
  /-- SPL (R106): stores a g register to the spill bank. -/
  | spl (x : GReg) (b : GReg) (o : BitVec 6) (s : Size)
  /-- FIL (R106): loads a g register from the spill bank. -/
  | fil (d : GReg) (b : GReg) (o : BitVec 6) (s : Size)
  /-- LD (R260): issues a plain global load. -/
  | ld (d : GReg) (b : GReg) (o : BitVec 6) (k : Fin 8) (s : Size)
  /-- LD.nt (R262): issues a non-temporal global load. -/
  | ldNt (d : GReg) (b : GReg) (o : BitVec 6) (k : Fin 8) (s : Size)
  /-- ST (R261): issues a plain global store. -/
  | st (x : RC) (b : GReg) (o : BitVec 6) (k : Fin 8) (s : Size)
  /-- ST.nt (R262): issues a non-temporal global store. -/
  | stNt (x : RC) (b : GReg) (o : BitVec 6) (k : Fin 8) (s : Size)
  /-- LDQ (R264): issues a global load that reserves a channel entry and pushes the value. -/
  | ldq (n : Fin 16) (b : GReg) (o : BitVec 6) (k : Fin 8) (s : Size)
  /-- ATOM.ADD (R265): atomic add at the atomic unit, returning the old value. -/
  | atomAdd (d : RC) (a : GReg) (b : Src) (z : Bool)
  /-- ATOM.SUB (R265): atomic subtract, returning the old value. -/
  | atomSub (d : RC) (a : GReg) (b : Src) (z : Bool)
  /-- ATOM.AND (R265): atomic AND, returning the old value. -/
  | atomAnd (d : RC) (a : GReg) (b : Src) (z : Bool)
  /-- ATOM.OR (R265): atomic OR, returning the old value. -/
  | atomOr (d : RC) (a : GReg) (b : Src) (z : Bool)
  /-- ATOM.XOR (R265): atomic XOR, returning the old value. -/
  | atomXor (d : RC) (a : GReg) (b : Src) (z : Bool)
  /-- ATOM.MIN (R265): atomic signed minimum, returning the old value. -/
  | atomMin (d : RC) (a : GReg) (b : Src) (z : Bool)
  /-- ATOM.MAX (R265): atomic signed maximum, returning the old value. -/
  | atomMax (d : RC) (a : GReg) (b : Src) (z : Bool)
  /-- ATOM.MINU (R265): atomic unsigned minimum, returning the old value. -/
  | atomMinu (d : RC) (a : GReg) (b : Src) (z : Bool)
  /-- ATOM.MAXU (R265): atomic unsigned maximum, returning the old value. -/
  | atomMaxu (d : RC) (a : GReg) (b : Src) (z : Bool)
  /-- ATOM.XCHG (R265): atomic exchange, returning the old value. -/
  | atomXchg (d : RC) (a : GReg) (b : Src) (z : Bool)
  /-- CAS (R266): atomic compare-and-swap against the expected value in rd. -/
  | cas (d : GReg) (a : GReg) (b : Src) (z : Bool)
  /-- FENCE.all (R269): orders every earlier access before every later access at a scope. -/
  | fenceAll (s : Scope)
  /-- FENCE.acq (R269): orders earlier loads before every later access at a scope. -/
  | fenceAcq (s : Scope)
  /-- CWB (R270): writes back dirty cached lines of a range to their point of coherence at a scope. -/
  | cwb (a : GReg) (b : Src) (s : Scope)
  /-- CINV (R270): writes back then invalidates cached lines of a range. -/
  | cinv (a : GReg) (b : Src) (s : Scope)
  /-- LD.acq (R263): global load followed by an acquire at core, cluster, die or package scope. -/
  | ldAcq (d : GReg) (b : GReg) (o : BitVec 6) (k : Fin 8) (s : Size) (sc : Scope)
  /-- ST.rel (R263): release at core, cluster, die or package scope followed by a global store. -/
  | stRel (x : RC) (b : GReg) (o : BitVec 6) (k : Fin 8) (s : Size) (sc : Scope)
  /-- LD.acq.sy (R263): global load followed by a system-scope acquire. -/
  | ldAcqSy (d : GReg) (b : GReg) (o : BitVec 6) (k : Fin 8) (s : Size)
  /-- ST.rel.sy (R263): system-scope release with its drains followed by a global store. -/
  | stRelSy (x : RC) (b : GReg) (o : BitVec 6) (k : Fin 8) (s : Size)
  /-- TLKP (R212): searches the tag table for the slot holding a global address. -/
  | tlkp (d : RC) (a : Src)
  /-- TSET (R213): fills a tag entry for a global address, with status. -/
  | tset (d : RC) (a : Src) (b : Src)
  /-- TINV (R213): empties a tag entry, with status. -/
  | tinv (d : RC) (a : Src)
  /-- TSTAT (R214): reads a slot's tag entry. -/
  | tstat (d : RC) (a : Src)
  /-- TFULL (R215): sets a tile's FULL tag without waiting, releasing its domain's writes. -/
  | tfull (a : Src)
  /-- TTAKE (R216): waits for a tile full, clears FULL and optionally grants a permit. -/
  | ttake (d : RC) (a : Src) (b : Src)
  /-- TWAIT (R217): waits until a tile is full or empty. -/
  | twait (a : Src)
  /-- TGRANT (R218): grants one landing permit for a slot to a sending core. -/
  | tgrant (d : RC) (a : Src) (b : Src)
  /-- SBIND (R219): reads a 64-byte descriptor image from global memory and binds it. -/
  | sbind (n : Fin 16) (a : Src)
  /-- SREL (R219): unbinds a stream descriptor. -/
  | srel (n : Fin 16)
  /-- SQRY (R220): reads a word of a descriptor, optionally clearing its sticky status. -/
  | sqry (d : RC) (n : Fin 16) (b : Src)
  /-- SSKIP (R221): moves a descriptor's POS by a signed count. -/
  | sskip (n : Fin 16) (a : Src)
  /-- CPY (R227): queues a Carter copy between global memory and the scratchpad. -/
  | cpy (x : GReg) (a : GReg) (l : GReg) (u : Fin 8) (c : Bool) (e : Bool)
  /-- CPYG (R227): queues a Carter gather of global rows popped from a channel. -/
  | cpyg (x : GReg) (n : Fin 16) (l : GReg) (u : Fin 8) (c : Bool) (e : Bool)
  /-- CPYS (R227): queues a Carter scatter of scratchpad rows to popped addresses. -/
  | cpys (x : GReg) (n : Fin 16) (l : GReg) (u : Fin 8) (c : Bool) (e : Bool)
  /-- CPYM (R198): queues a copy-in that then injects a Mill word. -/
  | cpym (x : GReg) (a : GReg) (l : GReg) (u : Fin 8) (c : Bool) (e : Bool)
  /-- TSEND (R137): queues a send of local bytes into another core's tile, consuming a permit. -/
  | tsend (x : GReg) (cr : CapReg) (l : GReg) (u : Fin 8) (c : Bool) (e : Bool)
  /-- TGET (R227): queues a fetch of another core's tile bytes into the scratchpad. -/
  | tget (x : GReg) (cr : CapReg) (l : GReg) (u : Fin 8) (c : Bool) (e : Bool)
  /-- CWAIT (R232): waits until selected Carters have few enough outstanding commands and returns status. -/
  | cwait (d : RC) (a : RC) (m : BitVec 13)
  /-- BINIT (R234): initialises a barrier object. -/
  | binit (a : RC) (b : RC)
  /-- BEXP (R234): sets a barrier's expected units from the next phase. -/
  | bexp (a : RC) (b : RC)
  /-- ARV (R235): arrives at a barrier with u units tagged with a phase. -/
  | arv (a : RC) (b : RC)
  /-- BWAIT (R234): waits until a barrier phase is complete. -/
  | bwait (d : RC) (a : RC)
  /-- BTEST (R234): tests whether a barrier phase is complete. -/
  | btest (d : RC) (a : RC)
  /-- BOOK (R351): reads a task descriptor, checks regions and hands the task to the Reeve. -/
  | book (d : GReg) (a : GReg)
  /-- BQRY (R353): reads a summary or use word of a booking. -/
  | bqry (d : GReg) (a : GReg) (b : RC)
  /-- BCAN (R354): cancels a booking. -/
  | bcan (d : GReg) (a : GReg)
  /-- BDONE (R355): ends one use of a booking early. -/
  | bdone (d : GReg) (a : GReg) (b : RC)
  /-- LDCR (R110): loads a capability register and its tag from a 16-byte granule. -/
  | ldcr (c : CapReg) (b : GReg) (o : BitVec 6) (k : Fin 8)
  /-- STCR (R110): stores a capability register and its tag to a 16-byte granule. -/
  | stcr (c : CapReg) (b : GReg) (o : BitVec 6) (k : Fin 8)
  /-- CMOVC (R111): copies a capability register, tag included. -/
  | cmovc (d : CapReg) (a : CapReg)
  /-- CBND (R111): narrows a capability's bounds. -/
  | cbnd (d : CapReg) (a : CapReg) (b : Src)
  /-- CPRM (R111): restricts a capability's permissions. -/
  | cprm (d : CapReg) (a : CapReg) (b : Src)
  /-- CADD (R111): adds to a capability's cursor, clearing the tag outside the representable region. -/
  | cadd (d : CapReg) (a : CapReg) (b : Src)
  /-- CGET (R111): reads a field of a capability. -/
  | cget (d : RC) (a : CapReg) (b : Src)
  /-- CTAG (R111): reads the tag of a capability. -/
  | ctag (d : RC) (a : CapReg)
  /-- CCLR (R111): clears a capability register's tag. -/
  | cclr (d : CapReg)
  /-- RLD (R457): issues a remote load through a capability. -/
  | rld (d : GReg) (c : CapReg) (o : BitVec 6) (k : Fin 8) (s : Size)
  /-- RST (R457): issues a remote store through a capability. -/
  | rst (x : RC) (c : CapReg) (o : BitVec 6) (k : Fin 8) (s : Size)
  /-- RATOM.ADD (R458): issues a remote atomic add, optionally combinable, or a remote barrier arrival. -/
  | ratomAdd (d : RC) (c : CapReg) (b : Src) (cmb : Bool) (z : Bool)
  /-- RATOM.SUB (R458): issues a remote atomic subtract. -/
  | ratomSub (d : RC) (c : CapReg) (b : Src) (z : Bool)
  /-- RATOM.AND (R458): issues a remote atomic AND. -/
  | ratomAnd (d : RC) (c : CapReg) (b : Src) (z : Bool)
  /-- RATOM.OR (R458): issues a remote atomic OR. -/
  | ratomOr (d : RC) (c : CapReg) (b : Src) (z : Bool)
  /-- RATOM.XOR (R458): issues a remote atomic XOR. -/
  | ratomXor (d : RC) (c : CapReg) (b : Src) (z : Bool)
  /-- RATOM.MIN (R458): issues a remote atomic signed minimum. -/
  | ratomMin (d : RC) (c : CapReg) (b : Src) (z : Bool)
  /-- RATOM.MAX (R458): issues a remote atomic signed maximum. -/
  | ratomMax (d : RC) (c : CapReg) (b : Src) (z : Bool)
  /-- RATOM.MINU (R458): issues a remote atomic unsigned minimum. -/
  | ratomMinu (d : RC) (c : CapReg) (b : Src) (z : Bool)
  /-- RATOM.MAXU (R458): issues a remote atomic unsigned maximum. -/
  | ratomMaxu (d : RC) (c : CapReg) (b : Src) (z : Bool)
  /-- RATOM.XCHG (R458): issues a remote atomic exchange. -/
  | ratomXchg (d : RC) (c : CapReg) (b : Src) (z : Bool)
  /-- RCAS (R458): issues a remote compare-and-swap. -/
  | rcas (d : GReg) (c : CapReg) (b : Src) (z : Bool)
  /-- RLDQ (R457): issues a remote load that pushes into a reserved channel entry. -/
  | rldq (n : Fin 16) (c : CapReg) (o : BitVec 6) (k : Fin 8) (s : Size)
  /-- BNDO (R465): opens or closes a bundle context. -/
  | bndo (n : Fin 4) (a : GReg)
  /-- BNDS (R466): adds a line to an open bundle context and sends it to its home for resolution. -/
  | bnds (n : Fin 4) (c : CapReg)
  /-- BNDC (R467): queues a Carter commit of a write bundle context. -/
  | bndc (d : GReg) (n : Fin 4)
  /-- BNDR (R468): starts a read-atomic read of a bundle context's lines. -/
  | bndr (d : GReg) (n : Fin 4)
  /-- BNDQ (R469): reads a word of a bundle context without waiting. -/
  | bndq (d : RC) (n : Fin 4) (b : Src)
  /-- FTIME (R461): reads the die's fabric time. -/
  | ftime (d : RC)
  /-- CSRR (R112): reads a CSR. -/
  | csrr (d : RC) (c : BitVec 13)
  /-- CSRW (R112): writes a CSR, returning the old value. -/
  | csrw (d : RC) (a : RC) (c : BitVec 13)
  /-- CSRS (R112): sets bits of a CSR. -/
  | csrs (d : RC) (a : RC) (c : BitVec 13)
  /-- CSRC (R112): clears bits of a CSR. -/
  | csrc (d : RC) (a : RC) (c : BitVec 13)
  /-- FEAT (R116): reads a feature leaf. -/
  | feat (d : RC) (a : RC)
  /-- WFE (R121): waits for a masked event and returns the pending events. -/
  | wfe (d : RC)
  /-- TRCM (R122): appends a trace marker record. -/
  | trcm (a : Src)
  /-- SNAP (R123): requests a snapshot latch of the die at a fabric time. -/
  | snap (d : RC) (a : Src)
  /-- TLBI (R357): invalidates translations on the die and waits for in-flight users. -/
  | tlbi (a : RC) (b : RC)
  /-- TPRE (R356): pre-translates a range and reports the first failure without trapping. -/
  | tpre (d : RC) (a : RC) (b : RC)
  /-- CTXS (R359): saves a target context to a context area. -/
  | ctxs (d : RC) (a : RC) (b : RC)
  /-- CTXR (R360): restores a context image into a target context. -/
  | ctxr (d : RC) (a : RC) (b : RC)
  /-- HALT (R361): makes a debug stop of a target context or the whole die. -/
  | halt (a : RC)
  /-- VADD (R164): element-wise floating-point add. -/
  | vadd (f : LForm)
  /-- VSUB (R164): element-wise floating-point subtract. -/
  | vsub (f : LForm)
  /-- VMUL (R164): element-wise floating-point multiply. -/
  | vmul (f : LForm)
  /-- VFMA (R164): element-wise fused multiply-add. -/
  | vfma (f : LForm)
  /-- VFMS (R164): element-wise fused multiply-subtract. -/
  | vfms (f : LForm)
  /-- VFNMA (R164): element-wise d minus a times b. -/
  | vfnma (f : LForm)
  /-- VDIV (R164): element-wise correctly rounded division. -/
  | vdiv (f : LForm)
  /-- VSQRT (R164): element-wise square root. -/
  | vsqrt (f : LForm)
  /-- VRCP (R164): element-wise reciprocal. -/
  | vrcp (f : LForm)
  /-- VRSQ (R164): element-wise reciprocal square root. -/
  | vrsq (f : LForm)
  /-- VEXP2 (R164): element-wise base-2 exponential. -/
  | vexp2 (f : LForm)
  /-- VLOG2 (R164): element-wise base-2 logarithm. -/
  | vlog2 (f : LForm)
  /-- VTANH (R164): element-wise hyperbolic tangent. -/
  | vtanh (f : LForm)
  /-- VSINP (R164): element-wise sin(pi x). -/
  | vsinp (f : LForm)
  /-- VCOSP (R164): element-wise cos(pi x). -/
  | vcosp (f : LForm)
  /-- VMIN (R164): element-wise total-order minimum. -/
  | vmin (f : LForm)
  /-- VMAX (R164): element-wise total-order maximum. -/
  | vmax (f : LForm)
  /-- VABS (R164): clears each element's sign bit. -/
  | vabs (f : LForm)
  /-- VNEG (R164): inverts each element's sign bit. -/
  | vneg (f : LForm)
  /-- VCPYS (R164): copies the sign of b onto a. -/
  | vcpys (f : LForm)
  /-- VCLS (R164): writes each element's class code. -/
  | vcls (f : LForm)
  /-- VCMP.EQ (R165): element-wise compare for equality. -/
  | vcmpEq (f : LForm)
  /-- VCMP.NE (R165): element-wise compare for inequality. -/
  | vcmpNe (f : LForm)
  /-- VCMP.LT (R165): element-wise total-order less-than compare. -/
  | vcmpLt (f : LForm)
  /-- VCMP.LE (R165): element-wise less-or-equal compare. -/
  | vcmpLe (f : LForm)
  /-- VCMP.GT (R165): element-wise greater-than compare. -/
  | vcmpGt (f : LForm)
  /-- VCMP.GE (R165): element-wise greater-or-equal compare. -/
  | vcmpGe (f : LForm)
  /-- VSEL (R166): selects a or b per element by a mask register. -/
  | vsel (f : LForm)
  /-- VAND (R167): element-wise bitwise AND. -/
  | vand (f : LForm)
  /-- VOR (R167): element-wise bitwise OR. -/
  | vor (f : LForm)
  /-- VXOR (R167): element-wise bitwise XOR. -/
  | vxor (f : LForm)
  /-- VNOT (R167): element-wise bitwise NOT. -/
  | vnot (f : LForm)
  /-- VSHL (R167): element-wise left shift. -/
  | vshl (f : LForm)
  /-- VSHR (R167): element-wise logical right shift. -/
  | vshr (f : LForm)
  /-- VSHA (R167): element-wise arithmetic right shift. -/
  | vsha (f : LForm)
  /-- VIADD (R168): element-wise integer add, wrapping or saturating. -/
  | viadd (f : LForm)
  /-- VISUB (R168): element-wise integer subtract. -/
  | visub (f : LForm)
  /-- VIMUL (R168): element-wise integer multiply. -/
  | vimul (f : LForm)
  /-- VCVT (R169): converts elements between formats. -/
  | vcvt (f : LForm)
  /-- VQNT (R170): quantises blocks with E8M0 scales. -/
  | vqnt (f : LForm)
  /-- VDQT (R171): dequantises blocks using E8M0 scales. -/
  | vdqt (f : LForm)
  /-- VRED (R172): sums groups of columns with one window sum each. -/
  | vredSum (f : LForm)
  /-- VRED (R172): takes the total-order minimum of each group. -/
  | vredMin (f : LForm)
  /-- VRED (R172): takes the total-order maximum of each group. -/
  | vredMax (f : LForm)
  /-- VSCAN (R173): inclusive or exclusive prefix sums within groups. -/
  | vscanSum (f : LForm)
  /-- VSCAN (R173): inclusive prefix minimum within groups. -/
  | vscanMin (f : LForm)
  /-- VSCAN (R173): inclusive prefix maximum within groups. -/
  | vscanMax (f : LForm)
  /-- VTOPK (R174): selects the top k candidates with their global indices. -/
  | vtopk (f : LForm)
  /-- VSORT (R174): sorts the active elements with their global indices. -/
  | vsort (f : LForm)
  /-- VTRN (R175): transposes a register. -/
  | vtrn (f : LForm)
  /-- VPERM (R176): permutes elements by an index register. -/
  | vperm (f : LForm)
  /-- VBCST (R177): broadcasts operand element 0 to every active element. -/
  | vbcst (f : LForm)
  /-- VBCST (R177): broadcasts row 0 to every row. -/
  | vbcstRow (f : LForm)
  /-- VBCST (R177): broadcasts column 0 to every column. -/
  | vbcstColumn (f : LForm)
  /-- VSHAPE (R178): sets the shape register from a vg register. -/
  | vshape (f : LForm)
  /-- VSHAPE (R178): sets the shape register from power-of-two immediates. -/
  | vshapeImmediate (f : LForm)
  /-- VMOV (R179): moves active elements unchanged. -/
  | vmov (f : LForm)
  /-- VMOV.S (R179): moves operand element 0 into a vg register. -/
  | vmovS (f : LForm)
  /-- VMOV.I (R179): adds an immediate to a vg register into another. -/
  | vmovI (f : LForm)
  /-- VMOV.Q (R179): pushes a vg register into a channel. -/
  | vmovQ (f : LForm)
  /-- VLD (R180): loads contiguous scratchpad bytes into a register. -/
  | vld (f : LForm)
  /-- VST (R180): stores a register's active elements to the scratchpad. -/
  | vst (f : LForm)
  /-- VLDFF (R182): first-fault gather from global memory. -/
  | vldff (f : LForm)
  /-- VGTH (R181): gathers scratchpad elements through an index register. -/
  | vgth (f : LForm)
  /-- VSCT (R181): scatters elements to the scratchpad through an index register. -/
  | vsct (f : LForm)
  /-- VPRED (R183): sets a predicate count from a vg register. -/
  | vpred (f : LForm)
  /-- VPRED (R183): sets a predicate to the minimum of another predicate and a vg register. -/
  | vpredMin (f : LForm)
  /-- VPRED (R183): sets a predicate to the first all-zero active element. -/
  | vpredZero (f : LForm)
  /-- VRAND (R184): fills elements from KMIX-6 and advances the counter. -/
  | vrand (f : LForm)
  /-- VLOOP (R185): opens a Loom hardware loop level. -/
  | vloop (f : LForm)
  /-- VBR.EQ (R186): loom branch when two vg registers are equal. -/
  | vbrEq (f : LForm)
  /-- VBR.NE (R186): loom branch when two vg registers differ. -/
  | vbrNe (f : LForm)
  /-- VBR.LT (R186): loom branch on signed less-than. -/
  | vbrLt (f : LForm)
  /-- VBR.GE (R186): loom branch on signed greater-or-equal. -/
  | vbrGe (f : LForm)
  /-- VBR.LTU (R186): loom branch on unsigned less-than. -/
  | vbrLtu (f : LForm)
  /-- VBR.GEU (R186): loom branch on unsigned greater-or-equal. -/
  | vbrGeu (f : LForm)
  /-- MSTEP (R200): performs n tile steps on a bank, with optional prologue and epilogue. -/
  | mstep (f : MForm)
  /-- MCLR (R201): clears an accumulator bank. -/
  | mclr (f : MForm)
  /-- MSWAP (R201): exchanges the two accumulator banks. -/
  | mswap (f : MForm)
  /-- MLDA (R202): loads a bank's raw elements through a descriptor. -/
  | mlda (f : MForm)
  /-- MSTA (R202): stores a bank's raw elements through a descriptor. -/
  | msta (f : MForm)
  /-- MPRO (R203): runs the HS4 prologue alone, writing BF16 weights. -/
  | mpro (f : MForm)
  /-- MEPI (R204): runs the epilogue on a bank. -/
  | mepi (f : MForm)
  /-- MRPG.R (R206): copies mrp into an mg register. -/
  | mrpgR (f : MForm)
  /-- MRPG.W (R206): writes mrp from an mg register. -/
  | mrpgW (f : MForm)
  /-- MRPG.I (R206): loads an immediate into an mg register. -/
  | mrpgI (f : MForm)
  /-- MRPG.A (R206): adds an immediate to an mg register. -/
  | mrpgA (f : MForm)
  /-- MLOOP (R207): opens a Mill hardware loop level. -/
  | mloop (f : MForm)
  /-- MBR.EQ (R207): mill branch when two mg registers are equal. -/
  | mbrEq (f : MForm)
  /-- MBR.NE (R207): mill branch when two mg registers differ. -/
  | mbrNe (f : MForm)
  /-- MBR.LT (R207): mill branch on signed less-than. -/
  | mbrLt (f : MForm)
  /-- MBR.GE (R207): mill branch on signed greater-or-equal. -/
  | mbrGe (f : MForm)
  /-- MBR.LTU (R207): mill branch on unsigned less-than. -/
  | mbrLtu (f : MForm)
  /-- MBR.GEU (R207): mill branch on unsigned greater-or-equal. -/
  | mbrGeu (f : MForm)
  /-- MJ (R207): mill unconditional jump. -/
  | mj (f : MForm)
  -- words without operand fields
  /-- RDV (R24): the access core arrives at the job's rendezvous and waits for the meeting. -/
  | rdv
  /-- EXIT (R26): ends the access core stream, which goes to DONE. -/
  | exit
  /-- NOP (R104): has no effect. -/
  | nop
  /-- FENCE.rel (R269): orders every earlier access before later stores and Carter commands at a scope. -/
  | fenceRelSt
  /-- FENCE.rel (R269): orders every earlier access before later stores and Carter commands at a scope. -/
  | fenceRelCo
  /-- FENCE.rel (R269): orders every earlier access before later stores and Carter commands at a scope. -/
  | fenceRelCl
  /-- FENCE.rel (R269): orders every earlier access before later stores and Carter commands at a scope. -/
  | fenceRelDi
  /-- FENCE.rel (R269): orders every earlier access before later stores and Carter commands at a scope. -/
  | fenceRelPk
  /-- FENCE.rel (R269): orders every earlier access before later stores and Carter commands at a scope. -/
  | fenceRelSy
  /-- ECALL (R118): enters system mode with cause 0x16. -/
  | ecall
  /-- EBREAK (R118): raises breakpoint 0x12. -/
  | ebreak
  /-- ULIRET (R119): returns from the user-level handler. -/
  | uliret
  /-- SRET (R120): returns from system mode. -/
  | sret
  /-- VRDV (R187): the Loom arrives at the rendezvous. -/
  | vrdv
  /-- VEXIT (R187): ends the Loom stream. -/
  | vexit
  /-- MINJ (R205): waits for and executes the head of the injection queue. -/
  | minj
  /-- MRDV (R207): the Mill arrives at the rendezvous after earlier instructions retire. -/
  | mrdv
  /-- MEXIT (R207): ends the Mill stream after earlier instructions retire. -/
  | mexit
  -- events: steps of the part that have no word; `State.ev` holds which object each is about
  /-- JOB_RESIDENT (R126): the front end makes a job resident in a context with its way mask. -/
  | jobResident
  /-- GANG_START (R16): a gang's streams leave IDLE when the common start slot begins. -/
  | gangStart
  /-- WAIT_SATISFIED (R19): a waiting stream resumes once its wait object is satisfied. -/
  | waitSatisfied
  /-- CHANNEL_TIMEOUT (R20): a channel wait exceeding chlim raises channel timeout. -/
  | channelTimeout
  /-- MEETING_OPEN (R24): the meeting opens and all waiting streams leave the rendezvous together. -/
  | meetingOpen
  /-- JOB_RETIRE (R27): a job whose streams are done and whose copies and stores have performed retires. -/
  | jobRetire
  /-- ENGINE_FAULT_DELIVERY (R33): a stopped engine's fault or a pending report is delivered to the access core at its next boundary. -/
  | engineFaultDelivery
  /-- HALT_RESUME (R361): the Moot resumes a halted context and held traffic takes effect. -/
  | haltResume
  /-- PREEMPT (R318): the front end saves a job's context to pre-empt it. -/
  | preempt
  /-- CARTER_COMMAND_RESUME (R128): a paused Carter command resumes once no other context's booked use is current. -/
  | carterCommandResume
  /-- CARTER_COMMAND_START (R227): a Carter takes the next command from its queue and executes it. -/
  | carterCommandStart
  /-- CARTER_COMMAND_COMPLETE (R228): a Carter command completes, arriving at its barrier and raising event CPY. -/
  | carterCommandComplete
  /-- CARTER_COMMAND_FAIL (R230): a Carter command fails imprecisely and discards its remaining rows. -/
  | carterCommandFail
  /-- INJECTION_QUEUE_ENTRY (R198): a CPYM's Mill word enters the injection queue once room frees. -/
  | injectionQueueEntry
  /-- PERMIT_ARRIVAL (R209): a permit arrives at the target core for its permit table. -/
  | permitArrival
  /-- PERMIT_ENTER (R137): a waiting permit enters the permit table once an entry or context is available. -/
  | permitEnter
  /-- LANDING_ARRIVAL (R442): a landing message reaches the receiving die and resolves its core and context. -/
  | landingArrival
  /-- LANDING_WRITE (R137): a queued landing finds its tile empty, writes its sectors and sets FULL. -/
  | landingWrite
  /-- LANDING_ACK (R442): the landing acknowledgement reaches the sender and completes the TSEND. -/
  | landingAck
  /-- TILE_STEP (R193): a Mill tile step enters the array once its tiles are full. -/
  | tileStep
  /-- MILL_EPILOGUE (R197): after drain and tag wait the epilogue converts and writes a bank. -/
  | millEpilogue
  /-- MILL_RETIRE (R191): a Mill array instruction retires after its drain and its writes are performed. -/
  | millRetire
  /-- ACCESS_COMPLETE (R240): a global load or store completes at its point of coherence. -/
  | accessComplete
  /-- ATOMIC_PERFORM (R242): the atomic unit performs a queued read-modify-write. -/
  | atomicPerform
  /-- TRANSLATION_WALK (R311): the walker completes a page-table walk for a TLB miss. -/
  | translationWalk
  /-- TLBI_RETIRE (R314): a TLBI retires once dying entries' counts and translated accesses drain. -/
  | tlbiRetire
  /-- SLOT_START (R304): a calendar slot begins and the Reeve does its ordered work. -/
  | slotStart
  /-- INTAKE_AGEING (R301): a task waiting past its level's ageing time rises one intake level. -/
  | intakeAgeing
  /-- BOOK_RESULT (R352): the Reeve's result reaches BOOK's destination register. -/
  | bookResult
  /-- PREP (R289): a receiving Reeve tests and marks slots for a remote booking part. -/
  | prep
  /-- BOOKING_ACK (R289): the coordinator receives an ACK and sends COMMIT once all are in. -/
  | bookingAck
  /-- BOOKING_NACK (R289): the coordinator receives a NACK, aborts and places again with a shift. -/
  | bookingNack
  /-- BOOKING_COMMIT (R289): a receiving Reeve turns its marks to committed and enters regions. -/
  | bookingCommit
  /-- BOOKING_COMMIT_ACK (R289): the coordinator receives a COMMIT_ACK and commits locally once all are in. -/
  | bookingCommitAck
  /-- BOOKING_COMMIT_NACK (R291): a late COMMIT is refused, and the coordinator cancels and re-places. -/
  | bookingCommitNack
  /-- BOOKING_ABORT (R289): a Reeve frees the tentative marks of an aborted booking. -/
  | bookingAbort
  /-- WOUND (R290): a younger booking's coordinator is wounded and aborts or refuses. -/
  | wound
  /-- REFUSE (R290): a wounding receiver treats marks as committed and NACKs the older PREP. -/
  | refuse
  /-- TENTATIVE_MARK_TIMEOUT (R291): a tentative mark unresolved within 64 slots is freed. -/
  | tentativeMarkTimeout
  /-- REMOTE_ANSWER_TIMEOUT (R291): a die silent for 64 slots ends the attempt with REMOTE_FAIL. -/
  | remoteAnswerTimeout
  /-- GANG_PROPOSAL (R292): a die's Reeve answers a proposed gang start slot. -/
  | gangProposal
  /-- SCRUB (R328): the patrol scrub reads a sector and corrects or poisons it. -/
  | scrub
  /-- SAMPLE_RECORD (R336): every smpper cycles the trace unit writes sample records. -/
  | sampleRecord
  /-- STOP_AT_CUT (R339): a die reaches cut time T and stops its covered cores. -/
  | stopAtCut
  /-- SNAP_TRIGGER (R367): at the trigger time every block latches its snapshot words. -/
  | snapTrigger
  /-- REPLAY_ORDER_POINT (R346): a replaying agent proceeds past its order point once earlier records are replayed. -/
  | replayOrderPoint
  /-- STATUS_WORD_WRITE (R37): a write to a stream status word clears STOPD to resume or quit a stopped stream. -/
  | statusWordWrite
  /-- STREAM_PC_WRITE (R38): a write to vpc or mpc of a stopped stream, which zeroes mrp. -/
  | streamPcWrite
  /-- EVPEND_WRITE (R121): a write of ones clears pending event bits. -/
  | evpendWrite
  /-- CHLIM_WRITE (R113): a write to the channel stall limit, 0 or a large value giving the maximum. -/
  | chlimWrite
  /-- ROUNDING_KEY_WRITE (R115): a write to srkey or a rounding counter, seen whole by later rounding instructions. -/
  | roundingKeyWrite
  /-- ULDEL_WRITE (R34): a write to the delegation mask, taking only the writable cause bits. -/
  | uldelWrite
  /-- DBGCTL_WRITE (R363): a write to dbgctl, where clearing WPUL also clears the uldel bit of 0x14. -/
  | dbgctlWrite
  /-- RGBASE_WRITE (R366): a write to a ring base, resetting that ring's read and write pointers. -/
  | rgbaseWrite
  /-- RGRDP_WRITE (R366): software advances a ring's read pointer. -/
  | rgrdpWrite
  /-- EVSEL_WRITE (R338): a write to an event selector, its OVF bit write-1-to-clear. -/
  | evselWrite
  /-- REGISTER_WRITE (R112): a write to any register without behaviour of its own. -/
  | registerWrite
  /-- FECTL_WRITE (R381): the host sets EN, building the admin queue and starting fabric time at the root. -/
  | fectlWrite
  /-- DOORBELL (R383): the host writes a queue's new WRIDX to its doorbell. -/
  | doorbell
  /-- EMERG_CLEAR (R380): the host clears emergency trip flags. -/
  | emergClear
  /-- QUEUE_MAP (R384): the Moot maps an active queue into a free hardware slot. -/
  | queueMap
  /-- QUEUE_UNMAP (R384): a queue empty for 100 microseconds is unmapped. -/
  | queueUnmap
  /-- QUEUE_AGEING (R385): a queue waiting past its AGE rises one priority level. -/
  | queueAgeing
  /-- LAUNCH (R397): a LAUNCH packet starts and is expanded into jobs. -/
  | launch
  /-- BOOK_PACKET (R400): a BOOK packet submits a descriptor to a die's Reeve. -/
  | bookPacket
  /-- COPY (R395): a COPY packet moves bytes with the I/O die's copy engine. -/
  | copy
  /-- BARRIER_AND (R393): a BARRIER_AND packet starts and reads its signals. -/
  | barrierAnd
  /-- BARRIER_AND_READ (R393): a waiting BARRIER_AND re-reads its signals after one changes. -/
  | barrierAndRead
  /-- SIGNAL (R395): a SIGNAL packet sets or adds to a signal. -/
  | signal
  /-- QUEUE_CREATE (R382): cONFIG op 0x01 builds a queue record. -/
  | queueCreate
  /-- QUEUE_DESTROY (R389): cONFIG op 0x02 frees a queue once idle. -/
  | queueDestroy
  /-- QUEUE_RESET (R389): cONFIG op 0x03 clears a queue's error and skips unstarted packets. -/
  | queueReset
  /-- IMAGE_LOAD (R406): cONFIG op 0x10 copies, verifies and loads a kernel image. -/
  | imageLoad
  /-- IMAGE_UNLOAD (R389): cONFIG op 0x11 unloads an image not in use. -/
  | imageUnload
  /-- POWER (R412): cONFIG op 0x20 requests a die power state change. -/
  | power
  /-- POWER_CHANGE (R412): after the drain or at the window's slot the die begins its clock change. -/
  | powerChange
  /-- RELOCK_COMPLETE (R412): the 20-microsecond clock relock ends and the die resumes. -/
  | relockComplete
  /-- CFG_INSTALL (R410): cONFIG op 0x30 installs a signed configuration record. -/
  | cfgInstall
  /-- ALMANAC (R346): cONFIG op 0x40 starts or stops recording or replay. -/
  | almanac
  /-- PACKET_COMPLETE (R392): a packet completes, releasing its effects and writing its signal. -/
  | packetComplete
  /-- BOOT (R408): at reset the boot ROM derives keys and starts verified firmware. -/
  | boot
  /-- EMERGENCY_TRIP (R413): a thermal or supply trip moves the die to P2 or halts it. -/
  | emergencyTrip
  /-- GRANARY_LINK_FAIL (R404): a failed Granary link raises a machine check and poisons later accesses. -/
  | granaryLinkFail
  /-- MOOT_SRAM_ERROR (R377): an uncorrectable Moot SRAM error halts the firmware. -/
  | mootSramError
  /-- HOST_HDM_READ (R403): the host reads the HDM window. -/
  | hostHdmRead
  /-- HOST_HDM_WRITE (R403): the host writes the HDM window with a fresh sector check. -/
  | hostHdmWrite
  /-- GET_VERSION (R6): sPDM GET_VERSION request over DOE. -/
  | getVersion
  /-- GET_CAPABILITIES (R6): sPDM GET_CAPABILITIES request over DOE. -/
  | getCapabilities
  /-- NEGOTIATE_ALGORITHMS (R6): sPDM NEGOTIATE_ALGORITHMS request over DOE. -/
  | negotiateAlgorithms
  /-- GET_DIGESTS (R6): sPDM GET_DIGESTS request over DOE. -/
  | getDigests
  /-- GET_CERTIFICATE (R6): sPDM GET_CERTIFICATE request over DOE. -/
  | getCertificate
  /-- CHALLENGE (R6): sPDM CHALLENGE request over DOE. -/
  | challenge
  /-- GET_MEASUREMENTS (R409): sPDM request answered with the signed measurement blocks. -/
  | getMeasurements
  /-- FLIT_RECEIVE (R419): a link receiver checks a flit's CRC and sequence and updates credits. -/
  | flitReceive
  /-- LINK_RETRAIN (R420): a link retrains after repeated unacknowledged sends or silence. -/
  | linkRetrain
  /-- BEACON_SEND (R426): the time root sends a beacon every 8 microseconds. -/
  | beaconSend
  /-- BEACON (R426): a die applies a beacon from its parent port and forwards it. -/
  | beacon
  /-- LINK_DELAY_MEASURE (R426): a port measures its link's one-way delay periodically. -/
  | linkDelayMeasure
  /-- BEACON_TIMEOUT (R428): a die without a beacon for 1 ms is out of step. -/
  | beaconTimeout
  /-- PARENT_PORT_ASSIGN (R428): the Moot assigns a die a new beacon parent port. -/
  | parentPortAssign
  /-- REMOTE_OPERATION (R433): a remote operation is checked against its window and performed at its home. -/
  | remoteOperation
  /-- REMOTE_REPLY (R456): a remote operation's reply or failure reaches the requester. -/
  | remoteReply
  /-- COMBINING (R436): a router merges an arriving combinable add into a queued request. -/
  | combining
  /-- COMBINED_REPLY (R437): a router splits a combined reply among its members. -/
  | combinedReply
  /-- SPLIT_RECORD_TIMEOUT (R440): a split record without a reply for 1 ms answers LINK to every member. -/
  | splitRecordTimeout
  /-- BNDS_LINE_REQUEST (R466): a home checks a BNDS request and returns the global line address. -/
  | bndsLineRequest
  /-- BNDS_COMPLETE (R466): a BNDS answer writes its LINE word or sets BAD. -/
  | bndsComplete
  /-- PREPARE (R446): a bundle home stages a pending version or answers BUSY or STALE. -/
  | prepare
  /-- BUNDLE_COMMIT (R446): a bundle home makes the pending version current. -/
  | bundleCommit
  /-- BUNDLE_ABORT (R446): a bundle home discards a pending version. -/
  | bundleAbort
  /-- READ_CURRENT (R446): a bundle home returns a line's current version. -/
  | readCurrent
  /-- READ_EXACT (R446): a bundle home returns a named version, committing it if pending. -/
  | readExact
  /-- BUNDLE_ACK (R447): the writer's Carter records a line's PREPARE acknowledgement. -/
  | bundleAck
  /-- BUSY (R447): the writer aborts and backs off or retries on a BUSY answer. -/
  | busy
  /-- BUNDLE_STALE (R447): the writer aborts and takes a new stamp on a STALE answer. -/
  | bundleStale
  /-- BUNDLE_BACKOFF (R447): the writer's backoff or retry delay expires and it sends PREPARE again. -/
  | bundleBackoff
  /-- BUNDLE_COMMIT_ACK (R467): the writer receives COMMIT answers and completes BNDC when all are in. -/
  | bundleCommitAck
  /-- BUNDLE_COMMIT_NACK (R448): a COMMIT_NACK makes BNDC complete with bundle fault. -/
  | bundleCommitNack
  /-- ABORT_ACK (R446): the writer receives a home's acknowledgement of an abort. -/
  | abortAck
  /-- BNDR_ROUND_COMPLETE (R449): a BNDR round's answers are all in, leading to round 2, delivery or restart. -/
  | bndrRoundComplete
  /-- PENDING_VERSION_TIMEOUT (R448): a home asks the stamp's die about a version pending for 64 slots. -/
  | pendingVersionTimeout
  /-- OUTCOME_QUERY (R448): the stamp's die answers COMMITTED or UNKNOWN. -/
  | outcomeQuery
  /-- COMMITTED (R448): a home commits a pending version on a COMMITTED answer. -/
  | committed
  /-- UNKNOWN (R448): a home aborts a pending version on an UNKNOWN answer. -/
  | unknown
  /-- OUTCOME_TIMEOUT (R448): with no answer in a further 64 slots the home aborts and raises a machine check. -/
  | outcomeTimeout
  /-- SYSTEM_STOP_BROADCAST (R451): a die receives and forwards a system stop broadcast with cut time T. -/
  | systemStopBroadcast
  /-- SNAPSHOT_BROADCAST (R451): a die receives and forwards a system snapshot broadcast. -/
  | snapshotBroadcast
  /-- REPLAY_START (R453): the Moots agree a start slot and each die begins replaying its Almanac. -/
  | replayStart
  /-- REPLAY_HALT_BROADCAST (R453): a divergence halt broadcast halts the whole replay domain. -/
  | replayHaltBroadcast
  /-- ILLEGAL_INSTRUCTION (R58): an engine reaches an unassigned, reserved, all-zero or all-ones word and raises 0x01. -/
  | illegalInstruction
  /-- FETCH_FAULT (R43): a fetch meets a translation or permission fault, or a misaligned program counter, and the fault is taken at that word. -/
  | fetchFault
  /-- TRAINING_COMPLETE (R420): link training or retraining ends: the link comes up with absolute pool counts and SEQ restarted, or the attempt counts as failed. -/
  | trainingComplete
  /-- MOOT_LINK_RETRAIN (R420): the Moot retrains a link that is down. -/
  | mootLinkRetrain
  /-- IDLE_WAKE (R412): a die in idle finishes waking 50 µs after a packet needs it, and that packet then completes. -/
  | idleWake
  /-- CONTEXT_SAVE_COMPLETE (R359): a context save finishes writing the area, writes its status, and frees the context. -/
  | contextSaveComplete
  /-- CONTEXT_RESTORE_COMPLETE (R360): a context restore finishes or fails its checks, writes its status, and lets held landings take effect. -/
  | contextRestoreComplete
  /-- LINK_STATUS_READ (R421): the Moot reads an lkst register, clearing its read-clear counters. -/
  | linkStatusRead
  /-- UNSUPPORTED_REQUEST (R6): a host request that uses an unlisted standard feature receives the standard's unsupported response. -/
  | unsupportedRequest
  /-- DOE_DISCOVERY (R402): the host sends a DOE discovery request, and the mailbox answers with its protocols. -/
  | doeDiscovery
deriving DecidableEq, Repr

end Sys2Proof
end

