-- ==== Sys2Proof/Machine/State.lean ====
section
/-!
DEFINITION. The state of the system as plain data: contexts, cores, dies, packages, the fabric, and the model's own input (the
agenda).  Collections by key are sparse lists in one canonical form: keys strictly rising, no entry at the default
(Machine/Sparse.lean).  INVENTORY.md lists every field with its rule and reset value.
-/
namespace Sys2Proof.Machine
open Sys2Proof

/-- Why the machine stops for good.  No spec'd behaviour ends this way; see NOTES.md, '## Stops'. -/
inductive Fault where
  /-- Raised by a step whose cursor or agenda names a die, core or context that the geometry does not have.  Safe: the spec has no
  such object. -/
  | noSuchObject
deriving DecidableEq, Repr

/-- Why an instruction has no meaning. -/
inductive Refusal where
  /-- Raised by an arm of exec whose instruction is not modelled.  Safe. -/
  | notModelled (mnemonic : String)
deriving DecidableEq, Repr

/-- Bytes by address: `Host.Cell` pairs, unlisted addresses read 0 (notes/assumptions/3.md). -/
abbrev Mem := List Host.Cell

/-! ### Streams -/

/-- The seven states of a stream (01 R12). -/
inductive RunState where
  | absent | idle | run | wait | susp | stop | done
deriving DecidableEq, Repr

/-- One level of a hardware loop stack (04 R102). -/
structure LoopLevel where
  start : Word
  last : Word
  count : Word
deriving DecidableEq, Repr

/-- A condition of a channel wait (04 R93): entry number `n` from the head is held, or for a push at most `n` are. -/
structure ChNeed where
  ch : Nat
  push : Bool
  n : Nat
deriving DecidableEq, Repr

/-- The stored fields of a stream status word (01 R13).  STOPD is STATE = STOP; USE and GATE follow from the head instruction, HALT,
BH, BKD, CTX, MODE and ULI from the context.  `obj` and `since` are the object of the present wait and the die cycle it began in (05 R152); `aux` is a second value
of the wait (a direction, a count). -/
structure Stat where
  cause : BitVec 8 := 0
  wkind : BitVec 4 := 0
  st : RunState := .absent
  sstep : Bool := false
  bps : Bool := false
  quit : Bool := false
  obj : Word := 0
  aux : Word := 0
  since : Nat := 0
  needs : List ChNeed := []
deriving DecidableEq, Repr

/-- A capability register: 128 bits and the hidden tag (01 R10, 04 R111). -/
structure Cap where
  bits : BitVec 128 := 0
  tag : Bool := false
deriving DecidableEq, Repr

/-- The access-core stream's registers (01 R10); `fly` is the offset, length and direction of the scratchpad access of an instruction that
has begun and not been performed (05 R144). -/
structure AccessSt where
  pc : Word := 0
  g : List (Nat × Word) := []
  gs : List (Nat × Word) := []
  c : List (Nat × Cap) := []
  sys : Bool := false
  uli : Bool := false
  loops : List LoopLevel := []
  stat : Stat := {}
  fly : Option (Nat × Nat × Bool) := none
deriving DecidableEq, Repr

/-- The CSRs of a context that hold a value of their own (04 R113, R114; 13 R312; 14 R364, R365, R367).  `cycOff` is the die cycle
in which `cycle` read 0. -/
structure CsrSt where
  srkey : Word := 0
  srcv : Word := 0
  srcm : Word := 0
  ulvec : Word := 0
  ulepc : Word := 0
  ulcause : Word := 0
  ulval : Word := 0
  uleng : Word := 0
  evmask : Word := 0
  evpend : Word := 0
  chlim : Word := 0x100000
  cycOff : Word := 0
  instret : Word := 0
  sepc : Word := 0
  scause : Word := 0
  sval : Word := 0
  seng : Word := 0
  snj : Bool := false
  pm : Bool := false
  te : Bool := true
  svec : Word := 0
  uldel : Word := 0
  sscratch : Word := 0
deriving DecidableEq, Repr

/-- The debug block of a context (14 R364, R365; 13 R312, 14 R367). -/
structure DebugSt where
  ibp : List (Nat × Word) := []
  wpb : List (Nat × Word) := []
  wpm : List (Nat × Word) := []
  xctx : Word := 0
  snapsel : Word := 0
deriving DecidableEq, Repr

/-- The launch place of a job (01 R28). -/
structure LaunchSt where
  lix : List (Nat × Word) := []
  lcnt : List (Nat × Word) := []
  ldom : List (Nat × Word) := []
deriving DecidableEq, Repr

/-- A Loom instruction between the start of its phase 2 and its retirement (05 R144; 06 R161): the sectors that it reads and writes,
the descriptors that it names (08 R222). -/
structure LoomFly where
  i : Instr
  sds : List Nat := []
  rd : List Nat := []
  wr : List Nat := []
deriving DecidableEq, Repr

/-- The Loom stream's registers (01 R10, 06 R155 to R158), and its instruction in flight, if any. -/
structure LoomSt where
  pc : Word := 0
  v : List (Nat × BitVec 32768) := []
  shape : Word := 0x200200020
  p : List (Nat × BitVec 16) := []
  vg : List (Nat × Word) := []
  loops : List LoopLevel := []
  stat : Stat := {}
  fly : Option LoomFly := none
deriving DecidableEq, Repr

/-- How far a Mill array instruction in flight has come (07 R191, R193, R195, R196): performing steps; in its drain or waiting to write; its
epilogue under way, its writes due at its retirement. -/
inductive MillStage where
  | steps | drain | writing
deriving DecidableEq, Repr

/-- A Mill array instruction between its start and its retirement (07 R191); `out` lists the sectors it will write (05 R144), `img` is
the output descriptor as it stood at the start (08 R222), `key` and `ctr` the rounding registers read at issue (04 R115), `data` the
weights that an MPRO writes, `rd` the sectors of a tile step that has begun (05 R144); `own` marks the MSTEP whose step `mrp` names
(R193). -/
structure MillFly where
  op : Nat
  f : MForm
  inj : Bool
  step : Nat
  stage : MillStage
  out : List Nat := []
  img : BitVec 512 := 0
  key : Word := 0
  ctr : Word := 0
  data : List (BitVec 32) := []
  rd : List Nat := []
  own : Bool := false
deriving DecidableEq, Repr

/-- A word of the injection queue with its source Carter (07 R198, R199). -/
structure InjEntry where
  word : BitVec 192
  src : Bool
  tile : Word := 0
deriving DecidableEq, Repr

/-- The Mill stream's registers (01 R10, 07).  Accumulator cells are keyed i × 256 + j; `pend` is a report that stops the stream at its
next instruction boundary (07 R193); `susp` marks a slip suspension that comes with the end of the step in flight (01 R23, 07 R194);
`back` is where the stream stood at the MSTEP that it passed last, while nothing has issued since (01 R42, 07 R193); `left` marks an MSTEP
whose wait has been abandoned and whose step has not been tried since (08 R222). -/
structure MillSt where
  pc : Word := 0
  mg : List (Nat × Word) := []
  acc0 : List (Nat × BitVec 32) := []
  acc1 : List (Nat × BitVec 32) := []
  mrp : BitVec 16 := 0
  loops : List LoopLevel := []
  stat : Stat := {}
  flight : List MillFly := []
  injq : List InjEntry := []
  injv : Bool := false
  injw : BitVec 192 := 0
  pend : Option (Nat × Word) := none
  susp : Bool := false
  back : Option (Word × List LoopLevel) := none
  left : Bool := false
deriving DecidableEq, Repr

/-! ### Shared job state -/

/-- A place of a core's register, accumulator and descriptor storage that can hold an uncorrectable error (05 R154): the access core's
registers, an 8-byte word of a v register, the Loom's other registers, the Mill's, an accumulator element, a stream descriptor, a bundle
context. -/
inductive Loc where
  | g (k : Nat)
  | gs (k : Nat)
  | cap (k : Nat)
  | v (k w : Nat)
  | p (k : Nat)
  | vg (k : Nat)
  | shape
  | mg (k : Nat)
  | mrp
  | acc (b : Bool) (e : Nat)
  | desc (k : Nat)
  | bd (k : Nat)
deriving DecidableEq, Repr

/-- A channel entry; `filled` is false while the access `id` that reserved it has not completed (04 R93, 11 R264); `bad` marks an
uncorrectable error in its storage (05 R154). -/
structure ChEntry where
  val : Word := 0
  filled : Bool := true
  id : Nat := 0
  bad : Bool := false
deriving DecidableEq, Repr

/-- A channel: its configuration word, its entries, the head first, and how many entries have been pushed since it was configured
(05 R143, 04 R107, 13 R342). -/
structure Chan where
  cfg : Word := 0
  q : List ChEntry := []
  pushes : Nat := 0
deriving DecidableEq, Repr

/-- The Carter commands (08 R223) and the bundle commands that a Carter carries out (18 R467, R468). -/
inductive CmdKind where
  | cpy | cpyg | cpys | cpym | tsend | tget | bndc | bndr
deriving DecidableEq, Repr

/-- How far a BNDC has come (17 R447): its stamp, its lines' bytes and poisoned sectors; its phase (0 not started, 1 PREPARE, 2 COMMIT, 3
backing off, 4 about to send again); the lines whose answer is awaited and those acknowledged; whether this round met a pending version
to give way to, a STALE, an older writer, a dead link; aborts made; a COMMIT_NACK; and until when it waits. -/
structure BndW where
  stamp : Word := 0
  data : List (List Byte) := []
  pois : List (List Nat) := []
  phase : Nat := 0
  await : List Nat := []
  acked : List Nat := []
  yield_ : Bool := false
  stale : Bool := false
  again : Bool := false
  cut : Option Nat := none
  aborts : Nat := 0
  nack : Bool := false
  until_ : Nat := 0
deriving DecidableEq, Repr

/-- A permit held by a sending context (05 R137; 08 R209; 17 R441): the granting die and core, the slot's GTAG, the tile address, the
launch, CSEL and CTX, and how many. -/
structure Permit where
  die : Nat
  core : Nat
  gtag : BitVec 48
  addr : Word
  launch : Nat
  csel : Bool
  cctx : Nat
  count : Nat
deriving DecidableEq, Repr

/-- A command in a Carter queue (08 R223 to R230).  `done` counts bytes moved, `rows` rows moved; `started` is set while the Carter
executes it, `moved` once every byte has moved, `wait` while its completion awaits an answer of another die, `fail` once it has
failed (the cause), `dis` while the rows left after a failure are discarded.  `pages` lists the die TLB entries it counts in
(ASID, base × 64 + log; 13 R313), `perm` is the permit that a TSEND
consumed, `seen` marks a watchpoint reported, `iw` is the instruction word, `ord` its place in issue order (05 R145).  A TGET keeps the bytes that have
come in `bw`.  A BNDC names its context in `bd`, the access that awaits its
stamp in `dest`, and keeps the hops' part of its duration in `a`; the kind `bndr` stands for the area of a BNDR alone. -/
structure Cmd where
  kind : CmdKind
  use : Nat := 0
  arv : Bool := false
  x : Word := 0
  l : Word := 0
  a : Word := 0
  cap : Cap := {}
  ch : Nat := 0
  millw : BitVec 192 := 0
  seq : Nat := 0
  bd : Nat := 0
  dest : Nat := 0
  started : Bool := false
  paused : Bool := false
  susp : Bool := false
  done : Nat := 0
  rows : Nat := 0
  moved : Bool := false
  wait : Nat := 0
  fail : Nat := 0
  failVal : Word := 0
  dis : Bool := false
  since : Nat := 0
  pages : List (Nat × Nat) := []
  perm : Option Permit := none
  seen : Bool := false
  iw : Nat := 0
  ord : Nat := 0
  bw : BndW := {}
deriving DecidableEq, Repr

/-- One Carter's queue of a context (05 R125, 08 R227, R232).  `seq` numbers its commands (13 R336). -/
structure CarterQ where
  q : List Cmd := []
  seq : Nat := 0
  fail : Bool := false
  ps : Bool := false
  pz : Bool := false
deriving DecidableEq, Repr

/-- A report that waits to be delivered to the access core (01 R35).  `rank` is its place in the delivery order: 0 Loom, 1 Mill, 2 C0,
3 C1, 4 remote watchpoint, 5 failure at completion;
failures at completion go in the order `ord` in which their accesses issued (11 R268). -/
structure Report where
  rank : Nat
  cause : Nat
  val : Word
  eng : Nat
  ord : Nat := 0
deriving DecidableEq, Repr

/-- What the front end gives a job (13 R321, R322; 16 R396 to R398). -/
structure Job where
  pkg : Nat := 0
  launch : Nat := 0
  flat : Nat := 0
  ents : Word := 0
  entv : Word := 0
  entm : Word := 0
  pa : Bool := false
  pv : Bool := false
  pm : Bool := false
  prio : Nat := 0
  bkd : Bool := false
  handle : Nat := 0
  gang : Bool := false
  gstart : Nat := 0
  scope : Nat := 1
  tiles : Nat := 0
  arg : Word := 0
  svec : Word := 0
  xctx : Word := 0
  place : LaunchSt := {}
deriving DecidableEq, Repr

/-- A bundle context bd0 to bd3: 16 words (18 R462). -/
structure Bd where
  w : List (Nat × Word) := []
deriving DecidableEq, Repr

/-- A line's version as a BNDR has received it (17 R449). -/
structure BndLine where
  k : Nat
  stamp : Word
  data : List Byte
  comps : List Nat
  pois : List Nat := []
deriving DecidableEq, Repr

/-- A BNDR in progress (17 R449, 18 R468): its context, the access that awaits its status, its area as a length word, attempt, round, the
answers in, the lines still awaited, whether one is SUPERSEDED, and its place in issue order. -/
structure BndRd where
  bd : Nat
  id : Nat
  len : Word := 0
  attempt : Nat := 0
  round : Nat := 1
  lines : List BndLine := []
  await : List Nat := []
  super : Bool := false
  ord : Nat := 0
deriving DecidableEq, Repr

/-- A save or restore under way (14 R358 to R360): the access that awaits its status (0 for the front end's), the context area's
physical runs and virtual address, the limit in blocks. -/
structure CtxOp where
  id : Nat := 0
  runs : List (Nat × Nat) := []
  va : Word := 0
  limit : Nat := 0
deriving DecidableEq, Repr

/-- What the die tells the Moot: a debug stop (1), a double fault (2), a saved context (3), a machine check (4), traffic held for a stopped
core (5), a die that a broadcast does not reach (6; 01 R36, R40; 13 R317, R339, R340; 14 R359; 17 R451).  A stop names for each Carter its executing command's sequence number with the bytes
and rows left, and the stores that stood in the store queue. -/
structure MootMsg where
  kind : Nat
  w : Who
  cause : Nat := 0
  val : Word := 0
  eng : Nat := 0
  cmds : List (Nat × Nat × Nat × Nat) := []
  stores : Nat := 0
deriving DecidableEq, Repr

/-- A resident context (05 R125).  `errs` lists the places of its register storage in error (R154); `saving` and `restoring` mark a context
whose save or restore has begun (14 R359, R360); `issued` numbers its scratchpad commands in issue order (R145); `stop` is a debug stop not
yet reported (13 R339). -/
structure Ctx where
  job : Option Job := none
  acc : AccessSt := {}
  csr : CsrSt := {}
  dbg : DebugSt := {}
  loom : LoomSt := {}
  mill : MillSt := {}
  desc : List (Nat × Option (BitVec 512)) := []
  chans : List (Nat × Chan) := []
  spill : Mem := []
  spillErr : List (Nat × Nat) := []
  c0 : CarterQ := {}
  c1 : CarterQ := {}
  ways : BitVec 8 := 0
  permits : List Permit := []
  reports : List Report := []
  bds : List (Nat × Bd) := []
  bndr : List BndRd := []
  errs : List Loc := []
  halted : Bool := false
  saving : Option CtxOp := none
  restoring : Option CtxOp := none
  issued : Nat := 0
  stop : Option MootMsg := none
deriving DecidableEq, Repr

/-- A landing at a core or in the landing store (05 R137, 13 R320, 17 R442): where its answer goes, the permit's launch, CSEL, CTX and
GTAG, its target core, slot and offset, its bytes and poisoned sectors, and whether its writing has begun (05 R146). -/
structure Landing where
  src : Who := ⟨0, 0, 0⟩
  carter : Nat := 0
  cmd : Nat := 0
  launch : Nat := 0
  csel : Bool := false
  cctx : Nat := 0
  core : Nat := 0
  slot : Nat := 0
  off : Nat := 0
  gtag : BitVec 48 := 0
  bytes : List Byte := []
  pois : List Nat := []
  begun : Bool := false
deriving DecidableEq, Repr

/-- A TLB entry (13 R311, R313, R314): a leaf; in the die TLB with its in-flight count and dying mark.  `base` is VA divided by the leaf size
2^`log`; `gen` numbers the fill. -/
structure TlbEnt where
  asid : Nat
  base : Nat
  log : Nat
  pte : Word
  count : Nat := 0
  dying : Bool := false
  gen : Nat := 0
deriving DecidableEq, Repr

/-- A core (05).  `wr` lists the written sectors (R130), `spErr` the sectors in error (1 uncorrectable, 16 + c a check c on record; R129), `tags`
the tag table by slot (R133), `tagErr` slots whose entry is lost (R154), `clean` the tiles that a copy-out has read from their first sector on with no write since (slot × 2 +
Carter; R133), `landq` landings that wait or are being written, `tagT` and `tagO` by slot the cycle of the last change of FULL with its rank, and of the last
observations with who made them (R135), `setBy` who set a tile (by slot) or a barrier (0x10000 + offset / 32) last (R152),
`utlb` and `ctlb` the µTLB and the core TLB (13 R311). -/
structure Core where
  k0 : Ctx := {}
  k1 : Ctx := {}
  sp : Mem := []
  wr : List (Nat × Bool) := []
  spErr : List (Nat × Nat) := []
  tags : List (Nat × Word) := []
  tagErr : List (Nat × Bool) := []
  clean : List (Nat × Bool) := []
  landq : List Landing := []
  tagT : List (Nat × Nat) := []
  tagO : List (Nat × Nat) := []
  setBy : List (Nat × Nat) := []
  dbgctl : Word := 0
  utlb : List TlbEnt := []
  ctlb : List TlbEnt := []
deriving DecidableEq, Repr

/-! ### Global memory -/

/-- The memory that a physical address lies in (13 R308 MEM). -/
inductive Space where
  | hbm | gran | host
deriving DecidableEq, Repr

/-- Where the result of an access goes: a g register (or its shadow gs, 01 R34), a reserved channel entry, a capability register. -/
inductive Dest where
  | none
  | g (r : Nat) (shadow : Bool)
  | chan (n : Nat)
  | cap (n : Nat)
deriving DecidableEq, Repr

/-- The kinds of access in flight (11, 04 R110, 18 R455): plain loads and stores, capability granules, atomics by operation code,
compare-and-swap; remote ones; results that an instruction awaits in its destination register (14 R351, R356, R358; 18 R468); a BNDS (18
R466); and the read of an image that SBIND waits for (08 R219). -/
inductive AccKind where
  | load | store | capLoad | capStore
  | atom (op : Nat)
  | cas
  | rload | rstore
  | ratom (op : Nat)
  | rcas
  | result
  | bnds (bd k : Nat)
  | image
deriving DecidableEq, Repr

/-- A global access that has issued and not completed (10 R240, R248; 02 R49).  `id` rises in issue order.  `rel` is 0, or a
release's scope code + 1; `acq` likewise an acquire's.  `asid` and `base` (page × 64 + log of its size) name the translation used.
A remote access keeps its capability in `capv`; `cmb` marks it combinable, `bn` a bundle page; `fail` is the reason of its answer.  An
image's read that has been performed is `ready`, with its bytes in `data` or its cause in `fail`. -/
structure Access where
  id : Nat
  w : Who
  kind : AccKind
  va : Word := 0
  sp : Space := .hbm
  pa : Nat := 0
  size : Nat := 8
  val : Word := 0
  exp : Word := 0
  capv : Cap := {}
  dest : Dest := .none
  sb : Nat := 0
  acq : Nat := 0
  rel : Nat := 0
  nt : Bool := false
  ca : Bool := false
  pz : Bool := false
  asid : Nat := 0
  base : Nat := 0
  fail : Nat := 0
  cmb : Bool := false
  bn : Bool := false
  ready : Bool := false
  data : List Byte := []
deriving DecidableEq, Repr

/-- A Granary line held by a die (10 R241, R246): its bytes, which of them are held, which are dirty, and the cluster that wrote those. -/
structure GLine where
  data : List (Nat × Byte) := []
  dirty : List (Nat × Bool) := []
  held : List (Nat × Bool) := []
  own : Nat := 0
deriving DecidableEq, Repr

/-- A line of 128 bytes that the cache of a cluster holds (10 R238, R241): the cluster, the space, the address divided by 128, and, of HBM
and host lines, the dirty bytes. -/
structure CacheLn where
  cl : Nat
  sp : Space
  line : Nat
  dirty : List Nat := []
deriving DecidableEq, Repr

/-- The atomic last performed on a line (10 R243): its cycle + 1, the requester's rank, its place among the requests of that cycle. -/
structure AtomAt where
  cyc : Nat := 0
  rank : Nat := 0
  pos : Nat := 0
deriving DecidableEq, Repr

/-- What a die holds of memory: its HBM with granule tags (04 R110) and sectors in error (1 uncorrectable, 3 poison
mark, 4 one bad symbol, 16 + c a check c on record that need not be that of the bytes; 13 R325, R326, R330), Granary lines, the write-combining buffers by cluster (10 R246), the lines that its cluster caches hold (10 R238,
R241), and the atomics last performed by line (10 R243; the line times 4, plus the space's code). -/
structure MemSt where
  hbm : Mem := []
  htags : List (Nat × Bool) := []
  herr : List (Nat × Nat) := []
  glines : List (Nat × GLine) := []
  wc : List (Nat × Mem) := []
  cached : List CacheLn := []
  atoms : List (Nat × AtomAt) := []
deriving DecidableEq, Repr

/-- A range that TPRE checks (13 R311; 14 R356): its translation context, the granule to walk next, the granules left, the access that
awaits the result, the attributes required. -/
structure Walk where
  xctx : Word
  va : Word
  left : Nat
  id : Nat
  rd : Bool
  wr : Bool
  at_ : Bool
deriving DecidableEq, Repr

/-- A TLBI in progress (13 R314, 14 R357): the context and the instruction that wait, the mode, what it matches, and the last access
issued before it. -/
structure TlbiOp where
  w : Who
  pc : Word
  mode : Nat
  asid : Nat
  va : Word
  before : Nat
deriving DecidableEq, Repr

/-- An entry of the walker's cache (13 R311): a level-3 or level-2 table entry by the address bits above its range; `level` is 2 or 1. -/
structure UpperEnt where
  asid : Nat
  level : Nat
  tag : Nat
  pte : Word
deriving DecidableEq, Repr

/-- The die's translation caches (13 R311): the die TLB, with the number of fills, and the walker's cache; ranges that the walker checks,
and TLBIs under way. -/
structure TlbSt where
  ents : List TlbEnt := []
  upper : List UpperEnt := []
  next : Nat := 0
  walks : List Walk := []
  tlbis : List TlbiOp := []
deriving DecidableEq, Repr

/-! ### The die -/

/-- Time on a die: the oscillator's remainders (in units of 1/18 ns; 16 R411), its cycle count, its nanoseconds, fabric time with its
`set` mark (17 R425), the correction under way in ns (positive when behind) and the nanoseconds of the oscillator since its last step
(R427), the last beacon's arrival and number, the parent port assigned by the Moot, out of step and since when in step (R428). -/
structure TimeSt where
  frac : Nat := 0
  nfrac : Nat := 0
  cyc : Nat := 0
  osc : Nat := 0
  ftime : Nat := 0
  set : Bool := false
  root : Bool := false
  corr : Int := 0
  cacc : Nat := 0
  bcnT : Nat := 0
  bcnSeq : Nat := 0
  parent : Option Nat := none
  oos : Bool := false
  off160 : Bool := false
  okT : Nat := 0
deriving DecidableEq, Repr

/-- The trace unit's registers and counters (13 R333 to R338, 14 R362, R366, R367); `smpAt` is the cycle of its last sample. -/
structure TraceSt where
  trcctl : Word := 0
  wthr : Word := 0
  smpper : Word := 0
  rgbase : List (Nat × Word) := []
  rgrdp : List (Nat × Word) := []
  rgwrp : List (Nat × Word) := []
  rgdrop : List (Nat × Word) := []
  evsel : List (Nat × Word) := []
  evcnt : List (Nat × Word) := []
  snapPend : Bool := false
  snapValid : Bool := false
  snapT : Word := 0
  snapWords : List (Nat × Word) := []
  smpAt : Nat := 0
deriving DecidableEq, Repr

/-- The Almanac (13 R342 to R349, 14 R368): recording, replay, divergence; instructions retired or commands completed per agent since its
last order point; the replay log left; `go` the agents let past their order point (R346); `atPt` marks a step held at an order point;
`waits` are the agents that wait for the ring (R344). -/
structure AlmSt where
  logging : Bool := false
  rply : Bool := false
  div : Bool := false
  atPt : Bool := false
  cnt : List (Nat × Nat) := []
  log : List (BitVec 256) := []
  go : List Nat := []
  start : Nat := 0
  waits : List Nat := []
deriving DecidableEq, Repr

/-! ### The Reeve (12) -/

/-- The states of a booking (12 R303); FREE is the absence of one. -/
inductive BkState where
  | free | queued | placing | preparing | committing | booked | running
deriving DecidableEq, Repr

/-- A use of a booking: its record (12 R278), then where it stands: its instance and slots, the end slot once it has ended, the marks of
14 R353, whether anything tagged with it has issued (R294), whether it is suspended or only drains (R295), whether BDONE or BCAN
has asked for its end, and whether the Reeve has drawn the consequences of its end. -/
structure Use where
  cls : Nat := 0
  dirin : Bool := false
  bind : Nat := 0
  j : Nat := 0
  inst : Nat := 0
  dur : Nat := 0
  dem : Nat := 0
  lag : Nat := 0
  regm : Nat := 0
  att : Nat := 0
  rmt : Bool := false
  rdie : Nat := 0
  placed : Bool := false
  pinst : Nat := 0
  slots : List Nat := []
  endS : Nat := 0
  started : Bool := false
  ended : Bool := false
  gate : Bool := false
  ovr : Bool := false
  unb : Bool := false
  issued : Bool := false
  susp : Bool := false
  tail : Bool := false
  closing : Bool := false
  cut : Bool := false
  swept : Bool := false
deriving DecidableEq, Repr

/-- A region of a task (12 R279): its mode, the die it is homed on, the physical runs it covers there (memory × 2^60 + address, and length)
and, of a region of this die, the die TLB entries it counts in. -/
structure Region where
  rd : Bool := false
  wr : Bool := false
  die : Nat := 0
  cap : Bool := false
  runs : List (Nat × Nat) := []
  pages : List (Nat × Nat) := []
deriving DecidableEq, Repr

/-- A die involved in a two-phase commit: whether its ACK, and its COMMIT_ACK, has come, and the shift of its NACK (12 R289, R292). -/
structure Part where
  die : Nat
  ack : Bool := false
  commit : Bool := false
  nack : Nat := 0
deriving DecidableEq, Repr

/-- A booking of a die (12 R274, R277, R282, R287, R303): `job` is the job it makes resident, `who` the context and access that await
BOOK's result, `fe` the front end's package and launch with the job's index + 1, or packet and 0; `planE` is the E of its last placement
(R285), 0 before one; `left`: it has been left in intake (R282); `on` the core on which its job stands resident already (R300); `pend`
holds BCAN (8) and BDONE (use) that wait for the commit; a record FREE with `bound` set awaits its job's retirement. -/
structure Booking where
  st : BkState := .free
  gen : Nat := 0
  stamp : Word := 0
  prio : Nat := 0
  queue : Bool := false
  isGang : Bool := false
  gang : List (Nat × Nat) := []
  tiles : Nat := 0
  rel : Nat := 0
  deadl : Nat := 0
  done : Word := 0
  uses : List Use := []
  regs : List Region := []
  level : Nat := 0
  since : Nat := 0
  order : Nat := 0
  restarts : Nat := 0
  planE : Nat := 0
  left : Bool := false
  on : Option Nat := none
  late : Bool := false
  sys : Bool := false
  tried : Bool := false
  who : Option (Who × Nat) := none
  fe : Option (Nat × Nat × Nat) := none
  job : Job := {}
  parts : List Part := []
  sentAt : Nat := 0
  core : Nat := 0
  bound : Bool := false
  pend : List (Nat × Who × Nat) := []
  code : Nat := 0x0D
  endCode : Nat := 0
  endSlot : Nat := 0
deriving DecidableEq, Repr

/-- A region entry of another die's booking (12 R279, R283): the use that touches it, its bytes and mode, where the use starts.  In a PREP
`lo` is the export address; in an answer the record is an edge, `lo` the use that follows. -/
structure RegEnt where
  die : Nat
  handle : Nat
  use : Nat
  lo : Nat
  len : Nat := 0
  rd : Bool := false
  wr : Bool := false
  beg : Nat := 0
deriving DecidableEq, Repr

/-- An edge of 12 R283: use `use` of booking `succ` follows use `puse` of booking `pred` of die `pdie`. -/
structure Edge where
  pdie : Nat
  pred : Nat
  puse : Nat
  succ : Nat
  use : Nat
deriving DecidableEq, Repr

/-- A use that a PREP or a gang proposal asks of another die (12 R278, R289, R292): class, direction, whether any instance will do or
which, units, slots. -/
structure RPart where
  use : Nat
  cls : Nat
  dirin : Bool
  any : Bool
  inst : Nat
  dem : Nat
  slots : List Nat
deriving DecidableEq, Repr

/-- What another die's booking holds on a calendar here: an exclusive one or units of a capacity one. -/
structure RMk where
  use : Nat
  ex : Bool
  cal : Nat
  slots : List Nat
  units : Nat
deriving DecidableEq, Repr

/-- Another die's booking here (12 R289 to R291): its marks and region entries, tentative or committed; `held` once its coordinator has
refused a wound, `wounded` once one has been sent; the bookings of gang parts. -/
structure RBook where
  die : Nat
  handle : Nat
  stamp : Word
  since : Nat
  comm : Bool := false
  held : Bool := false
  wounded : Bool := false
  marks : List RMk := []
  ents : List RegEnt := []
  task : Option Booking := none
  kids : List Nat := []
deriving DecidableEq, Repr

/-- A PREP held while younger bookings are wounded (12 R290). -/
structure HeldPrep where
  die : Nat
  handle : Nat
  stamp : Word
  parts : List RPart
  ents : List RegEnt
  task : Option Booking
deriving DecidableEq, Repr

/-- The Reeve of a die.  `results` are the words on their way to instructions: the access, whether it is BOOK's result, the word.
Exclusive entries are keyed calendar × 4096 + row, calendar 0 to 31 the Mills and 32 to 95 the Carters; capacity
entries likewise, calendar 0 to 7 the channel groups, 8 + 2 × port + direction the ports (12 R273 to R275). -/
structure ReeveSt where
  excl : List (Nat × BitVec 25) := []
  cap : List (Nat × BitVec 16) := []
  gens : List (Nat × Nat) := []
  bks : List (Nat × Booking) := []
  edges : List Edge := []
  others : List RBook := []
  held : List HeldPrep := []
  stampUnit : Nat := 0
  stampSeq : Nat := 0
  order : Nat := 0
  rvage : List (Nat × Word) := []
  results : List (Nat × Bool × Word) := []
  slot : Nat := 0
deriving DecidableEq, Repr

/-! ### Messages and links (17) -/

/-- The messages between dies: permits, landings, remote operations, booking, bundles, beacons and broadcasts. -/
inductive MKind where
  | permit | landing | landAck | remote | reply | tget | tgetAck
  | bndsReq | bndsAns
  | prep | bkAck | bkNack | bkCommit | bkCommitAck | bkCommitNack | bkAbort | wound | refuse | gang
  | prepare | bCommit | bAbort | readCur | readExact
  | bAck | bBusy | bStale | bCommitAck | bCommitNack | bAbortAck | bData | superseded
  | query | committed | unknown
  | beacon | stop | snap | replayStart | replayHalt
deriving DecidableEq, Repr

/-- A message of the fabric, with the fields of the message header of 17 R417 and further words.  `told` says that it is held at a stopped die and
reported as in flight (17 R452).  `num` is its number (0: it crosses no link); it takes `need` flits, of which `got` have come to its die. -/
structure Msg where
  kind : MKind
  src : Nat
  dst : Nat
  w : Who := ⟨0, 0, 0⟩
  agent : Nat := 0
  tag : Nat := 0
  op : Nat := 0
  size : Nat := 8
  addr : Word := 0
  opnd : Word := 0
  opnd2 : Word := 0
  capk : Nat := 0
  cmb : Bool := false
  words : List Word := []
  bytes : List Byte := []
  pois : List Nat := []
  land : Option Landing := none
  parts : List RPart := []
  ents : List RegEnt := []
  task : Option Booking := none
  port : Nat := 0
  told : Bool := false
  num : Nat := 0
  need : Nat := 0
  got : Nat := 0
deriving DecidableEq, Repr

/-- A flit at a router (17 R417): the message it belongs to, its place there and how many follow, the message's type, virtual channel and die,
its dateline class on the next link, its payload (none until it is formed), the input port and pool whose slot it holds, and the booking to whose
traffic it belongs (die × 2^20 + handle, or 0; R418). -/
structure Flit where
  msg : Nat
  idx : Nat
  nfl : Nat
  typ : Nat
  vc : Nat
  dst : Nat
  dl : Nat := 0
  body : List Byte := []
  inp : Option (Nat × Nat) := none
  own : Nat := 0
deriving DecidableEq, Repr

/-- A router port (17 R418 to R421): its status register; of the eight pools the flits sent and the slots returned at the far side, and the slots in
use and freed here; sequence numbers, the replay buffer; failed retrainings in a row; flits received and sent (14 R367); the delay of its link
in ns; when a good flit last arrived (by the oscillator, in ns); whether the link has trained before.  `outq` are the flits that wait to leave,
`lock` the message being sent on each virtual channel, `rvc` the pool whose count the next header carries, `dbg` the flits sent since one of
the debug channel; in slot `bkSlot`, the flits sent of each booking's traffic. -/
structure PortSt where
  state : Nat := 1
  crce : Nat := 0
  rply : Nat := 0
  rtrn : Nat := 0
  rfail : Nat := 0
  sent : List (Nat × Nat) := []
  retd : List (Nat × Nat) := []
  used : List (Nat × Nat) := []
  seq : Nat := 0
  exp : Nat := 0
  ackd : Nat := 4095
  nak : Bool := false
  rbuf : List (Nat × Flit) := []
  resend : List (Nat × Flit) := []
  tries : Nat := 0
  rx : List (List Byte) := []
  failRow : Nat := 0
  inF : Nat := 0
  outF : Nat := 0
  delay : Nat := 64
  last : Nat := 0
  trained : Bool := false
  outq : List Flit := []
  lock : List (Nat × Nat) := []
  freed : List (Nat × Nat) := []
  rvc : Nat := 0
  dbg : Nat := 0
  bkSlot : Nat := 0
  bkSent : List (Nat × Nat) := []
deriving DecidableEq, Repr

/-- A member of a combined request (17 R436). -/
structure Member where
  w : Who
  agent : Nat
  src : Nat
  tag : Nat
  opnd : Word
deriving DecidableEq, Repr

/-- A split record (17 R436, R440). -/
structure Split where
  idx : Nat
  members : List Member
  size : Nat
  addr : Word
  since : Nat
deriving DecidableEq, Repr

/-- A bundle version that awaits its outcome at a home (17 R448): the line's frame address, its metadata slot, when it began, whether the
stamp's die has been asked. -/
structure PendV where
  stamp : Word
  data0 : Nat
  slot : Nat
  since : Nat
  asked : Bool := false
deriving DecidableEq, Repr

/-- The router and fabric side of a die.  `held` holds remote operations that wait at the ingress for a stopped or a saved context (13 R320,
R340).  `won` holds the stamps whose COMMIT its Carters have sent (17 R448), `seen` broadcasts (R451), `msgN` counts the messages sent over links. -/
structure FabSt where
  ports : List (Nat × PortSt) := []
  splits : List Split := []
  pendv : List PendV := []
  won : List Word := []
  seen : List Nat := []
  store : List Landing := []
  held : List Msg := []
  permq : List (Nat × Permit) := []
  ewbase : Word := 0
  rpos : Nat := 0
  msgN : Nat := 0
deriving DecidableEq, Repr

/-- A saved context registered with the die (13 R320): its core, launch, and the physical address of its area; and, since the area has no
place for them, the job the front end placed, the sticky Carter status, permits used by queued commands, channel counts and the like, all
read from the context as it was saved, with the accesses that await a bundle result (notes/assumptions/15.md), and the task that the front
end books afresh on resume (12 R300). -/
structure Saved where
  core : Nat
  launch : Nat
  area : Nat
  ctx : Ctx := {}
  accs : List Access := []
  bk : Option Booking := none
deriving DecidableEq, Repr

/-- The power of a die (16 R411 to R413): its state (0 to 2, 3 idle), the state it changes to with the packet that asked and whether it
drains, the slot of the change window and the handle of its booking (12 R305), whether the clock relocks, a trip. -/
structure PowerSt where
  state : Nat := 0
  target : Option Nat := none
  pkt : Nat := 0
  drain : Bool := false
  window : Nat := 0
  wbk : Nat := 0
  relock : Bool := false
  relockEnd : Nat := 0
  trip : Bool := false
  waking : Bool := false
deriving DecidableEq, Repr

/-- A compute die; `stopAt` is the cut time of a stop to come (13 R339), `stopped` a stop of the die that the Moot has not ended (17 R452). -/
structure Die where
  cores : List (Nat × Core) := []
  mem : MemSt := {}
  tlb : TlbSt := {}
  acc : List Access := []
  nextId : Nat := 0
  time : TimeSt := {}
  trace : TraceSt := {}
  alm : AlmSt := {}
  moot : List MootMsg := []
  reeve : ReeveSt := {}
  fab : FabSt := {}
  saved : List Saved := []
  power : PowerSt := {}
  stopAt : Option Nat := none
  stopped : Bool := false
deriving DecidableEq, Repr

/-! ### The package (16) -/

/-- A queue record (16 R382); one whose LOG2 is 0 is absent.  `host`: its addresses are host physical (R381); then the record's place among
the hardware slots, its doorbell's order, its level, since when it waits and since when it has been empty (R384, R385). -/
structure Queue where
  ring : Word := 0
  log2 : Nat := 0
  prio : Nat := 0
  sys : Bool := false
  en : Bool := false
  err : Bool := false
  erri : Word := 0
  xctx : Word := 0
  age : Nat := 0
  part : Word := 0
  irq : Word := 0
  dwin : List (Nat × Cap) := []
  wridx : Word := 0
  rdidx : Word := 0
  host : Bool := false
  mapped : Bool := false
  bell : Nat := 0
  level : Nat := 0
  since : Nat := 0
  emptyAt : Nat := 0
deriving DecidableEq, Repr

/-- A packet that has started and not completed (16 R391): its queue and ring offset, its bytes, the launch it made, and, once it has
ended, its status with the offset of the field at fault. -/
structure Pkt where
  id : Nat
  q : Nat
  off : Word
  bytes : List Byte
  launch : Nat := 0
  ended : Option (Nat × Nat × Nat) := none
deriving DecidableEq, Repr

/-- A job of a launch: its place in the levels, its die, its cluster-level instance, its core once chosen, and whether it waits (0), is
resident (1), has retired (2) or its booking has ended with code c before that (4 + c). -/
structure LJob where
  flat : Nat
  lix : List Nat
  die : Nat
  group : Nat := 0
  st : Nat := 0
  who : Who := ⟨0, 0, 0⟩
  handle : Nat := 0
deriving DecidableEq, Repr

/-- An argument area (16 R398, R480): its die, virtual and physical address, length. -/
structure Area where
  die : Nat
  va : Word
  pa : Nat
  len : Nat
deriving DecidableEq, Repr

/-- A launch level (16 R396): count, domain, scope. -/
structure Level where
  cnt : Nat
  dom : Nat
  scope : Nat
deriving DecidableEq, Repr

/-- A launch that is live (16 R396 to R401). -/
structure Launch where
  id : Nat
  pkt : Nat
  img : Nat
  ents : List Word
  levels : List Level
  prio : Nat
  bkd : Bool
  gang : Bool
  tiles : Nat
  xctx : Word
  svec : Word
  jobs : List LJob
  areas : List Area := []
deriving DecidableEq, Repr

/-- A capability template (02 R63 `.cap`): window, offset, length, permissions, peer (`pk` 0 self, 1 job `peer`, 2 die `peer`), and where
in the argument area the capability goes. -/
structure CapT where
  win : Nat
  off : Nat
  len : Nat
  perm : Nat
  pk : Nat
  peer : Nat
  place : Nat
deriving DecidableEq, Repr

/-- A kernel of a loaded image: entry points of its streams, its tile plan, the label `sys` (19 R475), its capability templates. -/
structure Kernel where
  enta : Word
  entv : Word
  entm : Word
  tiles : Nat
  svec : Option Word
  caps : List CapT
deriving DecidableEq, Repr

/-- A loaded image (16 R406, R407): its handle, D, the generation chosen, its native code in Moot-owned HBM, its kernels and its task
templates. -/
structure Image where
  hdl : Nat
  digest : BitVec 512
  gen : Nat
  code : List Byte
  kerns : List Kernel
  tasks : List (List Byte)
deriving DecidableEq, Repr

/-- A firmware copy in flash (16 R408): its version, and its bytes with the signature. -/
structure FwCopy where
  version : Nat
  bytes : List Byte
  sig : List Byte
deriving DecidableEq, Repr

/-- A configuration record (16 R410): its type (0 OWNER, 1 IMAGEKEYS, 2 HDM, 3 PART, 4 GRANARY, 5 POWERCAP, 6 FWMIN), sequence number,
payload, and its bytes whole. -/
structure CfgRec where
  typ : Nat
  seq : Nat
  payload : List Byte
  raw : List Byte
deriving DecidableEq, Repr

/-- A package: its I/O die.  The BAR0 registers, MSI-X vectors raised, queue records, the queue started last and the count of doorbells;
packets, launches, images and the translation cache; the range table (03 R91: key, first, last, launch); the Granary, its sectors in
error, the capacity of the expander at each port, ports enabled and ports failed; the HDM window's W in force; firmware copies and
configuration records in flash, the sealed minimum, the records applied; the measurement chain and its parts (R409); the DOE mailbox's
answers and what SPDM has negotiated. -/
structure Pkg where
  fectl : Word := 0
  ready : Bool := false
  err : Bool := false
  boot : BitVec 8 := 0
  admbase : Word := 0
  admlog2 : Word := 0x0C
  emerg : Word := 0
  msix : List Nat := []
  queues : List (Nat × Queue) := []
  last : Nat := 0
  bells : Nat := 0
  pkts : List Pkt := []
  nextPkt : Nat := 1
  launches : List Launch := []
  nextLaunch : Nat := 1
  images : List Image := []
  cache : List Image := []
  rngs : List (Word × Word × Word × Nat) := []
  gran : Mem := []
  gerr : List (Nat × Nat) := []
  gcap : List (Nat × Nat) := []
  gon : List (Nat × Bool) := []
  gfail : List (Nat × Bool) := []
  hdm : Nat := 0
  fw : List FwCopy := []
  fwmin : Nat := 0
  flash : List CfgRec := []
  cfg : List CfgRec := []
  chain : BitVec 512 := 0
  romM : BitVec 512 := 0
  fwM : BitVec 512 := 0
  cfgM : BitVec 512 := 0
  imgM : BitVec 512 := 0
  doe : List (List Byte) := []
  spdm : List (List Byte) := []
deriving DecidableEq, Repr

/-! ### The system -/

/-- What an event is about: the context, core or die, an engine or Carter, an index (of a message, a queue, an access), a number, a
value, a flag, bytes.  Each event reads the fields its docstring names. -/
structure EvArg where
  w : Who := ⟨0, 0, 0⟩
  e : Eng := .access
  k : Nat := 0
  n : Nat := 0
  v : Word := 0
  b : Bool := false
  bytes : List Byte := []
deriving DecidableEq, Repr

/-- Which stream a turn of the agenda moves; with `begins`, an instruction that uses the scratchpad goes only as far as the start of its
access, a Loom instruction's as far as the start of phase 2 (notes/assumptions/9.md). -/
structure Cur where
  w : Who := ⟨0, 0, 0⟩
  e : Eng := .access
  begins : Bool := false
deriving DecidableEq, Repr

/-- A turn of the agenda: `dt` units of 1/18 ns pass, and then a stream issues or an event comes about (notes/assumptions/1.md). -/
structure Turn where
  dt : Nat := 10
  ev : Option Instr := none
  cur : Cur := {}
  arg : EvArg := {}
deriving DecidableEq, Repr

/-- The state of the whole system: the agenda and the stream that moves, the event's particulars, the dies and packages, the counts of
packages in x, y, z (17 R415), messages in flight, host memory and its sectors in error, what the host's last read returned and whether poisoned, and the
model's own counter of free values. -/
structure State where
  agenda : List Turn := []
  cur : Cur := {}
  ev : EvArg := {}
  dies : List (Nat × Die) := []
  pkgs : List (Nat × Pkg) := []
  geo : Nat × Nat × Nat := (1, 1, 1)
  net : List Msg := []
  host : Mem := []
  herr : List (Nat × Nat) := []
  out : List Byte := []
  outPois : Bool := false
  free : Nat := 0
deriving DecidableEq, Repr

/-- The machine right after reset: every die, core and context at its default, memory with nothing listed. -/
def State.reset : State := {}

end Sys2Proof.Machine
end

