-- ==== Sys2Proof/Config.lean ====
section
/-!
DEFINITION. What the spec leaves to the part: free values and the functions it names without giving (opaque: no value of theirs can
be evaluated or proved; notes/assumptions/12.md, 13.md).
-/
namespace Sys2Proof.Config
open Sys2Proof Sys2Proof.Machine

/-- The activations silu and gelu at -∞, whose product 0 × ∞ the spec does not resolve (07 R197). -/
opaque actAtNegInf : Nat → BitVec 32

/-- The base (field 1) and the length (field 2) that CGET reads of a register whose bits are no well-formed capability, which the spec
does not state (17 R429). -/
opaque capField : BitVec 128 → Nat → Word

/-- How many further sectors a Carter writes after a watched one before its report latches, taken modulo 5 (05 R151). -/
opaque carterSkid : Nat → Nat

/-- `sval` of an 0x11 for register, accumulator, descriptor or channel storage, which the spec does not state (05 R154). -/
opaque lostVal : Nat → Word

/-- `sval` of a precise bundle fault of BNDS, BNDC or BNDR, which the spec does not state (18 R466 to R468). -/
opaque bundleVal : Nat → Word

/-- What the part does on its own accord at any time, numbered by the turns of the agenda: a line leaves the cache of a
cluster (of all four, named 4: the directory evicts its record; 10 R239, R241); a line of a cluster's write-combining buffer leaves for the host (10 R246). -/
opaque evicts : Nat → Nat → Nat → Space → Nat → Bool

/-- Which line leaves a set of a cluster cache whose 16 ways are held (10 R238: the replacement policy is not architectural). -/
opaque victim : Nat → Nat

opaque combLeaves : Nat → Nat → Nat → Nat → Bool

/-- The set of the die TLB that a translation enters, by its identifier, page and size, taken modulo 1024 (13 R311 gives the sets' number
alone). -/
opaque tlbSet : Nat → Nat → Nat → Nat

/-! ### Functions of other standards (00 R6) -/

/-- SHA-512 (FIPS 180-4). -/
opaque sha512 : List Byte → BitVec 512

/-- Whether a signature of a message verifies under a public key, by Ed25519 (RFC 8032). -/
opaque ed25519 : List Byte → List Byte → List Byte → Bool

/-- The stepping of a package's I/O die, as `feid` shows it (16 R380). -/
opaque stepping : Nat → Nat

/-- The answer of the DOE mailbox to an SPDM 1.2 request that negotiates algorithms or asks for what the identity key signs: its kind (2
NEGOTIATE_ALGORITHMS to 6 GET_MEASUREMENTS), the requests since GET_VERSION, the measurement blocks. -/
opaque spdmAnswer : Nat → List (List Byte) → List (BitVec 512) → List Byte

/-- The timing exponent and the two message sizes in the answer to GET_CAPABILITIES. -/
opaque spdmTiming : Byte
opaque spdmSizes : BitVec 64

/-- The response that standard number `k` of 00 R6's table, another than SPDM, prescribes for a request that uses an unsupported feature. -/
opaque unsupported : Nat → List Byte → List Byte

/-! ### Firmware and images (16 R405 to R410) -/

/-- The boot ROM's bytes, as it measures itself. -/
opaque romBytes : Nat → List Byte

/-- The Keamon root's public key. -/
opaque rootKey : List Byte

/-- `fest`.BOOTSTATUS of a package after a boot that found a valid copy, or none. -/
opaque bootStatus : Nat → Bool → BitVec 8

/-- The cause of an atomic that the log of a replay has as not performed, which its record does not hold, in turn; the reason of such a remote
one (13 R347). -/
opaque replayCause : Nat → Nat

opaque replayReason : Nat → Nat

/-- The serial number of a package. -/
opaque serial : Nat → Nat

/-- The MSG code of a message kind (17 R417 numbers none but 0, an idle flit). -/
opaque msgType : Nat → BitVec 7

/-- The physical base that the Moot sets in `ewbase` of a die (17 R431). -/
opaque ewBase : Nat → BitVec 64

/-- The fields of a configuration record: type, sequence number, serial, where its signature begins, payload; none where the bytes are no
record. -/
opaque cfgParse : List Byte → Option (Nat × Nat × Nat × Nat × List Byte)

/-- The number that an HDM, POWERCAP or FWMIN payload holds; the ports that a GRANARY payload enables; the keys of an IMAGEKEYS or OWNER
payload; whether a PART payload (none where no record is installed) makes a partition available to queues. -/
opaque cfgNumber : List Byte → Nat

opaque cfgPorts : List Byte → List Nat

opaque cfgKeys : List Byte → List (List Byte)

opaque cfgPart : Option (List Byte) → Word → Bool

/-- The kernels of an image once it has its handle: its bytes, the generation of the native section chosen (0xFFFFFFFF: the portable one
translated), the handle. -/
opaque imageKernels : List Byte → Nat → Nat → List Kernel

/-- The task templates of an image. -/
opaque imageTasks : List Byte → List (List Byte)

/-- Where the tables of an image's portable section lie, and how many entries its string table has (02 R65, R66): byte offsets in the image
and counts. -/
structure PortTables where
  recAt : Nat
  recs : Nat
  opndAt : Nat
  opnds : Nat
  strings : Nat
deriving DecidableEq, Repr, Inhabited

opaque portTables : List Byte → PortTables

/-- What the translator binds in the native word of a portable record, from the image, the record's number, its operands (kind, OFL, SYM, VAL)
and IMM: every field that the record does not fix (16 R407). -/
opaque portBind : List Byte → Nat → List (Nat × Nat × Nat × Nat) → BitVec 32 → Nat

/-- The handler address that the Moot installs for a partition (19 R475). -/
opaque partHandler : Nat → Word → Word

/-- KIND, SRC and INFO of the machine check of an emergency trip, which the spec does not state (16 R413; 13 R317). -/
opaque tripCheck : Bool → Nat × Nat × Nat

end Sys2Proof.Config
end

