-- ==== Sys2Proof/Machine/Legal.lean ====
section
/-!
DEFINITION. The static checks of Loom and Mill words (02 R51 to R58 and the instruction entries of 06 and 07): a word that
fails one is an illegal instruction (0x01).  Checks that read the machine's state stand with the meanings.
-/
namespace Sys2Proof.Machine
open Sys2Proof

/-- A field that an instruction does not use is all zero (02 R52). -/
def opndUnused : LOpnd → Bool
  | .vreg i r s c => i == 0 && r == 0 && s == 0 && c == 0
  | _ => false

/-- Class 0. -/
def opndIsReg : LOpnd → Bool
  | .vreg _ _ _ _ => true
  | _ => false

/-- Class 3. -/
def opndIsConst : LOpnd → Bool
  | .const _ => true
  | _ => false

/-- Class 2. -/
def opndIsChan : LOpnd → Bool
  | .chan _ _ => true
  | _ => false

/-- Class 0 or 1: what D may be unless the entry allows more (06 R159). -/
def opndIsDest : LOpnd → Bool
  | .vreg _ _ _ _ => true
  | .stream _ => true
  | _ => false

/-- Class 0 with the window zero. -/
def opndWholeReg : LOpnd → Bool
  | .vreg _ r s c => r == 0 && s == 0 && c == 0
  | _ => false

/-- The stream descriptor named, if any. -/
def opndStream : LOpnd → Option (Fin 16)
  | .stream i => some i
  | _ => none

/-- The channel named, if any. -/
def opndChan : LOpnd → Option (Fin 16)
  | .chan i _ => some i
  | _ => none

def sameSome (x y : Option (Fin 16)) : Bool :=
  match x, y with
  | some a, some b => a == b
  | _, _ => false

/-- A descriptor or a channel named in more than one operand field raises 0x01 (06 R159). -/
def noDupOpnds (f : LForm) : Bool :=
  !(sameSome (opndStream f.a) (opndStream f.b)) && !(sameSome (opndStream f.a) (opndStream f.d)) &&
  !(sameSome (opndStream f.b) (opndStream f.d)) && !(sameSome (opndChan f.a) (opndChan f.b)) &&
  !(sameSome (opndChan f.a) (opndChan f.d)) && !(sameSome (opndChan f.b) (opndChan f.d))

/-- Bits `lo` to `lo+n-1` of the modifier. -/
def modBits (f : LForm) (lo n : Nat) : Nat := f.modf.toNat / 2 ^ lo % 2 ^ n

/-- The code of a format (02 R53). -/
def fmtCode : Fmt → Nat
  | .fp32 => 0 | .fp16 => 1 | .bf16 => 2 | .e4m3 => 3 | .e5m2 => 4 | .e8m0 => 5 | .hs4 => 6 | .hs8 => 7
  | .ps8 => 8 | .i8 => 9 | .i16 => 10 | .i32 => 11 | .u8 => 12 | .u16 => 13 | .u32 => 14

/-- The format of a code; 0xF is reserved (02 R53). -/
def fmtOf : Nat → Option Fmt
  | 0 => some .fp32 | 1 => some .fp16 | 2 => some .bf16 | 3 => some .e4m3 | 4 => some .e5m2 | 5 => some .e8m0
  | 6 => some .hs4 | 7 => some .hs8 | 8 => some .ps8 | 9 => some .i8 | 10 => some .i16 | 11 => some .i32
  | 12 => some .u8 | 13 => some .u16 | 14 => some .u32
  | _ => none

/-- FP32, FP16, BF16: the class F of 06 R164. -/
def fmtIsF : Fmt → Bool
  | .fp32 | .fp16 | .bf16 => true
  | _ => false

/-- The class F8 of 06 R164: the floating formats of 03 R69. -/
def fmtIsF8 : Fmt → Bool
  | .fp32 | .fp16 | .bf16 | .e4m3 | .e5m2 => true
  | _ => false

/-- The integer formats, codes 0x9 to 0xE (03 R75). -/
def fmtIsInt : Fmt → Bool
  | .i8 | .i16 | .i32 | .u8 | .u16 | .u32 => true
  | _ => false

def fmtIsSigned : Fmt → Bool
  | .i8 | .i16 | .i32 => true
  | _ => false

/-- No rounding and no saturation: rnd and sat must be 0 (02 R54). -/
def noRound (f : LForm) : Bool := f.rnd == .rne && !f.sat

/-- The common form of an element-wise instruction: operands not repeated, D of class 0 or 1. -/
def legalEw (f : LForm) : Bool := noDupOpnds f && opndIsDest f.d

/-- 06 R164, arithmetic rows with two sources. -/
def legalArith2 (f : LForm) : Bool := legalEw f && f.modf == 0 && fmtIsF8 f.fmt

/-- 06 R164: VFMA, VFMS, VFNMA also read D, which must be of class 0. -/
def legalFma (f : LForm) : Bool := legalArith2 f && opndIsReg f.d

/-- 06 R164: VDIV. -/
def legalDiv (f : LForm) : Bool := legalEw f && f.modf == 0 && fmtIsF f.fmt

/-- 06 R164: the unary arithmetic rows. -/
def legalUnaryF (f : LForm) : Bool := legalDiv f && opndUnused f.b

/-- 06 R164: VMIN, VMAX. -/
def legalMinMax (f : LForm) : Bool := legalEw f && f.modf == 0 && noRound f

/-- 06 R164: VABS, VNEG, VCLS. -/
def legalUnaryBits (f : LForm) : Bool := legalEw f && f.modf == 0 && noRound f && fmtIsF8 f.fmt && opndUnused f.b

/-- 06 R164: VCPYS. -/
def legalCpys (f : LForm) : Bool := legalEw f && f.modf == 0 && noRound f && fmtIsF8 f.fmt

/-- 06 R165: VCMP with condition code `c`. -/
def legalCmp (c : Nat) (f : LForm) : Bool := legalEw f && f.modf.toNat == c && noRound f

/-- 06 R166. -/
def legalSel (f : LForm) : Bool := legalEw f && modBits f 4 11 == 0 && noRound f

/-- 06 R167: VAND, VOR, VXOR. -/
def legalLogic (f : LForm) : Bool := legalEw f && f.modf == 0 && noRound f

/-- 06 R167: VNOT. -/
def legalNot (f : LForm) : Bool := legalLogic f && opndUnused f.b

/-- 06 R167: shifts. -/
def legalShift (f : LForm) : Bool := legalLogic f && fmtIsInt f.fmt

/-- 06 R168. -/
def legalIntOp (f : LForm) : Bool := legalEw f && f.modf == 0 && f.rnd == .rne && fmtIsInt f.fmt

/-- How a VCVT pair converts (03 R80, 06 R169): exactly, by rounding, by a rule with no rounding, or not at all. -/
inductive CvtKind where
  | exact | round | norm | refused
deriving DecidableEq, Repr

/-- Significand bits and the largest finite value of a floating format, for the pairs that are exact. -/
def sigBits : Fmt → Nat
  | .fp32 => 24 | .fp16 => 11 | .bf16 => 8 | .e4m3 => 4 | .e5m2 => 3 | _ => 0

/-- 03 R80: the rule of a conversion pair.  An integer-to-floating pair whose destination holds every source value is
exact.  DESIGN CHOICE: so is a floating pair of one format, by R80's own words on exact pairs, though its row names round_to: a nonzero `rnd` there
is 0x01 (notes/assumptions/65.md). -/
def cvtKind (src dst : Fmt) : CvtKind :=
  if fmtIsF8 src && fmtIsF8 dst then
    if dst == .e4m3 then (if src == .e4m3 then .refused else .round)
    else if dst == .fp32 || src == dst then .exact
    else if (src == .e4m3 || src == .e5m2) && (dst == .fp16 || dst == .bf16) then .exact
    else .round
  else if fmtIsF8 src && fmtIsInt dst then .round
  else if fmtIsInt src && fmtIsF8 dst then
    let magBits := match src with | .i8 => 7 | .u8 => 8 | .i16 => 15 | .u16 => 16 | .i32 => 31 | _ => 32
    if fmtIsSigned src then
      -- the magnitude is at most 2^magBits, a power of two that every wide enough format holds
      (if magBits ≤ sigBits dst && dst != .e4m3 && dst != .e5m2 then .exact else .round)
    else (if magBits ≤ sigBits dst then .exact else .round)
  else if fmtIsInt src && fmtIsInt dst then .norm
  else if fmtIsF8 src && (dst == .hs4 || dst == .hs8 || dst == .ps8) then .round
  else if (src == .hs4 || src == .hs8 || src == .ps8) && fmtIsF dst then .exact
  else if (src == .hs4 || src == .hs8 || src == .ps8) && (dst == .e4m3 || dst == .e5m2) then
    (if src == .hs4 && dst == .e4m3 then .exact else .round)
  else if src == .e8m0 && (dst == .fp32 || dst == .bf16) then .exact
  else if src == .e8m0 && dst == .fp16 then .round
  else if fmtIsF8 src && dst == .e8m0 then .norm
  else .refused

/-- 06 R169. -/
def legalCvt (f : LForm) : Bool :=
  legalEw f && opndUnused f.b && modBits f 4 10 == 0 && (modBits f 14 1 == 0 || f.fmt == .e4m3) &&
  match fmtOf (modBits f 0 4) with
  | none => false
  | some src =>
    match cvtKind src f.fmt with
    | .exact => f.rnd == .rne
    | .norm => f.rnd == .rne
    | .round => true
    | .refused => false

def qFmt : Fmt → Bool
  | .e4m3 | .e5m2 | .ps8 | .hs4 | .hs8 => true
  | _ => false

/-- 06 R170: VQNT writes B, of class 0 or 1. -/
def legalQnt (f : LForm) : Bool :=
  legalEw f && opndIsDest f.b && modBits f 4 10 == 0 && (modBits f 14 1 == 0 || f.fmt == .e4m3) && qFmt f.fmt &&
  match fmtOf (modBits f 0 4) with
  | some src => fmtIsF src
  | none => false

/-- 06 R171. -/
def legalDqt (f : LForm) : Bool :=
  legalEw f && modBits f 4 11 == 0 && fmtIsF f.fmt &&
  match fmtOf (modBits f 0 4) with
  | some src => qFmt src
  | none => false

/-- 06 R172, R173: the result format and rounding fields of a SUM. -/
def legalSumFmt (f : LForm) : Bool :=
  match fmtOf (modBits f 7 4) with
  | none => false
  | some res =>
    if fmtIsF8 f.fmt then fmtIsF res
    else if fmtIsInt f.fmt then f.rnd == .rne && (if fmtIsSigned f.fmt then res == .i32 else res == .u32)
    else false

/-- 06 R172, R173: the result format and rounding fields of a MIN or MAX. -/
def legalMinMaxFmt (f : LForm) : Bool := modBits f 7 4 == fmtCode f.fmt && noRound f

/-- 06 R172: VRED with operation code `op`. -/
def legalRed (op : Nat) (f : LForm) : Bool :=
  noDupOpnds f && opndUnused f.b && !opndIsConst f.d && modBits f 11 4 == 0 && modBits f 0 3 == op &&
  (1 ≤ modBits f 3 3 && modBits f 3 3 ≤ 6) && (modBits f 6 1 == 0 || opndIsReg f.d) &&
  (if op = 0 then legalSumFmt f else legalMinMaxFmt f)

/-- 06 R173: VSCAN with operation code `op`. -/
def legalScan (op : Nat) (f : LForm) : Bool :=
  legalEw f && opndUnused f.b && modBits f 11 4 == 0 && modBits f 0 3 == op &&
  (1 ≤ modBits f 3 3 && modBits f 3 3 ≤ 6) && (modBits f 6 1 == 0 || op == 0) &&
  (if op = 0 then legalSumFmt f else legalMinMaxFmt f)

/-- The index of a class-0 operand. -/
def opndRegIdx : LOpnd → Nat
  | .vreg i _ _ _ => i.val
  | _ => 16

/-- 06 R174. -/
def legalSort (f : LForm) : Bool :=
  modBits f 10 5 == 0 && opndIsConst f.b && opndIsReg f.a && opndIsReg f.d && noRound f && f.fmt != .hs4 &&
  modBits f 4 4 != opndRegIdx f.d

/-- 06 R175. -/
def legalTrn (f : LForm) : Bool :=
  opndWholeReg f.d && opndWholeReg f.a && opndUnused f.b && f.pred == 0 && noRound f && f.modf == 0

/-- 06 R176. -/
def legalPerm (f : LForm) : Bool :=
  legalEw f && modBits f 5 10 == 0 && (modBits f 0 4 == 12 || modBits f 0 4 == 13 || modBits f 0 4 == 14) &&
  opndIsReg f.b && opndIsReg f.a && noRound f

/-- 06 R177 with mode `m`. -/
def legalBcst (m : Nat) (f : LForm) : Bool :=
  legalEw f && f.modf.toNat == m && opndUnused f.b && noRound f && (m == 0 || opndIsReg f.a)

/-- 06 R178, register form. -/
def legalShapeReg (f : LForm) : Bool :=
  f.modf == 0 && opndIsConst f.a && opndUnused f.b && opndUnused f.d && f.pred == 0 && f.fmt == .fp32 && noRound f

/-- 06 R178, immediate form. -/
def legalShapeImm (f : LForm) : Bool :=
  modBits f 14 1 == 1 && modBits f 10 4 == 0 && opndUnused f.a && opndUnused f.b && opndUnused f.d &&
  f.pred == 0 && f.fmt == .fp32 && noRound f

/-- 06 R179, mode 0. -/
def legalMov (f : LForm) : Bool := legalEw f && f.modf == 0 && opndUnused f.b && noRound f

/-- 06 R179, mode 1. -/
def legalMovS (f : LForm) : Bool :=
  f.modf.toNat == 1 && opndWholeReg f.d && opndUnused f.b && f.pred == 0 && noRound f

/-- 06 R179, mode 2. -/
def legalMovI (f : LForm) : Bool :=
  modBits f 0 2 == 2 && opndWholeReg f.d && opndIsConst f.a && opndUnused f.b && f.pred == 0 && f.fmt == .fp32 && noRound f

/-- 06 R179, mode 3. -/
def legalMovQ (f : LForm) : Bool :=
  f.modf.toNat == 3 && opndIsChan f.d && opndIsConst f.a && opndUnused f.b && f.pred == 0 && f.fmt == .fp32 && noRound f

/-- 06 R180: VLD. -/
def legalVld (f : LForm) : Bool :=
  modBits f 7 8 == 0 && modBits f 4 2 == 0 && opndIsReg f.d && opndUnused f.a && opndUnused f.b && noRound f

/-- 06 R180: VST. -/
def legalVst (f : LForm) : Bool :=
  modBits f 7 8 == 0 && modBits f 4 2 == 0 && opndIsReg f.a && opndUnused f.d && opndUnused f.b && noRound f

/-- 06 R181: VGTH. -/
def legalGth (f : LForm) : Bool :=
  modBits f 7 8 == 0 && modBits f 4 2 != 3 && opndIsDest f.d && opndIsReg f.a && opndUnused f.b && noRound f &&
  f.fmt != .hs4

/-- 06 R181: VSCT. -/
def legalSct (f : LForm) : Bool :=
  modBits f 7 8 == 0 && modBits f 4 2 != 3 && opndIsReg f.b && opndUnused f.d && noRound f &&
  f.fmt != .hs4

/-- 06 R182: VLDFF. -/
def legalLdff (f : LForm) : Bool := legalGth f && f.pred != 0

/-- 06 R183, mode `m`. -/
def legalPred (m : Nat) (f : LForm) : Bool :=
  modBits f 5 10 == 0 && modBits f 3 2 == m && modBits f 0 3 != 0 && opndUnused f.b && opndUnused f.d && noRound f &&
  (if m = 0 then opndIsConst f.a && f.pred == 0 && f.fmt == .fp32
   else if m = 1 then opndIsConst f.a
   else opndIsReg f.a)

/-- 06 R184. -/
def legalRand (f : LForm) : Bool :=
  f.modf == 0 && opndIsConst f.a && opndIsConst f.b && opndIsDest f.d && noRound f && (fmtIsInt f.fmt || fmtIsF f.fmt)

/-- 06 R185: an offset below 1 raises 0x01. -/
def legalVloop (f : LForm) : Bool :=
  opndIsConst f.a && opndUnused f.b && opndUnused f.d && f.pred == 0 && f.fmt == .fp32 && noRound f &&
  decide (0 < f.modf.toInt)

/-- 06 R186 with the condition in rnd. -/
def legalVbr (r : Rnd) (f : LForm) : Bool :=
  opndIsConst f.a && opndIsConst f.b && opndUnused f.d && f.pred == 0 && f.fmt == .fp32 && !f.sat && f.rnd == r

/-- 06 R187: every field except opcode zero. -/
def legalVzero (f : LForm) : Bool :=
  f.modf == 0 && opndUnused f.a && opndUnused f.b && opndUnused f.d && f.pred == 0 && f.fmt == .fp32 && noRound f

/-! ### Mill words -/

/-- The Mill form with every field zero. -/
def mform0 : MForm :=
  { imm2 := 0, imm1 := 0, mrp0 := 0, use := 0, wfull := false, cons := false, inj := false, erm := 0, epi := false, os := 0,
    ofmt := 0, act := 0, grp := false, pro := false, zs := 0, ss := 0, steps := 0, mode := 0, bank := false, bfmt := 0,
    bs := 0, afmt := 0, as := 0 }

/-- 07 R200: MSTEP.  With epi = 0 (07 R197) and pro = 0 (07 R190) the fields of the epilogue and prologue are 0. -/
def legalMstep (f : MForm) : Bool :=
  f.steps != 0 && decide (f.mode.val < 2) && decide (f.mrp0.toNat < f.steps.toNat) &&
  (f.pro || (f.ss == 0 && f.zs == 0 && !f.grp)) &&
  (if f.epi then decide (f.act.val < 8) && decide (f.erm.val < 6)
   else f.act == 0 && f.ofmt == 0 && f.os == 0 && f.erm == 0 && f.imm1 == 0 && f.imm2 == 0)

/-- 07 R201: MCLR reads bank and use. -/
def legalMclr (f : MForm) : Bool := f == { mform0 with bank := f.bank, use := f.use, inj := f.inj }

/-- 07 R201: MSWAP reads use. -/
def legalMswap (f : MForm) : Bool := f == { mform0 with use := f.use, inj := f.inj }

/-- 07 R202: MLDA. -/
def legalMlda (f : MForm) : Bool :=
  f == { mform0 with as := f.as, afmt := f.afmt, bank := f.bank, cons := f.cons, wfull := f.wfull, use := f.use, inj := f.inj }

/-- 07 R202: MSTA. -/
def legalMsta (f : MForm) : Bool :=
  f == { mform0 with bank := f.bank, ofmt := f.ofmt, os := f.os, use := f.use, inj := f.inj }

/-- 07 R203: MPRO. -/
def legalMpro (f : MForm) : Bool :=
  f.pro && f == { mform0 with bs := f.bs, bfmt := f.bfmt, steps := f.steps, ss := f.ss, zs := f.zs, pro := true, grp := f.grp,
                              os := f.os, ofmt := f.ofmt, cons := f.cons, wfull := f.wfull, use := f.use, inj := f.inj }

/-- 07 R204: MEPI. -/
def legalMepi (f : MForm) : Bool :=
  f.epi && decide (f.act.val < 8) && decide (f.erm.val < 6) &&
  f == { mform0 with afmt := f.afmt, bank := f.bank, act := f.act, ofmt := f.ofmt, os := f.os, erm := f.erm, use := f.use,
                     imm1 := f.imm1, imm2 := f.imm2, epi := true, inj := f.inj }

/-- 07 R205, R207: MINJ, MRDV and MEXIT have every field except opcode zero. -/
def legalMzero (f : MForm) : Bool := f == mform0

/-- 07 R206: MRPG with mode `m`. -/
def legalMrpg (m : Nat) (f : MForm) : Bool :=
  decide (f.as.val < 8) && decide (f.bs.val < 8) && f.imm2.toNat == m &&
  f == { mform0 with as := f.as, bs := f.bs, imm1 := f.imm1, imm2 := f.imm2 }

/-- 07 R207, R102: MLOOP; an offset below 1 raises 0x01. -/
def legalMloop (f : MForm) : Bool :=
  decide (f.as.val < 8) && decide (0 < f.imm1.toInt) && f == { mform0 with as := f.as, imm1 := f.imm1 }

/-- 07 R207: MBR with condition code `c`. -/
def legalMbr (c : Nat) (f : MForm) : Bool :=
  decide (f.as.val < 8) && decide (f.bs.val < 8) && f.afmt.val == c &&
  f == { mform0 with as := f.as, bs := f.bs, afmt := f.afmt, imm1 := f.imm1 }

/-- 07 R207: MJ. -/
def legalMj (f : MForm) : Bool := f == { mform0 with imm1 := f.imm1 }

end Sys2Proof.Machine
end

