-- ==== Sys2Proof/WellFormed.lean ====
section
/-!
DEFINITION. Which instructions are well formed: the field values their entries allow beside the types of their fields (02 R48,
R50, R58), and for the Loom and the Mill the static checks of Machine/Legal.lean.
-/
namespace Sys2Proof
open Sys2Proof.Machine

/-- The scopes an LD.acq or ST.rel can name (02 R50). -/
def scopeIsAcq : Scope → Bool
  | .co | .cl | .di | .pk => true
  | _ => false

/-- A bit field of BFX or BFI lies inside the register (02 R48). -/
def bitFieldOk (p wd : BitVec 6) : Bool := decide (p.toNat + (wd.toNat + 1) ≤ 64)

/-- Well-formed: the instruction's word is not illegal (02 R58).  An event is always well formed. -/
def Instr.wf : Instr → Bool
  | .add d a b => !(d == .g 0 && a == .g 0 && b == .g 0)
  | .bfx _ _ p wd => bitFieldOk p wd
  | .bfi _ _ p wd => bitFieldOk p wd
  | .loop _ i => decide (0 < i.toInt)
  | .ldAcq _ _ _ _ _ sc => scopeIsAcq sc
  | .stRel _ _ _ _ _ sc => scopeIsAcq sc
  | .vadd f => legalArith2 f
  | .vsub f => legalArith2 f
  | .vmul f => legalArith2 f
  | .vfma f => legalFma f
  | .vfms f => legalFma f
  | .vfnma f => legalFma f
  | .vdiv f => legalDiv f
  | .vsqrt f => legalUnaryF f
  | .vrcp f => legalUnaryF f
  | .vrsq f => legalUnaryF f
  | .vexp2 f => legalUnaryF f
  | .vlog2 f => legalUnaryF f
  | .vtanh f => legalUnaryF f
  | .vsinp f => legalUnaryF f
  | .vcosp f => legalUnaryF f
  | .vmin f => legalMinMax f
  | .vmax f => legalMinMax f
  | .vabs f => legalUnaryBits f
  | .vneg f => legalUnaryBits f
  | .vcpys f => legalCpys f
  | .vcls f => legalUnaryBits f
  | .vcmpEq f => legalCmp 0 f
  | .vcmpNe f => legalCmp 1 f
  | .vcmpLt f => legalCmp 2 f
  | .vcmpLe f => legalCmp 3 f
  | .vcmpGt f => legalCmp 4 f
  | .vcmpGe f => legalCmp 5 f
  | .vsel f => legalSel f
  | .vand f => legalLogic f
  | .vor f => legalLogic f
  | .vxor f => legalLogic f
  | .vnot f => legalNot f
  | .vshl f => legalShift f
  | .vshr f => legalShift f
  | .vsha f => legalShift f
  | .viadd f => legalIntOp f
  | .visub f => legalIntOp f
  | .vimul f => legalIntOp f
  | .vcvt f => legalCvt f
  | .vqnt f => legalQnt f
  | .vdqt f => legalDqt f
  | .vredSum f => legalRed 0 f
  | .vredMin f => legalRed 1 f
  | .vredMax f => legalRed 2 f
  | .vscanSum f => legalScan 0 f
  | .vscanMin f => legalScan 1 f
  | .vscanMax f => legalScan 2 f
  | .vtopk f => legalSort f
  | .vsort f => legalSort f
  | .vtrn f => legalTrn f
  | .vperm f => legalPerm f
  | .vbcst f => legalBcst 0 f
  | .vbcstRow f => legalBcst 1 f
  | .vbcstColumn f => legalBcst 2 f
  | .vshape f => legalShapeReg f
  | .vshapeImmediate f => legalShapeImm f
  | .vmov f => legalMov f
  | .vmovS f => legalMovS f
  | .vmovI f => legalMovI f
  | .vmovQ f => legalMovQ f
  | .vld f => legalVld f
  | .vst f => legalVst f
  | .vldff f => legalLdff f
  | .vgth f => legalGth f
  | .vsct f => legalSct f
  | .vpred f => legalPred 0 f
  | .vpredMin f => legalPred 1 f
  | .vpredZero f => legalPred 2 f
  | .vrand f => legalRand f
  | .vloop f => legalVloop f
  | .vbrEq f => legalVbr .rne f
  | .vbrNe f => legalVbr .rtz f
  | .vbrLt f => legalVbr .rup f
  | .vbrGe f => legalVbr .rdn f
  | .vbrLtu f => legalVbr .rna f
  | .vbrGeu f => legalVbr .sr f
  | .mstep f => legalMstep f
  | .mclr f => legalMclr f
  | .mswap f => legalMswap f
  | .mlda f => legalMlda f
  | .msta f => legalMsta f
  | .mpro f => legalMpro f
  | .mepi f => legalMepi f
  | .mrpgR f => legalMrpg 0 f
  | .mrpgW f => legalMrpg 1 f
  | .mrpgI f => legalMrpg 2 f
  | .mrpgA f => legalMrpg 3 f
  | .mloop f => legalMloop f
  | .mbrEq f => legalMbr 0 f
  | .mbrNe f => legalMbr 1 f
  | .mbrLt f => legalMbr 2 f
  | .mbrGe f => legalMbr 3 f
  | .mbrLtu f => legalMbr 4 f
  | .mbrGeu f => legalMbr 5 f
  | .mj f => legalMj f
  | _ => true

end Sys2Proof
end

