-- ==== Sys2Proof/Decode.lean ====
section
/-!
DEFINITION. Decoding the words of the three engines, and encoding them (02 R43 to R58).
-/
namespace Sys2Proof
open Sys2Proof.Machine

/-- Why a word is not an instruction (02 R58): every one of these raises 0x01. -/
inductive DecErr where
  /-- A word of all zeros. -/
  | allZero
  /-- A word of all ones. -/
  | allOnes
  /-- An unassigned or reserved opcode or selector. -/
  | reservedOpcode
  /-- A reserved register, format, rounding, scope or other field value, or a bit that must be 0. -/
  | reservedField
  /-- A field value outside the range of the instruction's entry. -/
  | outOfRange
  /-- Fewer bytes than the word's length. -/
  | truncated
deriving DecidableEq, Repr

/-- Bits `lo` to `lo + n - 1` of `w`. -/
def fld (w lo n : Nat) : Nat := w / 2 ^ lo % 2 ^ n

/-- A 6-bit register field (02 R46): 0x00 to 0x1F a g register, 0x20 to 0x2F a channel, the rest reserved. -/
def rcOf (v : Nat) : Except DecErr RC :=
  if h : v < 32 then .ok (.g ⟨v, h⟩)
  else if h : v - 32 < 16 then .ok (.ch ⟨v - 32, h⟩)
  else .error .reservedField

def rcCode : RC → Nat
  | .g r => r.val
  | .ch n => 32 + n.val

/-- A 6-bit source field with its peek bit; a peek bit for a g register is illegal (02 R46). -/
def srcOf (v pk : Nat) : Except DecErr Src :=
  if h : v < 32 then (if pk = 0 then .ok (.g ⟨v, h⟩) else .error .reservedField)
  else if h : v - 32 < 16 then .ok (if pk = 0 then .pop ⟨v - 32, h⟩ else .peek ⟨v - 32, h⟩)
  else .error .reservedField

def srcCode : Src → Nat
  | .g r => r.val
  | .pop n => 32 + n.val
  | .peek n => 32 + n.val

def srcPeek : Src → Nat
  | .peek _ => 1
  | _ => 0

def gOf (v : Nat) : Except DecErr GReg := if h : v < 32 then .ok ⟨v, h⟩ else .error .reservedField

def f16Of (v : Nat) : Except DecErr (Fin 16) := if h : v < 16 then .ok ⟨v, h⟩ else .error .reservedField

def f8Of (v : Nat) : Except DecErr (Fin 8) := if h : v < 8 then .ok ⟨v, h⟩ else .error .reservedField

def f4Of (v : Nat) : Except DecErr (Fin 4) := if h : v < 4 then .ok ⟨v, h⟩ else .error .reservedField

/-- AM sizes: 0 B, 1 H, 2 W, 3 D (02 R50). -/
def sizeOf : Nat → Except DecErr Size
  | 0 => .ok .b
  | 1 => .ok .h
  | 2 => .ok .w
  | 3 => .ok .d
  | _ => .error .reservedField

def sizeCode : Size → Nat
  | .b => 0 | .h => 1 | .w => 2 | .d => 3

/-- Scope codes (02 R48). -/
def scopeOf : Nat → Except DecErr Scope
  | 0 => .ok .st
  | 1 => .ok .co
  | 2 => .ok .cl
  | 3 => .ok .di
  | 4 => .ok .pk
  | 5 => .ok .sy
  | _ => .error .reservedField

def scopeCode : Scope → Nat
  | .st => 0 | .co => 1 | .cl => 2 | .di => 3 | .pk => 4 | .sy => 5

/-- The scope of LD.acq and ST.rel: 0 `.co` to 3 `.pk` (02 R50). -/
def acqScopeOf (v : Nat) : Except DecErr Scope := scopeOf (v + 1)

/-- Rounding codes; 6 and 7 are illegal (02 R54). -/
def rndOf : Nat → Except DecErr Rnd
  | 0 => .ok .rne
  | 1 => .ok .rtz
  | 2 => .ok .rup
  | 3 => .ok .rdn
  | 4 => .ok .rna
  | 5 => .ok .sr
  | _ => .error .reservedField

def rndCode : Rnd → Nat
  | .rne => 0 | .rtz => 1 | .rup => 2 | .rdn => 3 | .rna => 4 | .sr => 5

/-- FENCE.rel by its scope.  Its row has one constructor for each scope, because the compiler's runtime bounds the number of
constructors with fields. -/
def fenceRelOf : Scope → Instr
  | .st => .fenceRelSt | .co => .fenceRelCo | .cl => .fenceRelCl | .di => .fenceRelDi | .pk => .fenceRelPk | .sy => .fenceRelSy

/-! ### Access-core words -/

/-- Major opcode 0x00 (02 R50): ADD, SUB, AND, OR, XOR, SHL, SHR, SHA, SLT, SLTU, MIN, MAX, MINU, MAXU, SEL. -/
def decOp00 (w : Nat) : Except DecErr Instr :=
  if fld w 27 5 = 0 then
    do
      let d ← rcOf (fld w 7 6)
      let a ← srcOf (fld w 13 6) (fld w 25 1)
      let b ← srcOf (fld w 19 6) (fld w 26 1)
      .ok (.add d a b)
  else
  if fld w 27 5 = 1 then
    do
      let d ← rcOf (fld w 7 6)
      let a ← srcOf (fld w 13 6) (fld w 25 1)
      let b ← srcOf (fld w 19 6) (fld w 26 1)
      .ok (.sub d a b)
  else
  if fld w 27 5 = 2 then
    do
      let d ← rcOf (fld w 7 6)
      let a ← srcOf (fld w 13 6) (fld w 25 1)
      let b ← srcOf (fld w 19 6) (fld w 26 1)
      .ok (.and d a b)
  else
  if fld w 27 5 = 3 then
    do
      let d ← rcOf (fld w 7 6)
      let a ← srcOf (fld w 13 6) (fld w 25 1)
      let b ← srcOf (fld w 19 6) (fld w 26 1)
      .ok (.or d a b)
  else
  if fld w 27 5 = 4 then
    do
      let d ← rcOf (fld w 7 6)
      let a ← srcOf (fld w 13 6) (fld w 25 1)
      let b ← srcOf (fld w 19 6) (fld w 26 1)
      .ok (.xor d a b)
  else
  if fld w 27 5 = 5 then
    do
      let d ← rcOf (fld w 7 6)
      let a ← srcOf (fld w 13 6) (fld w 25 1)
      let b ← srcOf (fld w 19 6) (fld w 26 1)
      .ok (.shl d a b)
  else
  if fld w 27 5 = 6 then
    do
      let d ← rcOf (fld w 7 6)
      let a ← srcOf (fld w 13 6) (fld w 25 1)
      let b ← srcOf (fld w 19 6) (fld w 26 1)
      .ok (.shr d a b)
  else
  if fld w 27 5 = 7 then
    do
      let d ← rcOf (fld w 7 6)
      let a ← srcOf (fld w 13 6) (fld w 25 1)
      let b ← srcOf (fld w 19 6) (fld w 26 1)
      .ok (.sha d a b)
  else
  if fld w 27 5 = 8 then
    do
      let d ← rcOf (fld w 7 6)
      let a ← srcOf (fld w 13 6) (fld w 25 1)
      let b ← srcOf (fld w 19 6) (fld w 26 1)
      .ok (.slt d a b)
  else
  if fld w 27 5 = 9 then
    do
      let d ← rcOf (fld w 7 6)
      let a ← srcOf (fld w 13 6) (fld w 25 1)
      let b ← srcOf (fld w 19 6) (fld w 26 1)
      .ok (.sltu d a b)
  else
  if fld w 27 5 = 10 then
    do
      let d ← rcOf (fld w 7 6)
      let a ← srcOf (fld w 13 6) (fld w 25 1)
      let b ← srcOf (fld w 19 6) (fld w 26 1)
      .ok (.min d a b)
  else
  if fld w 27 5 = 11 then
    do
      let d ← rcOf (fld w 7 6)
      let a ← srcOf (fld w 13 6) (fld w 25 1)
      let b ← srcOf (fld w 19 6) (fld w 26 1)
      .ok (.max d a b)
  else
  if fld w 27 5 = 12 then
    do
      let d ← rcOf (fld w 7 6)
      let a ← srcOf (fld w 13 6) (fld w 25 1)
      let b ← srcOf (fld w 19 6) (fld w 26 1)
      .ok (.minu d a b)
  else
  if fld w 27 5 = 13 then
    do
      let d ← rcOf (fld w 7 6)
      let a ← srcOf (fld w 13 6) (fld w 25 1)
      let b ← srcOf (fld w 19 6) (fld w 26 1)
      .ok (.maxu d a b)
  else
  if fld w 12 1 = 0 ∧ fld w 27 5 = 14 then
    do
      let d ← gOf (fld w 7 5)
      let a ← srcOf (fld w 13 6) (fld w 25 1)
      let b ← srcOf (fld w 19 6) (fld w 26 1)
      .ok (.sel d a b)
  else
    .error .reservedOpcode

/-- Major opcode 0x01 (02 R50): MUL, MULH, MULHU, DIV, DIVU, REM, REMU. -/
def decOp01 (w : Nat) : Except DecErr Instr :=
  if fld w 27 5 = 0 then
    do
      let d ← rcOf (fld w 7 6)
      let a ← srcOf (fld w 13 6) (fld w 25 1)
      let b ← srcOf (fld w 19 6) (fld w 26 1)
      .ok (.mul d a b)
  else
  if fld w 27 5 = 1 then
    do
      let d ← rcOf (fld w 7 6)
      let a ← srcOf (fld w 13 6) (fld w 25 1)
      let b ← srcOf (fld w 19 6) (fld w 26 1)
      .ok (.mulh d a b)
  else
  if fld w 27 5 = 2 then
    do
      let d ← rcOf (fld w 7 6)
      let a ← srcOf (fld w 13 6) (fld w 25 1)
      let b ← srcOf (fld w 19 6) (fld w 26 1)
      .ok (.mulhu d a b)
  else
  if fld w 27 5 = 3 then
    do
      let d ← rcOf (fld w 7 6)
      let a ← srcOf (fld w 13 6) (fld w 25 1)
      let b ← srcOf (fld w 19 6) (fld w 26 1)
      .ok (.div d a b)
  else
  if fld w 27 5 = 4 then
    do
      let d ← rcOf (fld w 7 6)
      let a ← srcOf (fld w 13 6) (fld w 25 1)
      let b ← srcOf (fld w 19 6) (fld w 26 1)
      .ok (.divu d a b)
  else
  if fld w 27 5 = 5 then
    do
      let d ← rcOf (fld w 7 6)
      let a ← srcOf (fld w 13 6) (fld w 25 1)
      let b ← srcOf (fld w 19 6) (fld w 26 1)
      .ok (.rem d a b)
  else
  if fld w 27 5 = 6 then
    do
      let d ← rcOf (fld w 7 6)
      let a ← srcOf (fld w 13 6) (fld w 25 1)
      let b ← srcOf (fld w 19 6) (fld w 26 1)
      .ok (.remu d a b)
  else
    .error .reservedOpcode

/-- Major opcode 0x02 (02 R50): CLZ, CTZ, POPC. -/
def decOp02 (w : Nat) : Except DecErr Instr :=
  if fld w 19 6 = 0 ∧ fld w 26 6 = 0 then
    do
      let d ← rcOf (fld w 7 6)
      let a ← srcOf (fld w 13 6) (fld w 25 1)
      .ok (.clz d a)
  else
  if fld w 19 6 = 0 ∧ fld w 26 6 = 2 then
    do
      let d ← rcOf (fld w 7 6)
      let a ← srcOf (fld w 13 6) (fld w 25 1)
      .ok (.ctz d a)
  else
  if fld w 19 6 = 0 ∧ fld w 26 6 = 4 then
    do
      let d ← rcOf (fld w 7 6)
      let a ← srcOf (fld w 13 6) (fld w 25 1)
      .ok (.popc d a)
  else
    .error .reservedOpcode

/-- Major opcode 0x10 (02 R50): ADDI. -/
def decOp10 (w : Nat) : Except DecErr Instr :=
  do
    let d ← rcOf (fld w 7 6)
    let a ← rcOf (fld w 13 6)
    let i ← .ok (BitVec.ofNat 13 (fld w 19 13))
    .ok (.addi d a i)

/-- Major opcode 0x11 (02 R50): ANDI. -/
def decOp11 (w : Nat) : Except DecErr Instr :=
  do
    let d ← rcOf (fld w 7 6)
    let a ← rcOf (fld w 13 6)
    let i ← .ok (BitVec.ofNat 13 (fld w 19 13))
    .ok (.andi d a i)

/-- Major opcode 0x12 (02 R50): ORI. -/
def decOp12 (w : Nat) : Except DecErr Instr :=
  do
    let d ← rcOf (fld w 7 6)
    let a ← rcOf (fld w 13 6)
    let i ← .ok (BitVec.ofNat 13 (fld w 19 13))
    .ok (.ori d a i)

/-- Major opcode 0x13 (02 R50): XORI. -/
def decOp13 (w : Nat) : Except DecErr Instr :=
  do
    let d ← rcOf (fld w 7 6)
    let a ← rcOf (fld w 13 6)
    let i ← .ok (BitVec.ofNat 13 (fld w 19 13))
    .ok (.xori d a i)

/-- Major opcode 0x14 (02 R50): SHLI. -/
def decOp14 (w : Nat) : Except DecErr Instr :=
  if fld w 25 7 = 0 then
    do
      let d ← rcOf (fld w 7 6)
      let a ← rcOf (fld w 13 6)
      let i ← .ok (BitVec.ofNat 6 (fld w 19 6))
      .ok (.shli d a i)
  else
    .error .reservedOpcode

/-- Major opcode 0x15 (02 R50): SHRI. -/
def decOp15 (w : Nat) : Except DecErr Instr :=
  if fld w 25 7 = 0 then
    do
      let d ← rcOf (fld w 7 6)
      let a ← rcOf (fld w 13 6)
      let i ← .ok (BitVec.ofNat 6 (fld w 19 6))
      .ok (.shri d a i)
  else
    .error .reservedOpcode

/-- Major opcode 0x16 (02 R50): SHAI. -/
def decOp16 (w : Nat) : Except DecErr Instr :=
  if fld w 25 7 = 0 then
    do
      let d ← rcOf (fld w 7 6)
      let a ← rcOf (fld w 13 6)
      let i ← .ok (BitVec.ofNat 6 (fld w 19 6))
      .ok (.shai d a i)
  else
    .error .reservedOpcode

/-- Major opcode 0x17 (02 R50): SLTI. -/
def decOp17 (w : Nat) : Except DecErr Instr :=
  do
    let d ← rcOf (fld w 7 6)
    let a ← rcOf (fld w 13 6)
    let i ← .ok (BitVec.ofNat 13 (fld w 19 13))
    .ok (.slti d a i)

/-- Major opcode 0x18 (02 R50): BFX. -/
def decOp18 (w : Nat) : Except DecErr Instr :=
  if fld w 31 1 = 0 then
    do
      let d ← rcOf (fld w 7 6)
      let a ← rcOf (fld w 13 6)
      let p ← .ok (BitVec.ofNat 6 (fld w 19 6))
      let wd ← .ok (BitVec.ofNat 6 (fld w 25 6))
      .ok (.bfx d a p wd)
  else
    .error .reservedOpcode

/-- Major opcode 0x19 (02 R50): BFI. -/
def decOp19 (w : Nat) : Except DecErr Instr :=
  if fld w 12 1 = 0 ∧ fld w 31 1 = 0 then
    do
      let d ← gOf (fld w 7 5)
      let a ← rcOf (fld w 13 6)
      let p ← .ok (BitVec.ofNat 6 (fld w 19 6))
      let wd ← .ok (BitVec.ofNat 6 (fld w 25 6))
      .ok (.bfi d a p wd)
  else
    .error .reservedOpcode

/-- Major opcode 0x1A (02 R50): LUI. -/
def decOp1A (w : Nat) : Except DecErr Instr :=
  do
    let d ← rcOf (fld w 7 6)
    let i ← .ok (BitVec.ofNat 19 (fld w 13 19))
    .ok (.lui d i)

/-- Major opcode 0x1B (02 R50): AUIPC. -/
def decOp1B (w : Nat) : Except DecErr Instr :=
  do
    let d ← rcOf (fld w 7 6)
    let i ← .ok (BitVec.ofNat 19 (fld w 13 19))
    .ok (.auipc d i)

/-- Major opcode 0x20 (02 R50): B.EQ, B.NE, B.LT, B.GE, B.LTU, B.GEU. -/
def decOp20 (w : Nat) : Except DecErr Instr :=
  if fld w 7 3 = 0 then
    do
      let a ← rcOf (fld w 10 6)
      let b ← rcOf (fld w 16 6)
      let i ← .ok (BitVec.ofNat 10 (fld w 22 10))
      .ok (.bEq a b i)
  else
  if fld w 7 3 = 1 then
    do
      let a ← rcOf (fld w 10 6)
      let b ← rcOf (fld w 16 6)
      let i ← .ok (BitVec.ofNat 10 (fld w 22 10))
      .ok (.bNe a b i)
  else
  if fld w 7 3 = 2 then
    do
      let a ← rcOf (fld w 10 6)
      let b ← rcOf (fld w 16 6)
      let i ← .ok (BitVec.ofNat 10 (fld w 22 10))
      .ok (.bLt a b i)
  else
  if fld w 7 3 = 3 then
    do
      let a ← rcOf (fld w 10 6)
      let b ← rcOf (fld w 16 6)
      let i ← .ok (BitVec.ofNat 10 (fld w 22 10))
      .ok (.bGe a b i)
  else
  if fld w 7 3 = 4 then
    do
      let a ← rcOf (fld w 10 6)
      let b ← rcOf (fld w 16 6)
      let i ← .ok (BitVec.ofNat 10 (fld w 22 10))
      .ok (.bLtu a b i)
  else
  if fld w 7 3 = 5 then
    do
      let a ← rcOf (fld w 10 6)
      let b ← rcOf (fld w 16 6)
      let i ← .ok (BitVec.ofNat 10 (fld w 22 10))
      .ok (.bGeu a b i)
  else
    .error .reservedOpcode

/-- Major opcode 0x21 (02 R50): J. -/
def decOp21 (w : Nat) : Except DecErr Instr :=
  if fld w 7 6 = 0 then
    do
      let i ← .ok (BitVec.ofNat 19 (fld w 13 19))
      .ok (.j i)
  else
    .error .reservedOpcode

/-- Major opcode 0x22 (02 R50): JAL. -/
def decOp22 (w : Nat) : Except DecErr Instr :=
  do
    let d ← rcOf (fld w 7 6)
    let i ← .ok (BitVec.ofNat 19 (fld w 13 19))
    .ok (.jal d i)

/-- Major opcode 0x23 (02 R50): JR. -/
def decOp23 (w : Nat) : Except DecErr Instr :=
  if fld w 7 6 = 0 then
    do
      let a ← rcOf (fld w 13 6)
      let i ← .ok (BitVec.ofNat 13 (fld w 19 13))
      .ok (.jr a i)
  else
    .error .reservedOpcode

/-- Major opcode 0x24 (02 R50): JALR. -/
def decOp24 (w : Nat) : Except DecErr Instr :=
  do
    let d ← rcOf (fld w 7 6)
    let a ← rcOf (fld w 13 6)
    let i ← .ok (BitVec.ofNat 13 (fld w 19 13))
    .ok (.jalr d a i)

/-- Major opcode 0x25 (02 R50): LOOP. -/
def decOp25 (w : Nat) : Except DecErr Instr :=
  if fld w 7 3 = 0 ∧ fld w 16 6 = 0 then
    do
      let a ← rcOf (fld w 10 6)
      let i ← .ok (BitVec.ofNat 10 (fld w 22 10))
      .ok (.loop a i)
  else
    .error .reservedOpcode

/-- Major opcode 0x26 (02 R50): RDV. -/
def decOp26 (w : Nat) : Except DecErr Instr :=
  if fld w 7 25 = 0 then
    .ok .rdv
  else
    .error .reservedOpcode

/-- Major opcode 0x27 (02 R50): EXIT. -/
def decOp27 (w : Nat) : Except DecErr Instr :=
  if fld w 7 25 = 0 then
    .ok .exit
  else
    .error .reservedOpcode

/-- Major opcode 0x28 (02 R50): NOP. -/
def decOp28 (w : Nat) : Except DecErr Instr :=
  if fld w 7 25 = 0 then
    .ok .nop
  else
    .error .reservedOpcode

/-- Major opcode 0x29 (02 R50): CHCFG, CHCNT, SBW. -/
def decOp29 (w : Nat) : Except DecErr Instr :=
  if fld w 7 6 = 0 ∧ fld w 17 2 = 2 ∧ fld w 24 8 = 0 then
    do
      let n ← f16Of (fld w 13 4)
      let b ← gOf (fld w 19 5)
      .ok (.chcfg n b)
  else
  if fld w 12 1 = 0 ∧ fld w 17 15 = 1026 then
    do
      let d ← gOf (fld w 7 5)
      let n ← f16Of (fld w 13 4)
      .ok (.chcnt d n)
  else
  if fld w 14 18 = 16384 then
    do
      let m ← .ok (BitVec.ofNat 7 (fld w 7 7))
      .ok (.sbw m)
  else
    .error .reservedOpcode

/-- Major opcode 0x30 (02 R50): LDL. -/
def decOp30 (w : Nat) : Except DecErr Instr :=
  if fld w 25 3 = 0 ∧ fld w 30 2 = 0 then
    do
      let d ← rcOf (fld w 7 6)
      let b ← gOf (fld w 13 6)
      let o ← .ok (BitVec.ofNat 6 (fld w 19 6))
      let s ← sizeOf (fld w 28 2)
      .ok (.ldl d b o s)
  else
    .error .reservedOpcode

/-- Major opcode 0x31 (02 R50): STL. -/
def decOp31 (w : Nat) : Except DecErr Instr :=
  if fld w 25 3 = 0 ∧ fld w 30 2 = 0 then
    do
      let x ← rcOf (fld w 7 6)
      let b ← gOf (fld w 13 6)
      let o ← .ok (BitVec.ofNat 6 (fld w 19 6))
      let s ← sizeOf (fld w 28 2)
      .ok (.stl x b o s)
  else
    .error .reservedOpcode

/-- Major opcode 0x32 (02 R50): SPL. -/
def decOp32 (w : Nat) : Except DecErr Instr :=
  if fld w 12 1 = 0 ∧ fld w 25 3 = 0 ∧ fld w 30 2 = 0 then
    do
      let x ← gOf (fld w 7 5)
      let b ← gOf (fld w 13 6)
      let o ← .ok (BitVec.ofNat 6 (fld w 19 6))
      let s ← sizeOf (fld w 28 2)
      .ok (.spl x b o s)
  else
    .error .reservedOpcode

/-- Major opcode 0x33 (02 R50): FIL. -/
def decOp33 (w : Nat) : Except DecErr Instr :=
  if fld w 12 1 = 0 ∧ fld w 25 3 = 0 ∧ fld w 30 2 = 0 then
    do
      let d ← gOf (fld w 7 5)
      let b ← gOf (fld w 13 6)
      let o ← .ok (BitVec.ofNat 6 (fld w 19 6))
      let s ← sizeOf (fld w 28 2)
      .ok (.fil d b o s)
  else
    .error .reservedOpcode

/-- Major opcode 0x34 (02 R50): LD, LD.nt. -/
def decOp34 (w : Nat) : Except DecErr Instr :=
  if fld w 12 1 = 0 ∧ fld w 30 2 = 0 then
    do
      let d ← gOf (fld w 7 5)
      let b ← gOf (fld w 13 6)
      let o ← .ok (BitVec.ofNat 6 (fld w 19 6))
      let k ← f8Of (fld w 25 3)
      let s ← sizeOf (fld w 28 2)
      .ok (.ld d b o k s)
  else
  if fld w 12 1 = 0 ∧ fld w 30 2 = 1 then
    do
      let d ← gOf (fld w 7 5)
      let b ← gOf (fld w 13 6)
      let o ← .ok (BitVec.ofNat 6 (fld w 19 6))
      let k ← f8Of (fld w 25 3)
      let s ← sizeOf (fld w 28 2)
      .ok (.ldNt d b o k s)
  else
    .error .reservedOpcode

/-- Major opcode 0x35 (02 R50): ST, ST.nt. -/
def decOp35 (w : Nat) : Except DecErr Instr :=
  if fld w 30 2 = 0 then
    do
      let x ← rcOf (fld w 7 6)
      let b ← gOf (fld w 13 6)
      let o ← .ok (BitVec.ofNat 6 (fld w 19 6))
      let k ← f8Of (fld w 25 3)
      let s ← sizeOf (fld w 28 2)
      .ok (.st x b o k s)
  else
  if fld w 30 2 = 1 then
    do
      let x ← rcOf (fld w 7 6)
      let b ← gOf (fld w 13 6)
      let o ← .ok (BitVec.ofNat 6 (fld w 19 6))
      let k ← f8Of (fld w 25 3)
      let s ← sizeOf (fld w 28 2)
      .ok (.stNt x b o k s)
  else
    .error .reservedOpcode

/-- Major opcode 0x36 (02 R50): LDQ. -/
def decOp36 (w : Nat) : Except DecErr Instr :=
  if fld w 11 2 = 2 ∧ fld w 30 2 = 0 then
    do
      let n ← f16Of (fld w 7 4)
      let b ← gOf (fld w 13 6)
      let o ← .ok (BitVec.ofNat 6 (fld w 19 6))
      let k ← f8Of (fld w 25 3)
      let s ← sizeOf (fld w 28 2)
      .ok (.ldq n b o k s)
  else
    .error .reservedOpcode

/-- Major opcode 0x37 (02 R50): ATOM.ADD, ATOM.SUB, ATOM.AND, ATOM.OR, ATOM.XOR, ATOM.MIN, ATOM.MAX, ATOM.MINU, ATOM.MAXU, ATOM.XCHG. -/
def decOp37 (w : Nat) : Except DecErr Instr :=
  if fld w 18 1 = 0 ∧ fld w 25 1 = 0 ∧ fld w 27 4 = 0 then
    do
      let d ← rcOf (fld w 7 6)
      let a ← gOf (fld w 13 5)
      let b ← srcOf (fld w 19 6) (fld w 26 1)
      let z ← .ok (decide ((fld w 31 1) = 1))
      .ok (.atomAdd d a b z)
  else
  if fld w 18 1 = 0 ∧ fld w 25 1 = 0 ∧ fld w 27 4 = 1 then
    do
      let d ← rcOf (fld w 7 6)
      let a ← gOf (fld w 13 5)
      let b ← srcOf (fld w 19 6) (fld w 26 1)
      let z ← .ok (decide ((fld w 31 1) = 1))
      .ok (.atomSub d a b z)
  else
  if fld w 18 1 = 0 ∧ fld w 25 1 = 0 ∧ fld w 27 4 = 2 then
    do
      let d ← rcOf (fld w 7 6)
      let a ← gOf (fld w 13 5)
      let b ← srcOf (fld w 19 6) (fld w 26 1)
      let z ← .ok (decide ((fld w 31 1) = 1))
      .ok (.atomAnd d a b z)
  else
  if fld w 18 1 = 0 ∧ fld w 25 1 = 0 ∧ fld w 27 4 = 3 then
    do
      let d ← rcOf (fld w 7 6)
      let a ← gOf (fld w 13 5)
      let b ← srcOf (fld w 19 6) (fld w 26 1)
      let z ← .ok (decide ((fld w 31 1) = 1))
      .ok (.atomOr d a b z)
  else
  if fld w 18 1 = 0 ∧ fld w 25 1 = 0 ∧ fld w 27 4 = 4 then
    do
      let d ← rcOf (fld w 7 6)
      let a ← gOf (fld w 13 5)
      let b ← srcOf (fld w 19 6) (fld w 26 1)
      let z ← .ok (decide ((fld w 31 1) = 1))
      .ok (.atomXor d a b z)
  else
  if fld w 18 1 = 0 ∧ fld w 25 1 = 0 ∧ fld w 27 4 = 5 then
    do
      let d ← rcOf (fld w 7 6)
      let a ← gOf (fld w 13 5)
      let b ← srcOf (fld w 19 6) (fld w 26 1)
      let z ← .ok (decide ((fld w 31 1) = 1))
      .ok (.atomMin d a b z)
  else
  if fld w 18 1 = 0 ∧ fld w 25 1 = 0 ∧ fld w 27 4 = 6 then
    do
      let d ← rcOf (fld w 7 6)
      let a ← gOf (fld w 13 5)
      let b ← srcOf (fld w 19 6) (fld w 26 1)
      let z ← .ok (decide ((fld w 31 1) = 1))
      .ok (.atomMax d a b z)
  else
  if fld w 18 1 = 0 ∧ fld w 25 1 = 0 ∧ fld w 27 4 = 7 then
    do
      let d ← rcOf (fld w 7 6)
      let a ← gOf (fld w 13 5)
      let b ← srcOf (fld w 19 6) (fld w 26 1)
      let z ← .ok (decide ((fld w 31 1) = 1))
      .ok (.atomMinu d a b z)
  else
  if fld w 18 1 = 0 ∧ fld w 25 1 = 0 ∧ fld w 27 4 = 8 then
    do
      let d ← rcOf (fld w 7 6)
      let a ← gOf (fld w 13 5)
      let b ← srcOf (fld w 19 6) (fld w 26 1)
      let z ← .ok (decide ((fld w 31 1) = 1))
      .ok (.atomMaxu d a b z)
  else
  if fld w 18 1 = 0 ∧ fld w 25 1 = 0 ∧ fld w 27 4 = 9 then
    do
      let d ← rcOf (fld w 7 6)
      let a ← gOf (fld w 13 5)
      let b ← srcOf (fld w 19 6) (fld w 26 1)
      let z ← .ok (decide ((fld w 31 1) = 1))
      .ok (.atomXchg d a b z)
  else
    .error .reservedOpcode

/-- Major opcode 0x38 (02 R50): CAS. -/
def decOp38 (w : Nat) : Except DecErr Instr :=
  if fld w 12 1 = 0 ∧ fld w 18 1 = 0 ∧ fld w 25 1 = 0 ∧ fld w 27 4 = 0 then
    do
      let d ← gOf (fld w 7 5)
      let a ← gOf (fld w 13 5)
      let b ← srcOf (fld w 19 6) (fld w 26 1)
      let z ← .ok (decide ((fld w 31 1) = 1))
      .ok (.cas d a b z)
  else
    .error .reservedOpcode

/-- Major opcode 0x39 (02 R50): FENCE.all, FENCE.acq, FENCE.rel. -/
def decOp39 (w : Nat) : Except DecErr Instr :=
  if fld w 7 12 = 0 ∧ fld w 22 10 = 0 then
    do
      let s ← scopeOf (fld w 19 3)
      .ok (.fenceAll s)
  else
  if fld w 7 12 = 0 ∧ fld w 22 10 = 1 then
    do
      let s ← scopeOf (fld w 19 3)
      .ok (.fenceAcq s)
  else
  if fld w 7 12 = 0 ∧ fld w 22 10 = 2 then
    do
      let s ← scopeOf (fld w 19 3)
      .ok (fenceRelOf s)
  else
    .error .reservedOpcode

/-- Major opcode 0x3A (02 R50): CWB. -/
def decOp3A (w : Nat) : Except DecErr Instr :=
  if fld w 7 6 = 0 ∧ fld w 18 1 = 0 ∧ fld w 25 1 = 0 ∧ fld w 30 2 = 0 then
    do
      let a ← gOf (fld w 13 5)
      let b ← srcOf (fld w 19 6) (fld w 26 1)
      let s ← scopeOf (fld w 27 3)
      .ok (.cwb a b s)
  else
    .error .reservedOpcode

/-- Major opcode 0x3B (02 R50): CINV. -/
def decOp3B (w : Nat) : Except DecErr Instr :=
  if fld w 7 6 = 0 ∧ fld w 18 1 = 0 ∧ fld w 25 1 = 0 ∧ fld w 30 2 = 0 then
    do
      let a ← gOf (fld w 13 5)
      let b ← srcOf (fld w 19 6) (fld w 26 1)
      let s ← scopeOf (fld w 27 3)
      .ok (.cinv a b s)
  else
    .error .reservedOpcode

/-- Major opcode 0x3C (02 R50): LD.acq. -/
def decOp3C (w : Nat) : Except DecErr Instr :=
  if fld w 12 1 = 0 then
    do
      let d ← gOf (fld w 7 5)
      let b ← gOf (fld w 13 6)
      let o ← .ok (BitVec.ofNat 6 (fld w 19 6))
      let k ← f8Of (fld w 25 3)
      let s ← sizeOf (fld w 28 2)
      let sc ← acqScopeOf (fld w 30 2)
      .ok (.ldAcq d b o k s sc)
  else
    .error .reservedOpcode

/-- Major opcode 0x3D (02 R50): ST.rel. -/
def decOp3D (w : Nat) : Except DecErr Instr :=
  do
    let x ← rcOf (fld w 7 6)
    let b ← gOf (fld w 13 6)
    let o ← .ok (BitVec.ofNat 6 (fld w 19 6))
    let k ← f8Of (fld w 25 3)
    let s ← sizeOf (fld w 28 2)
    let sc ← acqScopeOf (fld w 30 2)
    .ok (.stRel x b o k s sc)

/-- Major opcode 0x3E (02 R50): LD.acq.sy, ST.rel.sy. -/
def decOp3E (w : Nat) : Except DecErr Instr :=
  if fld w 12 1 = 0 ∧ fld w 30 2 = 0 then
    do
      let d ← gOf (fld w 7 5)
      let b ← gOf (fld w 13 6)
      let o ← .ok (BitVec.ofNat 6 (fld w 19 6))
      let k ← f8Of (fld w 25 3)
      let s ← sizeOf (fld w 28 2)
      .ok (.ldAcqSy d b o k s)
  else
  if fld w 30 2 = 2 then
    do
      let x ← rcOf (fld w 7 6)
      let b ← gOf (fld w 13 6)
      let o ← .ok (BitVec.ofNat 6 (fld w 19 6))
      let k ← f8Of (fld w 25 3)
      let s ← sizeOf (fld w 28 2)
      .ok (.stRelSy x b o k s)
  else
    .error .reservedOpcode

/-- Major opcode 0x40 (02 R50): TLKP, TSET, TINV, TSTAT, TFULL, TTAKE, TWAIT, TGRANT. -/
def decOp40 (w : Nat) : Except DecErr Instr :=
  if fld w 19 6 = 0 ∧ fld w 26 6 = 0 then
    do
      let d ← rcOf (fld w 7 6)
      let a ← srcOf (fld w 13 6) (fld w 25 1)
      .ok (.tlkp d a)
  else
  if fld w 27 5 = 1 then
    do
      let d ← rcOf (fld w 7 6)
      let a ← srcOf (fld w 13 6) (fld w 25 1)
      let b ← srcOf (fld w 19 6) (fld w 26 1)
      .ok (.tset d a b)
  else
  if fld w 19 6 = 0 ∧ fld w 26 6 = 4 then
    do
      let d ← rcOf (fld w 7 6)
      let a ← srcOf (fld w 13 6) (fld w 25 1)
      .ok (.tinv d a)
  else
  if fld w 19 6 = 0 ∧ fld w 26 6 = 6 then
    do
      let d ← rcOf (fld w 7 6)
      let a ← srcOf (fld w 13 6) (fld w 25 1)
      .ok (.tstat d a)
  else
  if fld w 7 6 = 0 ∧ fld w 19 6 = 0 ∧ fld w 26 6 = 8 then
    do
      let a ← srcOf (fld w 13 6) (fld w 25 1)
      .ok (.tfull a)
  else
  if fld w 27 5 = 5 then
    do
      let d ← rcOf (fld w 7 6)
      let a ← srcOf (fld w 13 6) (fld w 25 1)
      let b ← srcOf (fld w 19 6) (fld w 26 1)
      .ok (.ttake d a b)
  else
  if fld w 7 6 = 0 ∧ fld w 19 6 = 0 ∧ fld w 26 6 = 12 then
    do
      let a ← srcOf (fld w 13 6) (fld w 25 1)
      .ok (.twait a)
  else
  if fld w 27 5 = 7 then
    do
      let d ← rcOf (fld w 7 6)
      let a ← srcOf (fld w 13 6) (fld w 25 1)
      let b ← srcOf (fld w 19 6) (fld w 26 1)
      .ok (.tgrant d a b)
  else
    .error .reservedOpcode

/-- Major opcode 0x41 (02 R50): SBIND, SREL, SQRY, SSKIP. -/
def decOp41 (w : Nat) : Except DecErr Instr :=
  if fld w 11 2 = 0 ∧ fld w 19 6 = 0 ∧ fld w 26 6 = 0 then
    do
      let n ← f16Of (fld w 7 4)
      let a ← srcOf (fld w 13 6) (fld w 25 1)
      .ok (.sbind n a)
  else
  if fld w 11 21 = 65536 then
    do
      let n ← f16Of (fld w 7 4)
      .ok (.srel n)
  else
  if fld w 17 2 = 0 ∧ fld w 25 1 = 0 ∧ fld w 27 5 = 2 then
    do
      let d ← rcOf (fld w 7 6)
      let n ← f16Of (fld w 13 4)
      let b ← srcOf (fld w 19 6) (fld w 26 1)
      .ok (.sqry d n b)
  else
  if fld w 11 2 = 0 ∧ fld w 19 6 = 0 ∧ fld w 26 6 = 6 then
    do
      let n ← f16Of (fld w 7 4)
      let a ← srcOf (fld w 13 6) (fld w 25 1)
      .ok (.sskip n a)
  else
    .error .reservedOpcode

/-- Major opcode 0x42 (02 R50): CPY. -/
def decOp42 (w : Nat) : Except DecErr Instr :=
  if fld w 12 1 = 0 ∧ fld w 18 1 = 0 ∧ fld w 24 3 = 0 then
    do
      let x ← gOf (fld w 7 5)
      let a ← gOf (fld w 13 5)
      let l ← gOf (fld w 19 5)
      let u ← f8Of (fld w 27 3)
      let c ← .ok (decide ((fld w 30 1) = 1))
      let e ← .ok (decide ((fld w 31 1) = 1))
      .ok (.cpy x a l u c e)
  else
    .error .reservedOpcode

/-- Major opcode 0x43 (02 R50): CPYG. -/
def decOp43 (w : Nat) : Except DecErr Instr :=
  if fld w 12 1 = 0 ∧ fld w 17 2 = 2 ∧ fld w 24 3 = 0 then
    do
      let x ← gOf (fld w 7 5)
      let n ← f16Of (fld w 13 4)
      let l ← gOf (fld w 19 5)
      let u ← f8Of (fld w 27 3)
      let c ← .ok (decide ((fld w 30 1) = 1))
      let e ← .ok (decide ((fld w 31 1) = 1))
      .ok (.cpyg x n l u c e)
  else
    .error .reservedOpcode

/-- Major opcode 0x44 (02 R50): CPYS. -/
def decOp44 (w : Nat) : Except DecErr Instr :=
  if fld w 12 1 = 0 ∧ fld w 17 2 = 2 ∧ fld w 24 3 = 0 then
    do
      let x ← gOf (fld w 7 5)
      let n ← f16Of (fld w 13 4)
      let l ← gOf (fld w 19 5)
      let u ← f8Of (fld w 27 3)
      let c ← .ok (decide ((fld w 30 1) = 1))
      let e ← .ok (decide ((fld w 31 1) = 1))
      .ok (.cpys x n l u c e)
  else
    .error .reservedOpcode

/-- Major opcode 0x45 (02 R50): CPYM. -/
def decOp45 (w : Nat) : Except DecErr Instr :=
  if fld w 12 1 = 0 ∧ fld w 18 1 = 0 ∧ fld w 24 3 = 0 then
    do
      let x ← gOf (fld w 7 5)
      let a ← gOf (fld w 13 5)
      let l ← gOf (fld w 19 5)
      let u ← f8Of (fld w 27 3)
      let c ← .ok (decide ((fld w 30 1) = 1))
      let e ← .ok (decide ((fld w 31 1) = 1))
      .ok (.cpym x a l u c e)
  else
    .error .reservedOpcode

/-- Major opcode 0x46 (02 R50): TSEND. -/
def decOp46 (w : Nat) : Except DecErr Instr :=
  if fld w 12 1 = 0 ∧ fld w 17 2 = 0 ∧ fld w 24 3 = 0 then
    do
      let x ← gOf (fld w 7 5)
      let cr ← f16Of (fld w 13 4)
      let l ← gOf (fld w 19 5)
      let u ← f8Of (fld w 27 3)
      let c ← .ok (decide ((fld w 30 1) = 1))
      let e ← .ok (decide ((fld w 31 1) = 1))
      .ok (.tsend x cr l u c e)
  else
    .error .reservedOpcode

/-- Major opcode 0x47 (02 R50): TGET. -/
def decOp47 (w : Nat) : Except DecErr Instr :=
  if fld w 12 1 = 0 ∧ fld w 17 2 = 0 ∧ fld w 24 3 = 0 then
    do
      let x ← gOf (fld w 7 5)
      let cr ← f16Of (fld w 13 4)
      let l ← gOf (fld w 19 5)
      let u ← f8Of (fld w 27 3)
      let c ← .ok (decide ((fld w 30 1) = 1))
      let e ← .ok (decide ((fld w 31 1) = 1))
      .ok (.tget x cr l u c e)
  else
    .error .reservedOpcode

/-- Major opcode 0x48 (02 R50): CWAIT. -/
def decOp48 (w : Nat) : Except DecErr Instr :=
  do
    let d ← rcOf (fld w 7 6)
    let a ← rcOf (fld w 13 6)
    let m ← .ok (BitVec.ofNat 13 (fld w 19 13))
    .ok (.cwait d a m)

/-- Major opcode 0x50 (02 R50): BINIT. -/
def decOp50 (w : Nat) : Except DecErr Instr :=
  if fld w 7 6 = 0 ∧ fld w 25 7 = 0 then
    do
      let a ← rcOf (fld w 13 6)
      let b ← rcOf (fld w 19 6)
      .ok (.binit a b)
  else
    .error .reservedOpcode

/-- Major opcode 0x51 (02 R50): BEXP. -/
def decOp51 (w : Nat) : Except DecErr Instr :=
  if fld w 7 6 = 0 ∧ fld w 25 7 = 0 then
    do
      let a ← rcOf (fld w 13 6)
      let b ← rcOf (fld w 19 6)
      .ok (.bexp a b)
  else
    .error .reservedOpcode

/-- Major opcode 0x52 (02 R50): ARV. -/
def decOp52 (w : Nat) : Except DecErr Instr :=
  if fld w 7 6 = 0 ∧ fld w 25 7 = 0 then
    do
      let a ← rcOf (fld w 13 6)
      let b ← rcOf (fld w 19 6)
      .ok (.arv a b)
  else
    .error .reservedOpcode

/-- Major opcode 0x53 (02 R50): BWAIT. -/
def decOp53 (w : Nat) : Except DecErr Instr :=
  if fld w 19 13 = 0 then
    do
      let d ← rcOf (fld w 7 6)
      let a ← rcOf (fld w 13 6)
      .ok (.bwait d a)
  else
    .error .reservedOpcode

/-- Major opcode 0x54 (02 R50): BTEST. -/
def decOp54 (w : Nat) : Except DecErr Instr :=
  if fld w 19 13 = 0 then
    do
      let d ← rcOf (fld w 7 6)
      let a ← rcOf (fld w 13 6)
      .ok (.btest d a)
  else
    .error .reservedOpcode

/-- Major opcode 0x58 (02 R50): BOOK. -/
def decOp58 (w : Nat) : Except DecErr Instr :=
  if fld w 12 1 = 0 ∧ fld w 18 14 = 0 then
    do
      let d ← gOf (fld w 7 5)
      let a ← gOf (fld w 13 5)
      .ok (.book d a)
  else
    .error .reservedOpcode

/-- Major opcode 0x59 (02 R50): BQRY. -/
def decOp59 (w : Nat) : Except DecErr Instr :=
  if fld w 12 1 = 0 ∧ fld w 18 1 = 0 ∧ fld w 25 7 = 0 then
    do
      let d ← gOf (fld w 7 5)
      let a ← gOf (fld w 13 5)
      let b ← rcOf (fld w 19 6)
      .ok (.bqry d a b)
  else
    .error .reservedOpcode

/-- Major opcode 0x5A (02 R50): BCAN. -/
def decOp5A (w : Nat) : Except DecErr Instr :=
  if fld w 12 1 = 0 ∧ fld w 18 14 = 0 then
    do
      let d ← gOf (fld w 7 5)
      let a ← gOf (fld w 13 5)
      .ok (.bcan d a)
  else
    .error .reservedOpcode

/-- Major opcode 0x5B (02 R50): BDONE. -/
def decOp5B (w : Nat) : Except DecErr Instr :=
  if fld w 12 1 = 0 ∧ fld w 18 1 = 0 ∧ fld w 25 7 = 0 then
    do
      let d ← gOf (fld w 7 5)
      let a ← gOf (fld w 13 5)
      let b ← rcOf (fld w 19 6)
      .ok (.bdone d a b)
  else
    .error .reservedOpcode

/-- Major opcode 0x60 (02 R50): LDCR. -/
def decOp60 (w : Nat) : Except DecErr Instr :=
  if fld w 11 2 = 0 ∧ fld w 18 1 = 0 ∧ fld w 28 4 = 0 then
    do
      let c ← f16Of (fld w 7 4)
      let b ← gOf (fld w 13 5)
      let o ← .ok (BitVec.ofNat 6 (fld w 19 6))
      let k ← f8Of (fld w 25 3)
      .ok (.ldcr c b o k)
  else
    .error .reservedOpcode

/-- Major opcode 0x61 (02 R50): STCR. -/
def decOp61 (w : Nat) : Except DecErr Instr :=
  if fld w 11 2 = 0 ∧ fld w 18 1 = 0 ∧ fld w 28 4 = 0 then
    do
      let c ← f16Of (fld w 7 4)
      let b ← gOf (fld w 13 5)
      let o ← .ok (BitVec.ofNat 6 (fld w 19 6))
      let k ← f8Of (fld w 25 3)
      .ok (.stcr c b o k)
  else
    .error .reservedOpcode

/-- Major opcode 0x62 (02 R50): CMOVC, CBND, CPRM, CADD, CGET, CTAG, CCLR. -/
def decOp62 (w : Nat) : Except DecErr Instr :=
  if fld w 11 2 = 0 ∧ fld w 17 15 = 0 then
    do
      let d ← f16Of (fld w 7 4)
      let a ← f16Of (fld w 13 4)
      .ok (.cmovc d a)
  else
  if fld w 11 2 = 0 ∧ fld w 17 2 = 0 ∧ fld w 25 1 = 0 ∧ fld w 27 5 = 1 then
    do
      let d ← f16Of (fld w 7 4)
      let a ← f16Of (fld w 13 4)
      let b ← srcOf (fld w 19 6) (fld w 26 1)
      .ok (.cbnd d a b)
  else
  if fld w 11 2 = 0 ∧ fld w 17 2 = 0 ∧ fld w 25 1 = 0 ∧ fld w 27 5 = 2 then
    do
      let d ← f16Of (fld w 7 4)
      let a ← f16Of (fld w 13 4)
      let b ← srcOf (fld w 19 6) (fld w 26 1)
      .ok (.cprm d a b)
  else
  if fld w 11 2 = 0 ∧ fld w 17 2 = 0 ∧ fld w 25 1 = 0 ∧ fld w 27 5 = 3 then
    do
      let d ← f16Of (fld w 7 4)
      let a ← f16Of (fld w 13 4)
      let b ← srcOf (fld w 19 6) (fld w 26 1)
      .ok (.cadd d a b)
  else
  if fld w 17 2 = 0 ∧ fld w 25 1 = 0 ∧ fld w 27 5 = 4 then
    do
      let d ← rcOf (fld w 7 6)
      let a ← f16Of (fld w 13 4)
      let b ← srcOf (fld w 19 6) (fld w 26 1)
      .ok (.cget d a b)
  else
  if fld w 17 15 = 5120 then
    do
      let d ← rcOf (fld w 7 6)
      let a ← f16Of (fld w 13 4)
      .ok (.ctag d a)
  else
  if fld w 11 21 = 393216 then
    do
      let d ← f16Of (fld w 7 4)
      .ok (.cclr d)
  else
    .error .reservedOpcode

/-- Major opcode 0x68 (02 R50): RLD. -/
def decOp68 (w : Nat) : Except DecErr Instr :=
  if fld w 12 1 = 0 ∧ fld w 17 2 = 0 ∧ fld w 30 2 = 0 then
    do
      let d ← gOf (fld w 7 5)
      let c ← f16Of (fld w 13 4)
      let o ← .ok (BitVec.ofNat 6 (fld w 19 6))
      let k ← f8Of (fld w 25 3)
      let s ← sizeOf (fld w 28 2)
      .ok (.rld d c o k s)
  else
    .error .reservedOpcode

/-- Major opcode 0x69 (02 R50): RST. -/
def decOp69 (w : Nat) : Except DecErr Instr :=
  if fld w 17 2 = 0 ∧ fld w 30 2 = 0 then
    do
      let x ← rcOf (fld w 7 6)
      let c ← f16Of (fld w 13 4)
      let o ← .ok (BitVec.ofNat 6 (fld w 19 6))
      let k ← f8Of (fld w 25 3)
      let s ← sizeOf (fld w 28 2)
      .ok (.rst x c o k s)
  else
    .error .reservedOpcode

/-- Major opcode 0x6A (02 R50): RATOM.ADD, RATOM.SUB, RATOM.AND, RATOM.OR, RATOM.XOR, RATOM.MIN, RATOM.MAX, RATOM.MINU, RATOM.MAXU, RATOM.XCHG. -/
def decOp6A (w : Nat) : Except DecErr Instr :=
  if fld w 17 2 = 0 ∧ fld w 27 4 = 0 then
    do
      let d ← rcOf (fld w 7 6)
      let c ← f16Of (fld w 13 4)
      let b ← srcOf (fld w 19 6) (fld w 26 1)
      let cmb ← .ok (decide ((fld w 25 1) = 1))
      let z ← .ok (decide ((fld w 31 1) = 1))
      .ok (.ratomAdd d c b cmb z)
  else
  if fld w 17 2 = 0 ∧ fld w 25 1 = 0 ∧ fld w 27 4 = 1 then
    do
      let d ← rcOf (fld w 7 6)
      let c ← f16Of (fld w 13 4)
      let b ← srcOf (fld w 19 6) (fld w 26 1)
      let z ← .ok (decide ((fld w 31 1) = 1))
      .ok (.ratomSub d c b z)
  else
  if fld w 17 2 = 0 ∧ fld w 25 1 = 0 ∧ fld w 27 4 = 2 then
    do
      let d ← rcOf (fld w 7 6)
      let c ← f16Of (fld w 13 4)
      let b ← srcOf (fld w 19 6) (fld w 26 1)
      let z ← .ok (decide ((fld w 31 1) = 1))
      .ok (.ratomAnd d c b z)
  else
  if fld w 17 2 = 0 ∧ fld w 25 1 = 0 ∧ fld w 27 4 = 3 then
    do
      let d ← rcOf (fld w 7 6)
      let c ← f16Of (fld w 13 4)
      let b ← srcOf (fld w 19 6) (fld w 26 1)
      let z ← .ok (decide ((fld w 31 1) = 1))
      .ok (.ratomOr d c b z)
  else
  if fld w 17 2 = 0 ∧ fld w 25 1 = 0 ∧ fld w 27 4 = 4 then
    do
      let d ← rcOf (fld w 7 6)
      let c ← f16Of (fld w 13 4)
      let b ← srcOf (fld w 19 6) (fld w 26 1)
      let z ← .ok (decide ((fld w 31 1) = 1))
      .ok (.ratomXor d c b z)
  else
  if fld w 17 2 = 0 ∧ fld w 25 1 = 0 ∧ fld w 27 4 = 5 then
    do
      let d ← rcOf (fld w 7 6)
      let c ← f16Of (fld w 13 4)
      let b ← srcOf (fld w 19 6) (fld w 26 1)
      let z ← .ok (decide ((fld w 31 1) = 1))
      .ok (.ratomMin d c b z)
  else
  if fld w 17 2 = 0 ∧ fld w 25 1 = 0 ∧ fld w 27 4 = 6 then
    do
      let d ← rcOf (fld w 7 6)
      let c ← f16Of (fld w 13 4)
      let b ← srcOf (fld w 19 6) (fld w 26 1)
      let z ← .ok (decide ((fld w 31 1) = 1))
      .ok (.ratomMax d c b z)
  else
  if fld w 17 2 = 0 ∧ fld w 25 1 = 0 ∧ fld w 27 4 = 7 then
    do
      let d ← rcOf (fld w 7 6)
      let c ← f16Of (fld w 13 4)
      let b ← srcOf (fld w 19 6) (fld w 26 1)
      let z ← .ok (decide ((fld w 31 1) = 1))
      .ok (.ratomMinu d c b z)
  else
  if fld w 17 2 = 0 ∧ fld w 25 1 = 0 ∧ fld w 27 4 = 8 then
    do
      let d ← rcOf (fld w 7 6)
      let c ← f16Of (fld w 13 4)
      let b ← srcOf (fld w 19 6) (fld w 26 1)
      let z ← .ok (decide ((fld w 31 1) = 1))
      .ok (.ratomMaxu d c b z)
  else
  if fld w 17 2 = 0 ∧ fld w 25 1 = 0 ∧ fld w 27 4 = 9 then
    do
      let d ← rcOf (fld w 7 6)
      let c ← f16Of (fld w 13 4)
      let b ← srcOf (fld w 19 6) (fld w 26 1)
      let z ← .ok (decide ((fld w 31 1) = 1))
      .ok (.ratomXchg d c b z)
  else
    .error .reservedOpcode

/-- Major opcode 0x6B (02 R50): RCAS. -/
def decOp6B (w : Nat) : Except DecErr Instr :=
  if fld w 12 1 = 0 ∧ fld w 17 2 = 0 ∧ fld w 25 1 = 0 ∧ fld w 27 4 = 0 then
    do
      let d ← gOf (fld w 7 5)
      let c ← f16Of (fld w 13 4)
      let b ← srcOf (fld w 19 6) (fld w 26 1)
      let z ← .ok (decide ((fld w 31 1) = 1))
      .ok (.rcas d c b z)
  else
    .error .reservedOpcode

/-- Major opcode 0x6C (02 R50): RLDQ. -/
def decOp6C (w : Nat) : Except DecErr Instr :=
  if fld w 11 2 = 2 ∧ fld w 17 2 = 0 ∧ fld w 30 2 = 0 then
    do
      let n ← f16Of (fld w 7 4)
      let c ← f16Of (fld w 13 4)
      let o ← .ok (BitVec.ofNat 6 (fld w 19 6))
      let k ← f8Of (fld w 25 3)
      let s ← sizeOf (fld w 28 2)
      .ok (.rldq n c o k s)
  else
    .error .reservedOpcode

/-- Major opcode 0x6D (02 R50): BNDO, BNDS, BNDC, BNDR, BNDQ. -/
def decOp6D (w : Nat) : Except DecErr Instr :=
  if fld w 9 4 = 0 ∧ fld w 18 14 = 0 then
    do
      let n ← f4Of (fld w 7 2)
      let a ← gOf (fld w 13 5)
      .ok (.bndo n a)
  else
  if fld w 9 4 = 0 ∧ fld w 17 15 = 1024 then
    do
      let n ← f4Of (fld w 7 2)
      let c ← f16Of (fld w 13 4)
      .ok (.bnds n c)
  else
  if fld w 12 1 = 0 ∧ fld w 15 17 = 8192 then
    do
      let d ← gOf (fld w 7 5)
      let n ← f4Of (fld w 13 2)
      .ok (.bndc d n)
  else
  if fld w 12 1 = 0 ∧ fld w 15 17 = 12288 then
    do
      let d ← gOf (fld w 7 5)
      let n ← f4Of (fld w 13 2)
      .ok (.bndr d n)
  else
  if fld w 15 4 = 0 ∧ fld w 25 1 = 0 ∧ fld w 27 5 = 4 then
    do
      let d ← rcOf (fld w 7 6)
      let n ← f4Of (fld w 13 2)
      let b ← srcOf (fld w 19 6) (fld w 26 1)
      .ok (.bndq d n b)
  else
    .error .reservedOpcode

/-- Major opcode 0x6E (02 R50): FTIME. -/
def decOp6E (w : Nat) : Except DecErr Instr :=
  if fld w 13 19 = 0 then
    do
      let d ← rcOf (fld w 7 6)
      .ok (.ftime d)
  else
    .error .reservedOpcode

/-- Major opcode 0x70 (02 R50): CSRR. -/
def decOp70 (w : Nat) : Except DecErr Instr :=
  if fld w 13 6 = 0 then
    do
      let d ← rcOf (fld w 7 6)
      let c ← .ok (BitVec.ofNat 13 (fld w 19 13))
      .ok (.csrr d c)
  else
    .error .reservedOpcode

/-- Major opcode 0x71 (02 R50): CSRW. -/
def decOp71 (w : Nat) : Except DecErr Instr :=
  do
    let d ← rcOf (fld w 7 6)
    let a ← rcOf (fld w 13 6)
    let c ← .ok (BitVec.ofNat 13 (fld w 19 13))
    .ok (.csrw d a c)

/-- Major opcode 0x72 (02 R50): CSRS. -/
def decOp72 (w : Nat) : Except DecErr Instr :=
  do
    let d ← rcOf (fld w 7 6)
    let a ← rcOf (fld w 13 6)
    let c ← .ok (BitVec.ofNat 13 (fld w 19 13))
    .ok (.csrs d a c)

/-- Major opcode 0x73 (02 R50): CSRC. -/
def decOp73 (w : Nat) : Except DecErr Instr :=
  do
    let d ← rcOf (fld w 7 6)
    let a ← rcOf (fld w 13 6)
    let c ← .ok (BitVec.ofNat 13 (fld w 19 13))
    .ok (.csrc d a c)

/-- Major opcode 0x74 (02 R50): FEAT, ECALL, EBREAK, ULIRET, SRET, WFE, TRCM, SNAP, TLBI, TPRE, CTXS, CTXR, HALT. -/
def decOp74 (w : Nat) : Except DecErr Instr :=
  if fld w 19 13 = 0 then
    do
      let d ← rcOf (fld w 7 6)
      let a ← rcOf (fld w 13 6)
      .ok (.feat d a)
  else
  if fld w 7 25 = 1048576 then
    .ok .ecall
  else
  if fld w 7 25 = 2097152 then
    .ok .ebreak
  else
  if fld w 7 25 = 3145728 then
    .ok .uliret
  else
  if fld w 7 25 = 4194304 then
    .ok .sret
  else
  if fld w 13 19 = 81920 then
    do
      let d ← rcOf (fld w 7 6)
      .ok (.wfe d)
  else
  if fld w 7 6 = 0 ∧ fld w 19 6 = 0 ∧ fld w 26 6 = 12 then
    do
      let a ← srcOf (fld w 13 6) (fld w 25 1)
      .ok (.trcm a)
  else
  if fld w 19 6 = 0 ∧ fld w 26 6 = 14 then
    do
      let d ← rcOf (fld w 7 6)
      let a ← srcOf (fld w 13 6) (fld w 25 1)
      .ok (.snap d a)
  else
  if fld w 7 6 = 0 ∧ fld w 25 7 = 32 then
    do
      let a ← rcOf (fld w 13 6)
      let b ← rcOf (fld w 19 6)
      .ok (.tlbi a b)
  else
  if fld w 25 7 = 36 then
    do
      let d ← rcOf (fld w 7 6)
      let a ← rcOf (fld w 13 6)
      let b ← rcOf (fld w 19 6)
      .ok (.tpre d a b)
  else
  if fld w 25 7 = 40 then
    do
      let d ← rcOf (fld w 7 6)
      let a ← rcOf (fld w 13 6)
      let b ← rcOf (fld w 19 6)
      .ok (.ctxs d a b)
  else
  if fld w 25 7 = 44 then
    do
      let d ← rcOf (fld w 7 6)
      let a ← rcOf (fld w 13 6)
      let b ← rcOf (fld w 19 6)
      .ok (.ctxr d a b)
  else
  if fld w 7 6 = 0 ∧ fld w 19 13 = 3072 then
    do
      let a ← rcOf (fld w 13 6)
      .ok (.halt a)
  else
    .error .reservedOpcode

/-- The fields of a 32-bit access-core word, by its major opcode. -/
def decAccessFields (w : Nat) : Except DecErr Instr :=
  match fld w 0 7 with
  | 0x00 => decOp00 w
  | 0x01 => decOp01 w
  | 0x02 => decOp02 w
  | 0x10 => decOp10 w
  | 0x11 => decOp11 w
  | 0x12 => decOp12 w
  | 0x13 => decOp13 w
  | 0x14 => decOp14 w
  | 0x15 => decOp15 w
  | 0x16 => decOp16 w
  | 0x17 => decOp17 w
  | 0x18 => decOp18 w
  | 0x19 => decOp19 w
  | 0x1A => decOp1A w
  | 0x1B => decOp1B w
  | 0x20 => decOp20 w
  | 0x21 => decOp21 w
  | 0x22 => decOp22 w
  | 0x23 => decOp23 w
  | 0x24 => decOp24 w
  | 0x25 => decOp25 w
  | 0x26 => decOp26 w
  | 0x27 => decOp27 w
  | 0x28 => decOp28 w
  | 0x29 => decOp29 w
  | 0x30 => decOp30 w
  | 0x31 => decOp31 w
  | 0x32 => decOp32 w
  | 0x33 => decOp33 w
  | 0x34 => decOp34 w
  | 0x35 => decOp35 w
  | 0x36 => decOp36 w
  | 0x37 => decOp37 w
  | 0x38 => decOp38 w
  | 0x39 => decOp39 w
  | 0x3A => decOp3A w
  | 0x3B => decOp3B w
  | 0x3C => decOp3C w
  | 0x3D => decOp3D w
  | 0x3E => decOp3E w
  | 0x40 => decOp40 w
  | 0x41 => decOp41 w
  | 0x42 => decOp42 w
  | 0x43 => decOp43 w
  | 0x44 => decOp44 w
  | 0x45 => decOp45 w
  | 0x46 => decOp46 w
  | 0x47 => decOp47 w
  | 0x48 => decOp48 w
  | 0x50 => decOp50 w
  | 0x51 => decOp51 w
  | 0x52 => decOp52 w
  | 0x53 => decOp53 w
  | 0x54 => decOp54 w
  | 0x58 => decOp58 w
  | 0x59 => decOp59 w
  | 0x5A => decOp5A w
  | 0x5B => decOp5B w
  | 0x60 => decOp60 w
  | 0x61 => decOp61 w
  | 0x62 => decOp62 w
  | 0x68 => decOp68 w
  | 0x69 => decOp69 w
  | 0x6A => decOp6A w
  | 0x6B => decOp6B w
  | 0x6C => decOp6C w
  | 0x6D => decOp6D w
  | 0x6E => decOp6E w
  | 0x70 => decOp70 w
  | 0x71 => decOp71 w
  | 0x72 => decOp72 w
  | 0x73 => decOp73 w
  | 0x74 => decOp74 w
  | _ => .error .reservedOpcode

/-- An access-core word (02 R45 to R50, R58). -/
def decodeAccess (w : Nat) : Except DecErr Instr :=
  if w = 0 then .error .allZero
  else if w = 2 ^ 32 - 1 then .error .allOnes
  else
    match decAccessFields w with
    | .ok i => if i.wf then .ok i else .error .outOfRange
    | .error e => .error e

/-! ### Loom words -/

/-- A 20-bit operand field (02 R52). -/
def lopndOf (v : Nat) : Except DecErr LOpnd :=
  let idx : Fin 16 := Fin.ofNat 16 (fld v 2 4)
  let pk := fld v 6 1
  match fld v 0 2 with
  | 0 =>
    if pk = 0 then .ok (.vreg idx (Fin.ofNat 32 (fld v 7 5)) (Fin.ofNat 16 (fld v 12 4)) (Fin.ofNat 16 (fld v 16 4)))
    else .error .reservedField
  | 1 => if pk = 0 ∧ fld v 7 13 = 0 then .ok (.stream idx) else .error .reservedField
  | 2 => if fld v 7 13 = 0 then .ok (.chan idx (decide (pk = 1))) else .error .reservedField
  | _ => if pk = 0 ∧ fld v 7 13 = 0 then .ok (.const idx) else .error .reservedField

def lopndCode : LOpnd → Nat
  | .vreg i r s c => i.val * 4 + r.val * 128 + s.val * 4096 + c.val * 65536
  | .stream i => 1 + i.val * 4
  | .chan i p => 2 + i.val * 4 + p.toNat * 64
  | .const i => 3 + i.val * 4

/-- The format field of a Loom word (02 R53). -/
def lfmtOf (v : Nat) : Except DecErr Fmt :=
  match fmtOf v with
  | some f => .ok f
  | none => .error .reservedField

/-- The fields of a 96-bit Loom word (02 R51). -/
def lformOf (w : Nat) : Except DecErr LForm := do
  let b ← lopndOf (fld w 61 20)
  let a ← lopndOf (fld w 41 20)
  let d ← lopndOf (fld w 21 20)
  let rnd ← rndOf (fld w 17 3)
  let fmt ← lfmtOf (fld w 13 4)
  .ok { modf := BitVec.ofNat 15 (fld w 81 15), b := b, a := a, d := d, sat := decide (fld w 20 1 = 1), rnd := rnd, fmt := fmt,
        pred := Fin.ofNat 8 (fld w 10 3) }

/-- A Loom word of opcode `op` and fields `f` (02 R51). -/
def lformCode (op : Nat) (f : LForm) : Nat :=
  op + f.pred.val * 2 ^ 10 + fmtCode f.fmt * 2 ^ 13 + rndCode f.rnd * 2 ^ 17 + f.sat.toNat * 2 ^ 20 + lopndCode f.d * 2 ^ 21 +
  lopndCode f.a * 2 ^ 41 + lopndCode f.b * 2 ^ 61 + f.modf.toNat * 2 ^ 81

/-- The instruction of a Loom opcode; forms that share an opcode are told apart by the modifier, and VBR by rnd (02 R55). -/
def loomOf (op : Nat) (f : LForm) : Except DecErr Instr :=
  match op with
  | 0x001 => .ok (.vadd f)
  | 0x002 => .ok (.vsub f)
  | 0x003 => .ok (.vmul f)
  | 0x004 => .ok (.vfma f)
  | 0x005 => .ok (.vfms f)
  | 0x006 => .ok (.vfnma f)
  | 0x007 => .ok (.vdiv f)
  | 0x008 => .ok (.vsqrt f)
  | 0x009 => .ok (.vrcp f)
  | 0x00A => .ok (.vrsq f)
  | 0x00B => .ok (.vexp2 f)
  | 0x00C => .ok (.vlog2 f)
  | 0x00D => .ok (.vtanh f)
  | 0x00E => .ok (.vsinp f)
  | 0x00F => .ok (.vcosp f)
  | 0x010 => .ok (.vmin f)
  | 0x011 => .ok (.vmax f)
  | 0x012 => .ok (.vabs f)
  | 0x013 => .ok (.vneg f)
  | 0x014 => .ok (.vcpys f)
  | 0x015 => .ok (.vcls f)
  | 0x040 =>
    match modBits f 0 3 with
    | 0 => .ok (.vcmpEq f)
    | 1 => .ok (.vcmpNe f)
    | 2 => .ok (.vcmpLt f)
    | 3 => .ok (.vcmpLe f)
    | 4 => .ok (.vcmpGt f)
    | 5 => .ok (.vcmpGe f)
    | _ => .error .reservedOpcode
  | 0x041 => .ok (.vsel f)
  | 0x042 => .ok (.vand f)
  | 0x043 => .ok (.vor f)
  | 0x044 => .ok (.vxor f)
  | 0x045 => .ok (.vnot f)
  | 0x046 => .ok (.vshl f)
  | 0x047 => .ok (.vshr f)
  | 0x048 => .ok (.vsha f)
  | 0x080 => .ok (.viadd f)
  | 0x081 => .ok (.visub f)
  | 0x082 => .ok (.vimul f)
  | 0x0C0 => .ok (.vcvt f)
  | 0x0C1 => .ok (.vqnt f)
  | 0x0C2 => .ok (.vdqt f)
  | 0x100 =>
    match modBits f 0 3 with
    | 0 => .ok (.vredSum f)
    | 1 => .ok (.vredMin f)
    | 2 => .ok (.vredMax f)
    | _ => .error .reservedOpcode
  | 0x101 =>
    match modBits f 0 3 with
    | 0 => .ok (.vscanSum f)
    | 1 => .ok (.vscanMin f)
    | 2 => .ok (.vscanMax f)
    | _ => .error .reservedOpcode
  | 0x102 => .ok (.vtopk f)
  | 0x103 => .ok (.vsort f)
  | 0x140 => .ok (.vtrn f)
  | 0x141 => .ok (.vperm f)
  | 0x142 =>
    match modBits f 0 2 with
    | 0 => .ok (.vbcst f)
    | 1 => .ok (.vbcstRow f)
    | 2 => .ok (.vbcstColumn f)
    | _ => .error .reservedOpcode
  | 0x143 =>
    match modBits f 14 1 with
    | 0 => .ok (.vshape f)
    | 1 => .ok (.vshapeImmediate f)
    | _ => .error .reservedOpcode
  | 0x144 =>
    match modBits f 0 2 with
    | 0 => .ok (.vmov f)
    | 1 => .ok (.vmovS f)
    | 2 => .ok (.vmovI f)
    | 3 => .ok (.vmovQ f)
    | _ => .error .reservedOpcode
  | 0x180 => .ok (.vld f)
  | 0x181 => .ok (.vst f)
  | 0x182 => .ok (.vldff f)
  | 0x183 => .ok (.vgth f)
  | 0x184 => .ok (.vsct f)
  | 0x1C0 =>
    match modBits f 3 2 with
    | 0 => .ok (.vpred f)
    | 1 => .ok (.vpredMin f)
    | 2 => .ok (.vpredZero f)
    | _ => .error .reservedOpcode
  | 0x1C1 => .ok (.vrand f)
  | 0x200 => .ok (.vloop f)
  | 0x201 =>
    match rndCode f.rnd with
    | 0 => .ok (.vbrEq f)
    | 1 => .ok (.vbrNe f)
    | 2 => .ok (.vbrLt f)
    | 3 => .ok (.vbrGe f)
    | 4 => .ok (.vbrLtu f)
    | 5 => .ok (.vbrGeu f)
    | _ => .error .reservedOpcode
  | 0x202 => if legalVzero f then .ok .vrdv else .error .reservedField
  | 0x203 => if legalVzero f then .ok .vexit else .error .reservedField
  | _ => .error .reservedOpcode

/-- A Loom word (02 R51 to R55, R58). -/
def decodeLoom (w : Nat) : Except DecErr Instr :=
  if w = 0 then .error .allZero
  else if w = 2 ^ 96 - 1 then .error .allOnes
  else
    match lformOf w with
    | .error e => .error e
    | .ok f =>
      match loomOf (fld w 0 10) f with
      | .ok i => if i.wf then .ok i else .error .outOfRange
      | .error e => .error e

/-! ### Mill words -/

/-- The fields of a 192-bit Mill word (02 R56). -/
def mformOf (w : Nat) : Except DecErr MForm :=
  if fld w 160 32 = 0 ∧ fld w 92 4 = 0 then
    .ok { imm2 := BitVec.ofNat 32 (fld w 128 32), imm1 := BitVec.ofNat 32 (fld w 96 32), mrp0 := BitVec.ofNat 16 (fld w 76 16),
          use := Fin.ofNat 8 (fld w 73 3), wfull := decide (fld w 72 1 = 1), cons := decide (fld w 71 1 = 1),
          inj := decide (fld w 70 1 = 1), erm := Fin.ofNat 8 (fld w 67 3), epi := decide (fld w 66 1 = 1),
          os := Fin.ofNat 16 (fld w 62 4), ofmt := Fin.ofNat 16 (fld w 58 4), act := Fin.ofNat 32 (fld w 53 5),
          grp := decide (fld w 52 1 = 1), pro := decide (fld w 51 1 = 1), zs := Fin.ofNat 16 (fld w 47 4),
          ss := Fin.ofNat 16 (fld w 43 4), steps := BitVec.ofNat 16 (fld w 27 16), mode := Fin.ofNat 4 (fld w 25 2),
          bank := decide (fld w 24 1 = 1), bfmt := Fin.ofNat 16 (fld w 20 4), bs := Fin.ofNat 16 (fld w 16 4),
          afmt := Fin.ofNat 16 (fld w 12 4), as := Fin.ofNat 16 (fld w 8 4) }
  else .error .reservedField

/-- A Mill word of opcode `op` and fields `f` (02 R56). -/
def mformCode (op : Nat) (f : MForm) : Nat :=
  op + f.as.val * 2 ^ 8 + f.afmt.val * 2 ^ 12 + f.bs.val * 2 ^ 16 + f.bfmt.val * 2 ^ 20 + f.bank.toNat * 2 ^ 24 +
  f.mode.val * 2 ^ 25 + f.steps.toNat * 2 ^ 27 + f.ss.val * 2 ^ 43 + f.zs.val * 2 ^ 47 + f.pro.toNat * 2 ^ 51 +
  f.grp.toNat * 2 ^ 52 + f.act.val * 2 ^ 53 + f.ofmt.val * 2 ^ 58 + f.os.val * 2 ^ 62 + f.epi.toNat * 2 ^ 66 +
  f.erm.val * 2 ^ 67 + f.inj.toNat * 2 ^ 70 + f.cons.toNat * 2 ^ 71 + f.wfull.toNat * 2 ^ 72 + f.use.val * 2 ^ 73 +
  f.mrp0.toNat * 2 ^ 76 + f.imm1.toNat * 2 ^ 96 + f.imm2.toNat * 2 ^ 128

/-- The instruction of a Mill opcode; MRPG forms are told apart by imm2, MBR forms by afmt (02 R57). -/
def millOf (op : Nat) (f : MForm) : Except DecErr Instr :=
  match op with
  | 0x01 => .ok (.mstep f)
  | 0x02 => .ok (.mclr f)
  | 0x03 => .ok (.mlda f)
  | 0x04 => .ok (.msta f)
  | 0x05 => .ok (.mswap f)
  | 0x06 => .ok (.mpro f)
  | 0x07 => .ok (.mepi f)
  | 0x08 => if legalMzero f then .ok .minj else .error .reservedField
  | 0x09 =>
    match f.imm2.toNat with
    | 0 => .ok (.mrpgR f)
    | 1 => .ok (.mrpgW f)
    | 2 => .ok (.mrpgI f)
    | 3 => .ok (.mrpgA f)
    | _ => .error .reservedField
  | 0x10 => .ok (.mloop f)
  | 0x11 =>
    match f.afmt.val with
    | 0 => .ok (.mbrEq f)
    | 1 => .ok (.mbrNe f)
    | 2 => .ok (.mbrLt f)
    | 3 => .ok (.mbrGe f)
    | 4 => .ok (.mbrLtu f)
    | 5 => .ok (.mbrGeu f)
    | _ => .error .reservedField
  | 0x12 => .ok (.mj f)
  | 0x13 => if legalMzero f then .ok .mrdv else .error .reservedField
  | 0x14 => if legalMzero f then .ok .mexit else .error .reservedField
  | _ => .error .reservedOpcode

/-- The inject-accept bit of a Mill instruction; false for every other (07 R198). -/
def millInj : Instr → Bool
  | .mstep f => f.inj
  | .mclr f => f.inj
  | .mlda f => f.inj
  | .msta f => f.inj
  | .mswap f => f.inj
  | .mpro f => f.inj
  | .mepi f => f.inj
  | _ => false

/-- A Mill word, from the stream or injected (02 R56 to R58). -/
def decodeMill (w : Nat) : Except DecErr Instr :=
  if w = 0 then .error .allZero
  else if w = 2 ^ 192 - 1 then .error .allOnes
  else
    match mformOf w with
    | .error e => .error e
    | .ok f =>
      match millOf (fld w 0 8) f with
      | .ok i => if i.wf then .ok i else .error .outOfRange
      | .error e => .error e

/-- A Mill word fetched from the stream: inj = 1 raises 0x01 (07 R198). -/
def decodeMillStream (w : Nat) : Except DecErr Instr :=
  match decodeMill w with
  | .ok i => if millInj i then .error .reservedField else .ok i
  | .error e => .error e

/-! ### All engines -/

/-- The word length of an engine in bytes (02 R43). -/
def wordBytes : Eng → Nat
  | .access => 4
  | .loom => 12
  | .mill => 24

/-- Little-endian value of a list of bytes (02 R43). -/
def leNat : List Byte → Nat
  | [] => 0
  | b :: t => b.toNat + 256 * leNat t

/-- The `n` bytes of a value, the lowest first (02 R43). -/
def leBytes : Nat → Nat → List Byte
  | 0, _ => []
  | n + 1, v => BitVec.ofNat 8 v :: leBytes n (v / 256)

/-- Little-endian value of `n` bytes from byte `o`. -/
def Machine.leAt (b : List Byte) (o n : Nat) : Nat := leNat ((b.drop o).take n)

/-- The word of an engine, as a number. -/
def decodeWord (e : Eng) (w : Nat) : Except DecErr Instr :=
  match e with
  | .access => decodeAccess w
  | .loom => decodeLoom w
  | .mill => decodeMillStream w

/-- Decode the instruction at the head of a list of bytes, with the bytes after it. -/
def decode (e : Eng) (bs : List Byte) : Except DecErr (Instr × List Byte) :=
  if bs.length < wordBytes e then .error .truncated
  else
    match decodeWord e (leNat (bs.take (wordBytes e))) with
    | .ok i => .ok (i, bs.drop (wordBytes e))
    | .error x => .error x

/-- The engine whose word an instruction is; an event has none. -/
def engOf : Instr → Option Eng
  | .add _ _ _ => some .access
  | .sub _ _ _ => some .access
  | .and _ _ _ => some .access
  | .or _ _ _ => some .access
  | .xor _ _ _ => some .access
  | .shl _ _ _ => some .access
  | .shr _ _ _ => some .access
  | .sha _ _ _ => some .access
  | .slt _ _ _ => some .access
  | .sltu _ _ _ => some .access
  | .min _ _ _ => some .access
  | .max _ _ _ => some .access
  | .minu _ _ _ => some .access
  | .maxu _ _ _ => some .access
  | .sel _ _ _ => some .access
  | .mul _ _ _ => some .access
  | .mulh _ _ _ => some .access
  | .mulhu _ _ _ => some .access
  | .div _ _ _ => some .access
  | .divu _ _ _ => some .access
  | .rem _ _ _ => some .access
  | .remu _ _ _ => some .access
  | .clz _ _ => some .access
  | .ctz _ _ => some .access
  | .popc _ _ => some .access
  | .addi _ _ _ => some .access
  | .andi _ _ _ => some .access
  | .ori _ _ _ => some .access
  | .xori _ _ _ => some .access
  | .shli _ _ _ => some .access
  | .shri _ _ _ => some .access
  | .shai _ _ _ => some .access
  | .slti _ _ _ => some .access
  | .bfx _ _ _ _ => some .access
  | .bfi _ _ _ _ => some .access
  | .lui _ _ => some .access
  | .auipc _ _ => some .access
  | .bEq _ _ _ => some .access
  | .bNe _ _ _ => some .access
  | .bLt _ _ _ => some .access
  | .bGe _ _ _ => some .access
  | .bLtu _ _ _ => some .access
  | .bGeu _ _ _ => some .access
  | .j _ => some .access
  | .jal _ _ => some .access
  | .jr _ _ => some .access
  | .jalr _ _ _ => some .access
  | .loop _ _ => some .access
  | .rdv => some .access
  | .exit => some .access
  | .nop => some .access
  | .chcfg _ _ => some .access
  | .chcnt _ _ => some .access
  | .sbw _ => some .access
  | .ldl _ _ _ _ => some .access
  | .stl _ _ _ _ => some .access
  | .spl _ _ _ _ => some .access
  | .fil _ _ _ _ => some .access
  | .ld _ _ _ _ _ => some .access
  | .ldNt _ _ _ _ _ => some .access
  | .st _ _ _ _ _ => some .access
  | .stNt _ _ _ _ _ => some .access
  | .ldq _ _ _ _ _ => some .access
  | .atomAdd _ _ _ _ => some .access
  | .atomSub _ _ _ _ => some .access
  | .atomAnd _ _ _ _ => some .access
  | .atomOr _ _ _ _ => some .access
  | .atomXor _ _ _ _ => some .access
  | .atomMin _ _ _ _ => some .access
  | .atomMax _ _ _ _ => some .access
  | .atomMinu _ _ _ _ => some .access
  | .atomMaxu _ _ _ _ => some .access
  | .atomXchg _ _ _ _ => some .access
  | .cas _ _ _ _ => some .access
  | .fenceAll _ => some .access
  | .fenceAcq _ => some .access
  | .fenceRelSt => some .access
  | .fenceRelCo => some .access
  | .fenceRelCl => some .access
  | .fenceRelDi => some .access
  | .fenceRelPk => some .access
  | .fenceRelSy => some .access
  | .cwb _ _ _ => some .access
  | .cinv _ _ _ => some .access
  | .ldAcq _ _ _ _ _ _ => some .access
  | .stRel _ _ _ _ _ _ => some .access
  | .ldAcqSy _ _ _ _ _ => some .access
  | .stRelSy _ _ _ _ _ => some .access
  | .tlkp _ _ => some .access
  | .tset _ _ _ => some .access
  | .tinv _ _ => some .access
  | .tstat _ _ => some .access
  | .tfull _ => some .access
  | .ttake _ _ _ => some .access
  | .twait _ => some .access
  | .tgrant _ _ _ => some .access
  | .sbind _ _ => some .access
  | .srel _ => some .access
  | .sqry _ _ _ => some .access
  | .sskip _ _ => some .access
  | .cpy _ _ _ _ _ _ => some .access
  | .cpyg _ _ _ _ _ _ => some .access
  | .cpys _ _ _ _ _ _ => some .access
  | .cpym _ _ _ _ _ _ => some .access
  | .tsend _ _ _ _ _ _ => some .access
  | .tget _ _ _ _ _ _ => some .access
  | .cwait _ _ _ => some .access
  | .binit _ _ => some .access
  | .bexp _ _ => some .access
  | .arv _ _ => some .access
  | .bwait _ _ => some .access
  | .btest _ _ => some .access
  | .book _ _ => some .access
  | .bqry _ _ _ => some .access
  | .bcan _ _ => some .access
  | .bdone _ _ _ => some .access
  | .ldcr _ _ _ _ => some .access
  | .stcr _ _ _ _ => some .access
  | .cmovc _ _ => some .access
  | .cbnd _ _ _ => some .access
  | .cprm _ _ _ => some .access
  | .cadd _ _ _ => some .access
  | .cget _ _ _ => some .access
  | .ctag _ _ => some .access
  | .cclr _ => some .access
  | .rld _ _ _ _ _ => some .access
  | .rst _ _ _ _ _ => some .access
  | .ratomAdd _ _ _ _ _ => some .access
  | .ratomSub _ _ _ _ => some .access
  | .ratomAnd _ _ _ _ => some .access
  | .ratomOr _ _ _ _ => some .access
  | .ratomXor _ _ _ _ => some .access
  | .ratomMin _ _ _ _ => some .access
  | .ratomMax _ _ _ _ => some .access
  | .ratomMinu _ _ _ _ => some .access
  | .ratomMaxu _ _ _ _ => some .access
  | .ratomXchg _ _ _ _ => some .access
  | .rcas _ _ _ _ => some .access
  | .rldq _ _ _ _ _ => some .access
  | .bndo _ _ => some .access
  | .bnds _ _ => some .access
  | .bndc _ _ => some .access
  | .bndr _ _ => some .access
  | .bndq _ _ _ => some .access
  | .ftime _ => some .access
  | .csrr _ _ => some .access
  | .csrw _ _ _ => some .access
  | .csrs _ _ _ => some .access
  | .csrc _ _ _ => some .access
  | .feat _ _ => some .access
  | .ecall => some .access
  | .ebreak => some .access
  | .uliret => some .access
  | .sret => some .access
  | .wfe _ => some .access
  | .trcm _ => some .access
  | .snap _ _ => some .access
  | .tlbi _ _ => some .access
  | .tpre _ _ _ => some .access
  | .ctxs _ _ _ => some .access
  | .ctxr _ _ _ => some .access
  | .halt _ => some .access
  | .vadd _ => some .loom
  | .vsub _ => some .loom
  | .vmul _ => some .loom
  | .vfma _ => some .loom
  | .vfms _ => some .loom
  | .vfnma _ => some .loom
  | .vdiv _ => some .loom
  | .vsqrt _ => some .loom
  | .vrcp _ => some .loom
  | .vrsq _ => some .loom
  | .vexp2 _ => some .loom
  | .vlog2 _ => some .loom
  | .vtanh _ => some .loom
  | .vsinp _ => some .loom
  | .vcosp _ => some .loom
  | .vmin _ => some .loom
  | .vmax _ => some .loom
  | .vabs _ => some .loom
  | .vneg _ => some .loom
  | .vcpys _ => some .loom
  | .vcls _ => some .loom
  | .vcmpEq _ => some .loom
  | .vcmpNe _ => some .loom
  | .vcmpLt _ => some .loom
  | .vcmpLe _ => some .loom
  | .vcmpGt _ => some .loom
  | .vcmpGe _ => some .loom
  | .vsel _ => some .loom
  | .vand _ => some .loom
  | .vor _ => some .loom
  | .vxor _ => some .loom
  | .vnot _ => some .loom
  | .vshl _ => some .loom
  | .vshr _ => some .loom
  | .vsha _ => some .loom
  | .viadd _ => some .loom
  | .visub _ => some .loom
  | .vimul _ => some .loom
  | .vcvt _ => some .loom
  | .vqnt _ => some .loom
  | .vdqt _ => some .loom
  | .vredSum _ => some .loom
  | .vredMin _ => some .loom
  | .vredMax _ => some .loom
  | .vscanSum _ => some .loom
  | .vscanMin _ => some .loom
  | .vscanMax _ => some .loom
  | .vtopk _ => some .loom
  | .vsort _ => some .loom
  | .vtrn _ => some .loom
  | .vperm _ => some .loom
  | .vbcst _ => some .loom
  | .vbcstRow _ => some .loom
  | .vbcstColumn _ => some .loom
  | .vshape _ => some .loom
  | .vshapeImmediate _ => some .loom
  | .vmov _ => some .loom
  | .vmovS _ => some .loom
  | .vmovI _ => some .loom
  | .vmovQ _ => some .loom
  | .vld _ => some .loom
  | .vst _ => some .loom
  | .vldff _ => some .loom
  | .vgth _ => some .loom
  | .vsct _ => some .loom
  | .vpred _ => some .loom
  | .vpredMin _ => some .loom
  | .vpredZero _ => some .loom
  | .vrand _ => some .loom
  | .vloop _ => some .loom
  | .vbrEq _ => some .loom
  | .vbrNe _ => some .loom
  | .vbrLt _ => some .loom
  | .vbrGe _ => some .loom
  | .vbrLtu _ => some .loom
  | .vbrGeu _ => some .loom
  | .vrdv => some .loom
  | .vexit => some .loom
  | .mstep _ => some .mill
  | .mclr _ => some .mill
  | .mswap _ => some .mill
  | .mlda _ => some .mill
  | .msta _ => some .mill
  | .mpro _ => some .mill
  | .mepi _ => some .mill
  | .minj => some .mill
  | .mrpgR _ => some .mill
  | .mrpgW _ => some .mill
  | .mrpgI _ => some .mill
  | .mrpgA _ => some .mill
  | .mloop _ => some .mill
  | .mbrEq _ => some .mill
  | .mbrNe _ => some .mill
  | .mbrLt _ => some .mill
  | .mbrGe _ => some .mill
  | .mbrLtu _ => some .mill
  | .mbrGeu _ => some .mill
  | .mj _ => some .mill
  | .mrdv => some .mill
  | .mexit => some .mill
  | _ => none

/-- The word of a well-formed instruction as a number; none for an event (02 R45 to R57). -/
def encodeNat : Instr → Option Nat
  | .add d a b => some (0x0 + rcCode d * 128 + srcCode a * 8192 + srcPeek a * 33554432 + srcCode b * 524288 + srcPeek b * 67108864)
  | .sub d a b => some (0x8000000 + rcCode d * 128 + srcCode a * 8192 + srcPeek a * 33554432 + srcCode b * 524288 + srcPeek b * 67108864)
  | .and d a b => some (0x10000000 + rcCode d * 128 + srcCode a * 8192 + srcPeek a * 33554432 + srcCode b * 524288 + srcPeek b * 67108864)
  | .or d a b => some (0x18000000 + rcCode d * 128 + srcCode a * 8192 + srcPeek a * 33554432 + srcCode b * 524288 + srcPeek b * 67108864)
  | .xor d a b => some (0x20000000 + rcCode d * 128 + srcCode a * 8192 + srcPeek a * 33554432 + srcCode b * 524288 + srcPeek b * 67108864)
  | .shl d a b => some (0x28000000 + rcCode d * 128 + srcCode a * 8192 + srcPeek a * 33554432 + srcCode b * 524288 + srcPeek b * 67108864)
  | .shr d a b => some (0x30000000 + rcCode d * 128 + srcCode a * 8192 + srcPeek a * 33554432 + srcCode b * 524288 + srcPeek b * 67108864)
  | .sha d a b => some (0x38000000 + rcCode d * 128 + srcCode a * 8192 + srcPeek a * 33554432 + srcCode b * 524288 + srcPeek b * 67108864)
  | .slt d a b => some (0x40000000 + rcCode d * 128 + srcCode a * 8192 + srcPeek a * 33554432 + srcCode b * 524288 + srcPeek b * 67108864)
  | .sltu d a b => some (0x48000000 + rcCode d * 128 + srcCode a * 8192 + srcPeek a * 33554432 + srcCode b * 524288 + srcPeek b * 67108864)
  | .min d a b => some (0x50000000 + rcCode d * 128 + srcCode a * 8192 + srcPeek a * 33554432 + srcCode b * 524288 + srcPeek b * 67108864)
  | .max d a b => some (0x58000000 + rcCode d * 128 + srcCode a * 8192 + srcPeek a * 33554432 + srcCode b * 524288 + srcPeek b * 67108864)
  | .minu d a b => some (0x60000000 + rcCode d * 128 + srcCode a * 8192 + srcPeek a * 33554432 + srcCode b * 524288 + srcPeek b * 67108864)
  | .maxu d a b => some (0x68000000 + rcCode d * 128 + srcCode a * 8192 + srcPeek a * 33554432 + srcCode b * 524288 + srcPeek b * 67108864)
  | .sel d a b => some (0x70000000 + d.val * 128 + srcCode a * 8192 + srcPeek a * 33554432 + srcCode b * 524288 + srcPeek b * 67108864)
  | .mul d a b => some (0x1 + rcCode d * 128 + srcCode a * 8192 + srcPeek a * 33554432 + srcCode b * 524288 + srcPeek b * 67108864)
  | .mulh d a b => some (0x8000001 + rcCode d * 128 + srcCode a * 8192 + srcPeek a * 33554432 + srcCode b * 524288 + srcPeek b * 67108864)
  | .mulhu d a b => some (0x10000001 + rcCode d * 128 + srcCode a * 8192 + srcPeek a * 33554432 + srcCode b * 524288 + srcPeek b * 67108864)
  | .div d a b => some (0x18000001 + rcCode d * 128 + srcCode a * 8192 + srcPeek a * 33554432 + srcCode b * 524288 + srcPeek b * 67108864)
  | .divu d a b => some (0x20000001 + rcCode d * 128 + srcCode a * 8192 + srcPeek a * 33554432 + srcCode b * 524288 + srcPeek b * 67108864)
  | .rem d a b => some (0x28000001 + rcCode d * 128 + srcCode a * 8192 + srcPeek a * 33554432 + srcCode b * 524288 + srcPeek b * 67108864)
  | .remu d a b => some (0x30000001 + rcCode d * 128 + srcCode a * 8192 + srcPeek a * 33554432 + srcCode b * 524288 + srcPeek b * 67108864)
  | .clz d a => some (0x2 + rcCode d * 128 + srcCode a * 8192 + srcPeek a * 33554432)
  | .ctz d a => some (0x8000002 + rcCode d * 128 + srcCode a * 8192 + srcPeek a * 33554432)
  | .popc d a => some (0x10000002 + rcCode d * 128 + srcCode a * 8192 + srcPeek a * 33554432)
  | .addi d a i => some (0x10 + rcCode d * 128 + rcCode a * 8192 + i.toNat * 524288)
  | .andi d a i => some (0x11 + rcCode d * 128 + rcCode a * 8192 + i.toNat * 524288)
  | .ori d a i => some (0x12 + rcCode d * 128 + rcCode a * 8192 + i.toNat * 524288)
  | .xori d a i => some (0x13 + rcCode d * 128 + rcCode a * 8192 + i.toNat * 524288)
  | .shli d a i => some (0x14 + rcCode d * 128 + rcCode a * 8192 + i.toNat * 524288)
  | .shri d a i => some (0x15 + rcCode d * 128 + rcCode a * 8192 + i.toNat * 524288)
  | .shai d a i => some (0x16 + rcCode d * 128 + rcCode a * 8192 + i.toNat * 524288)
  | .slti d a i => some (0x17 + rcCode d * 128 + rcCode a * 8192 + i.toNat * 524288)
  | .bfx d a p wd => some (0x18 + rcCode d * 128 + rcCode a * 8192 + p.toNat * 524288 + wd.toNat * 33554432)
  | .bfi d a p wd => some (0x19 + d.val * 128 + rcCode a * 8192 + p.toNat * 524288 + wd.toNat * 33554432)
  | .lui d i => some (0x1a + rcCode d * 128 + i.toNat * 8192)
  | .auipc d i => some (0x1b + rcCode d * 128 + i.toNat * 8192)
  | .bEq a b i => some (0x20 + rcCode a * 1024 + rcCode b * 65536 + i.toNat * 4194304)
  | .bNe a b i => some (0xa0 + rcCode a * 1024 + rcCode b * 65536 + i.toNat * 4194304)
  | .bLt a b i => some (0x120 + rcCode a * 1024 + rcCode b * 65536 + i.toNat * 4194304)
  | .bGe a b i => some (0x1a0 + rcCode a * 1024 + rcCode b * 65536 + i.toNat * 4194304)
  | .bLtu a b i => some (0x220 + rcCode a * 1024 + rcCode b * 65536 + i.toNat * 4194304)
  | .bGeu a b i => some (0x2a0 + rcCode a * 1024 + rcCode b * 65536 + i.toNat * 4194304)
  | .j i => some (0x21 + i.toNat * 8192)
  | .jal d i => some (0x22 + rcCode d * 128 + i.toNat * 8192)
  | .jr a i => some (0x23 + rcCode a * 8192 + i.toNat * 524288)
  | .jalr d a i => some (0x24 + rcCode d * 128 + rcCode a * 8192 + i.toNat * 524288)
  | .loop a i => some (0x25 + rcCode a * 1024 + i.toNat * 4194304)
  | .rdv => some (0x26)
  | .exit => some (0x27)
  | .nop => some (0x28)
  | .chcfg n b => some (0x40029 + n.val * 8192 + b.val * 524288)
  | .chcnt d n => some (0x8040029 + d.val * 128 + n.val * 8192)
  | .sbw m => some (0x10000029 + m.toNat * 128)
  | .ldl d b o s => some (0x30 + rcCode d * 128 + b.val * 8192 + o.toNat * 524288 + sizeCode s * 268435456)
  | .stl x b o s => some (0x31 + rcCode x * 128 + b.val * 8192 + o.toNat * 524288 + sizeCode s * 268435456)
  | .spl x b o s => some (0x32 + x.val * 128 + b.val * 8192 + o.toNat * 524288 + sizeCode s * 268435456)
  | .fil d b o s => some (0x33 + d.val * 128 + b.val * 8192 + o.toNat * 524288 + sizeCode s * 268435456)
  | .ld d b o k s => some (0x34 + d.val * 128 + b.val * 8192 + o.toNat * 524288 + k.val * 33554432 + sizeCode s * 268435456)
  | .ldNt d b o k s => some (0x40000034 + d.val * 128 + b.val * 8192 + o.toNat * 524288 + k.val * 33554432 + sizeCode s * 268435456)
  | .st x b o k s => some (0x35 + rcCode x * 128 + b.val * 8192 + o.toNat * 524288 + k.val * 33554432 + sizeCode s * 268435456)
  | .stNt x b o k s => some (0x40000035 + rcCode x * 128 + b.val * 8192 + o.toNat * 524288 + k.val * 33554432 + sizeCode s * 268435456)
  | .ldq n b o k s => some (0x1036 + n.val * 128 + b.val * 8192 + o.toNat * 524288 + k.val * 33554432 + sizeCode s * 268435456)
  | .atomAdd d a b z => some (0x37 + rcCode d * 128 + a.val * 8192 + srcCode b * 524288 + srcPeek b * 67108864 + z.toNat * 2147483648)
  | .atomSub d a b z => some (0x8000037 + rcCode d * 128 + a.val * 8192 + srcCode b * 524288 + srcPeek b * 67108864 + z.toNat * 2147483648)
  | .atomAnd d a b z => some (0x10000037 + rcCode d * 128 + a.val * 8192 + srcCode b * 524288 + srcPeek b * 67108864 + z.toNat * 2147483648)
  | .atomOr d a b z => some (0x18000037 + rcCode d * 128 + a.val * 8192 + srcCode b * 524288 + srcPeek b * 67108864 + z.toNat * 2147483648)
  | .atomXor d a b z => some (0x20000037 + rcCode d * 128 + a.val * 8192 + srcCode b * 524288 + srcPeek b * 67108864 + z.toNat * 2147483648)
  | .atomMin d a b z => some (0x28000037 + rcCode d * 128 + a.val * 8192 + srcCode b * 524288 + srcPeek b * 67108864 + z.toNat * 2147483648)
  | .atomMax d a b z => some (0x30000037 + rcCode d * 128 + a.val * 8192 + srcCode b * 524288 + srcPeek b * 67108864 + z.toNat * 2147483648)
  | .atomMinu d a b z => some (0x38000037 + rcCode d * 128 + a.val * 8192 + srcCode b * 524288 + srcPeek b * 67108864 + z.toNat * 2147483648)
  | .atomMaxu d a b z => some (0x40000037 + rcCode d * 128 + a.val * 8192 + srcCode b * 524288 + srcPeek b * 67108864 + z.toNat * 2147483648)
  | .atomXchg d a b z => some (0x48000037 + rcCode d * 128 + a.val * 8192 + srcCode b * 524288 + srcPeek b * 67108864 + z.toNat * 2147483648)
  | .cas d a b z => some (0x38 + d.val * 128 + a.val * 8192 + srcCode b * 524288 + srcPeek b * 67108864 + z.toNat * 2147483648)
  | .fenceAll s => some (0x39 + scopeCode s * 524288)
  | .fenceAcq s => some (0x400039 + scopeCode s * 524288)
  | .fenceRelSt => some (0x800039)
  | .fenceRelCo => some (0x880039)
  | .fenceRelCl => some (0x900039)
  | .fenceRelDi => some (0x980039)
  | .fenceRelPk => some (0xa00039)
  | .fenceRelSy => some (0xa80039)
  | .cwb a b s => some (0x3a + a.val * 8192 + srcCode b * 524288 + srcPeek b * 67108864 + scopeCode s * 134217728)
  | .cinv a b s => some (0x3b + a.val * 8192 + srcCode b * 524288 + srcPeek b * 67108864 + scopeCode s * 134217728)
  | .ldAcq d b o k s sc => some (0x3c + d.val * 128 + b.val * 8192 + o.toNat * 524288 + k.val * 33554432 + sizeCode s * 268435456 + (scopeCode sc - 1) * 1073741824)
  | .stRel x b o k s sc => some (0x3d + rcCode x * 128 + b.val * 8192 + o.toNat * 524288 + k.val * 33554432 + sizeCode s * 268435456 + (scopeCode sc - 1) * 1073741824)
  | .ldAcqSy d b o k s => some (0x3e + d.val * 128 + b.val * 8192 + o.toNat * 524288 + k.val * 33554432 + sizeCode s * 268435456)
  | .stRelSy x b o k s => some (0x8000003e + rcCode x * 128 + b.val * 8192 + o.toNat * 524288 + k.val * 33554432 + sizeCode s * 268435456)
  | .tlkp d a => some (0x40 + rcCode d * 128 + srcCode a * 8192 + srcPeek a * 33554432)
  | .tset d a b => some (0x8000040 + rcCode d * 128 + srcCode a * 8192 + srcPeek a * 33554432 + srcCode b * 524288 + srcPeek b * 67108864)
  | .tinv d a => some (0x10000040 + rcCode d * 128 + srcCode a * 8192 + srcPeek a * 33554432)
  | .tstat d a => some (0x18000040 + rcCode d * 128 + srcCode a * 8192 + srcPeek a * 33554432)
  | .tfull a => some (0x20000040 + srcCode a * 8192 + srcPeek a * 33554432)
  | .ttake d a b => some (0x28000040 + rcCode d * 128 + srcCode a * 8192 + srcPeek a * 33554432 + srcCode b * 524288 + srcPeek b * 67108864)
  | .twait a => some (0x30000040 + srcCode a * 8192 + srcPeek a * 33554432)
  | .tgrant d a b => some (0x38000040 + rcCode d * 128 + srcCode a * 8192 + srcPeek a * 33554432 + srcCode b * 524288 + srcPeek b * 67108864)
  | .sbind n a => some (0x41 + n.val * 128 + srcCode a * 8192 + srcPeek a * 33554432)
  | .srel n => some (0x8000041 + n.val * 128)
  | .sqry d n b => some (0x10000041 + rcCode d * 128 + n.val * 8192 + srcCode b * 524288 + srcPeek b * 67108864)
  | .sskip n a => some (0x18000041 + n.val * 128 + srcCode a * 8192 + srcPeek a * 33554432)
  | .cpy x a l u c e => some (0x42 + x.val * 128 + a.val * 8192 + l.val * 524288 + u.val * 134217728 + c.toNat * 1073741824 + e.toNat * 2147483648)
  | .cpyg x n l u c e => some (0x40043 + x.val * 128 + n.val * 8192 + l.val * 524288 + u.val * 134217728 + c.toNat * 1073741824 + e.toNat * 2147483648)
  | .cpys x n l u c e => some (0x40044 + x.val * 128 + n.val * 8192 + l.val * 524288 + u.val * 134217728 + c.toNat * 1073741824 + e.toNat * 2147483648)
  | .cpym x a l u c e => some (0x45 + x.val * 128 + a.val * 8192 + l.val * 524288 + u.val * 134217728 + c.toNat * 1073741824 + e.toNat * 2147483648)
  | .tsend x cr l u c e => some (0x46 + x.val * 128 + cr.val * 8192 + l.val * 524288 + u.val * 134217728 + c.toNat * 1073741824 + e.toNat * 2147483648)
  | .tget x cr l u c e => some (0x47 + x.val * 128 + cr.val * 8192 + l.val * 524288 + u.val * 134217728 + c.toNat * 1073741824 + e.toNat * 2147483648)
  | .cwait d a m => some (0x48 + rcCode d * 128 + rcCode a * 8192 + m.toNat * 524288)
  | .binit a b => some (0x50 + rcCode a * 8192 + rcCode b * 524288)
  | .bexp a b => some (0x51 + rcCode a * 8192 + rcCode b * 524288)
  | .arv a b => some (0x52 + rcCode a * 8192 + rcCode b * 524288)
  | .bwait d a => some (0x53 + rcCode d * 128 + rcCode a * 8192)
  | .btest d a => some (0x54 + rcCode d * 128 + rcCode a * 8192)
  | .book d a => some (0x58 + d.val * 128 + a.val * 8192)
  | .bqry d a b => some (0x59 + d.val * 128 + a.val * 8192 + rcCode b * 524288)
  | .bcan d a => some (0x5a + d.val * 128 + a.val * 8192)
  | .bdone d a b => some (0x5b + d.val * 128 + a.val * 8192 + rcCode b * 524288)
  | .ldcr c b o k => some (0x60 + c.val * 128 + b.val * 8192 + o.toNat * 524288 + k.val * 33554432)
  | .stcr c b o k => some (0x61 + c.val * 128 + b.val * 8192 + o.toNat * 524288 + k.val * 33554432)
  | .cmovc d a => some (0x62 + d.val * 128 + a.val * 8192)
  | .cbnd d a b => some (0x8000062 + d.val * 128 + a.val * 8192 + srcCode b * 524288 + srcPeek b * 67108864)
  | .cprm d a b => some (0x10000062 + d.val * 128 + a.val * 8192 + srcCode b * 524288 + srcPeek b * 67108864)
  | .cadd d a b => some (0x18000062 + d.val * 128 + a.val * 8192 + srcCode b * 524288 + srcPeek b * 67108864)
  | .cget d a b => some (0x20000062 + rcCode d * 128 + a.val * 8192 + srcCode b * 524288 + srcPeek b * 67108864)
  | .ctag d a => some (0x28000062 + rcCode d * 128 + a.val * 8192)
  | .cclr d => some (0x30000062 + d.val * 128)
  | .rld d c o k s => some (0x68 + d.val * 128 + c.val * 8192 + o.toNat * 524288 + k.val * 33554432 + sizeCode s * 268435456)
  | .rst x c o k s => some (0x69 + rcCode x * 128 + c.val * 8192 + o.toNat * 524288 + k.val * 33554432 + sizeCode s * 268435456)
  | .ratomAdd d c b cmb z => some (0x6a + rcCode d * 128 + c.val * 8192 + srcCode b * 524288 + srcPeek b * 67108864 + cmb.toNat * 33554432 + z.toNat * 2147483648)
  | .ratomSub d c b z => some (0x800006a + rcCode d * 128 + c.val * 8192 + srcCode b * 524288 + srcPeek b * 67108864 + z.toNat * 2147483648)
  | .ratomAnd d c b z => some (0x1000006a + rcCode d * 128 + c.val * 8192 + srcCode b * 524288 + srcPeek b * 67108864 + z.toNat * 2147483648)
  | .ratomOr d c b z => some (0x1800006a + rcCode d * 128 + c.val * 8192 + srcCode b * 524288 + srcPeek b * 67108864 + z.toNat * 2147483648)
  | .ratomXor d c b z => some (0x2000006a + rcCode d * 128 + c.val * 8192 + srcCode b * 524288 + srcPeek b * 67108864 + z.toNat * 2147483648)
  | .ratomMin d c b z => some (0x2800006a + rcCode d * 128 + c.val * 8192 + srcCode b * 524288 + srcPeek b * 67108864 + z.toNat * 2147483648)
  | .ratomMax d c b z => some (0x3000006a + rcCode d * 128 + c.val * 8192 + srcCode b * 524288 + srcPeek b * 67108864 + z.toNat * 2147483648)
  | .ratomMinu d c b z => some (0x3800006a + rcCode d * 128 + c.val * 8192 + srcCode b * 524288 + srcPeek b * 67108864 + z.toNat * 2147483648)
  | .ratomMaxu d c b z => some (0x4000006a + rcCode d * 128 + c.val * 8192 + srcCode b * 524288 + srcPeek b * 67108864 + z.toNat * 2147483648)
  | .ratomXchg d c b z => some (0x4800006a + rcCode d * 128 + c.val * 8192 + srcCode b * 524288 + srcPeek b * 67108864 + z.toNat * 2147483648)
  | .rcas d c b z => some (0x6b + d.val * 128 + c.val * 8192 + srcCode b * 524288 + srcPeek b * 67108864 + z.toNat * 2147483648)
  | .rldq n c o k s => some (0x106c + n.val * 128 + c.val * 8192 + o.toNat * 524288 + k.val * 33554432 + sizeCode s * 268435456)
  | .bndo n a => some (0x6d + n.val * 128 + a.val * 8192)
  | .bnds n c => some (0x800006d + n.val * 128 + c.val * 8192)
  | .bndc d n => some (0x1000006d + d.val * 128 + n.val * 8192)
  | .bndr d n => some (0x1800006d + d.val * 128 + n.val * 8192)
  | .bndq d n b => some (0x2000006d + rcCode d * 128 + n.val * 8192 + srcCode b * 524288 + srcPeek b * 67108864)
  | .ftime d => some (0x6e + rcCode d * 128)
  | .csrr d c => some (0x70 + rcCode d * 128 + c.toNat * 524288)
  | .csrw d a c => some (0x71 + rcCode d * 128 + rcCode a * 8192 + c.toNat * 524288)
  | .csrs d a c => some (0x72 + rcCode d * 128 + rcCode a * 8192 + c.toNat * 524288)
  | .csrc d a c => some (0x73 + rcCode d * 128 + rcCode a * 8192 + c.toNat * 524288)
  | .feat d a => some (0x74 + rcCode d * 128 + rcCode a * 8192)
  | .ecall => some (0x8000074)
  | .ebreak => some (0x10000074)
  | .uliret => some (0x18000074)
  | .sret => some (0x20000074)
  | .wfe d => some (0x28000074 + rcCode d * 128)
  | .trcm a => some (0x30000074 + srcCode a * 8192 + srcPeek a * 33554432)
  | .snap d a => some (0x38000074 + rcCode d * 128 + srcCode a * 8192 + srcPeek a * 33554432)
  | .tlbi a b => some (0x40000074 + rcCode a * 8192 + rcCode b * 524288)
  | .tpre d a b => some (0x48000074 + rcCode d * 128 + rcCode a * 8192 + rcCode b * 524288)
  | .ctxs d a b => some (0x50000074 + rcCode d * 128 + rcCode a * 8192 + rcCode b * 524288)
  | .ctxr d a b => some (0x58000074 + rcCode d * 128 + rcCode a * 8192 + rcCode b * 524288)
  | .halt a => some (0x60000074 + rcCode a * 8192)
  | .vadd f => some (lformCode 0x001 f)
  | .vsub f => some (lformCode 0x002 f)
  | .vmul f => some (lformCode 0x003 f)
  | .vfma f => some (lformCode 0x004 f)
  | .vfms f => some (lformCode 0x005 f)
  | .vfnma f => some (lformCode 0x006 f)
  | .vdiv f => some (lformCode 0x007 f)
  | .vsqrt f => some (lformCode 0x008 f)
  | .vrcp f => some (lformCode 0x009 f)
  | .vrsq f => some (lformCode 0x00A f)
  | .vexp2 f => some (lformCode 0x00B f)
  | .vlog2 f => some (lformCode 0x00C f)
  | .vtanh f => some (lformCode 0x00D f)
  | .vsinp f => some (lformCode 0x00E f)
  | .vcosp f => some (lformCode 0x00F f)
  | .vmin f => some (lformCode 0x010 f)
  | .vmax f => some (lformCode 0x011 f)
  | .vabs f => some (lformCode 0x012 f)
  | .vneg f => some (lformCode 0x013 f)
  | .vcpys f => some (lformCode 0x014 f)
  | .vcls f => some (lformCode 0x015 f)
  | .vcmpEq f => some (lformCode 0x040 f)
  | .vcmpNe f => some (lformCode 0x040 f)
  | .vcmpLt f => some (lformCode 0x040 f)
  | .vcmpLe f => some (lformCode 0x040 f)
  | .vcmpGt f => some (lformCode 0x040 f)
  | .vcmpGe f => some (lformCode 0x040 f)
  | .vsel f => some (lformCode 0x041 f)
  | .vand f => some (lformCode 0x042 f)
  | .vor f => some (lformCode 0x043 f)
  | .vxor f => some (lformCode 0x044 f)
  | .vnot f => some (lformCode 0x045 f)
  | .vshl f => some (lformCode 0x046 f)
  | .vshr f => some (lformCode 0x047 f)
  | .vsha f => some (lformCode 0x048 f)
  | .viadd f => some (lformCode 0x080 f)
  | .visub f => some (lformCode 0x081 f)
  | .vimul f => some (lformCode 0x082 f)
  | .vcvt f => some (lformCode 0x0C0 f)
  | .vqnt f => some (lformCode 0x0C1 f)
  | .vdqt f => some (lformCode 0x0C2 f)
  | .vredSum f => some (lformCode 0x100 f)
  | .vredMin f => some (lformCode 0x100 f)
  | .vredMax f => some (lformCode 0x100 f)
  | .vscanSum f => some (lformCode 0x101 f)
  | .vscanMin f => some (lformCode 0x101 f)
  | .vscanMax f => some (lformCode 0x101 f)
  | .vtopk f => some (lformCode 0x102 f)
  | .vsort f => some (lformCode 0x103 f)
  | .vtrn f => some (lformCode 0x140 f)
  | .vperm f => some (lformCode 0x141 f)
  | .vbcst f => some (lformCode 0x142 f)
  | .vbcstRow f => some (lformCode 0x142 f)
  | .vbcstColumn f => some (lformCode 0x142 f)
  | .vshape f => some (lformCode 0x143 f)
  | .vshapeImmediate f => some (lformCode 0x143 f)
  | .vmov f => some (lformCode 0x144 f)
  | .vmovS f => some (lformCode 0x144 f)
  | .vmovI f => some (lformCode 0x144 f)
  | .vmovQ f => some (lformCode 0x144 f)
  | .vld f => some (lformCode 0x180 f)
  | .vst f => some (lformCode 0x181 f)
  | .vldff f => some (lformCode 0x182 f)
  | .vgth f => some (lformCode 0x183 f)
  | .vsct f => some (lformCode 0x184 f)
  | .vpred f => some (lformCode 0x1C0 f)
  | .vpredMin f => some (lformCode 0x1C0 f)
  | .vpredZero f => some (lformCode 0x1C0 f)
  | .vrand f => some (lformCode 0x1C1 f)
  | .vloop f => some (lformCode 0x200 f)
  | .vbrEq f => some (lformCode 0x201 f)
  | .vbrNe f => some (lformCode 0x201 f)
  | .vbrLt f => some (lformCode 0x201 f)
  | .vbrGe f => some (lformCode 0x201 f)
  | .vbrLtu f => some (lformCode 0x201 f)
  | .vbrGeu f => some (lformCode 0x201 f)
  | .vrdv => some 0x202
  | .vexit => some 0x203
  | .mstep f => some (mformCode 0x01 f)
  | .mclr f => some (mformCode 0x02 f)
  | .mlda f => some (mformCode 0x03 f)
  | .msta f => some (mformCode 0x04 f)
  | .mswap f => some (mformCode 0x05 f)
  | .mpro f => some (mformCode 0x06 f)
  | .mepi f => some (mformCode 0x07 f)
  | .minj => some 0x08
  | .mrpgR f => some (mformCode 0x09 f)
  | .mrpgW f => some (mformCode 0x09 f)
  | .mrpgI f => some (mformCode 0x09 f)
  | .mrpgA f => some (mformCode 0x09 f)
  | .mloop f => some (mformCode 0x10 f)
  | .mbrEq f => some (mformCode 0x11 f)
  | .mbrNe f => some (mformCode 0x11 f)
  | .mbrLt f => some (mformCode 0x11 f)
  | .mbrGe f => some (mformCode 0x11 f)
  | .mbrLtu f => some (mformCode 0x11 f)
  | .mbrGeu f => some (mformCode 0x11 f)
  | .mj f => some (mformCode 0x12 f)
  | .mrdv => some 0x13
  | .mexit => some 0x14
  | _ => none

/-- The word of a well-formed instruction as its bytes in memory; empty for an event, which has no word (02 R43). -/
def encode (i : Instr) : List Byte :=
  match engOf i, encodeNat i with
  | some e, some w => leBytes (wordBytes e) w
  | _, _ => []

/-- The instruction read from a word of `nbits` bits, given to the decoder as its bytes in memory order.  A row of 32 bits is an
access-core word, of 96 a Loom word, of 192 a Mill word. -/
def decodeTableWord (nbits w : Nat) : Option Instr :=
  let e : Eng := if nbits ≤ 32 then .access else if nbits ≤ 96 then .loom else .mill
  match decode e (leBytes (wordBytes e) w) with
  | .ok (i, _) => some i
  | .error _ => none

end Sys2Proof
end

