-- ==== Sys2Proof/Machine/Sparse.lean ====
section
/-!
DEFINITION. Sparse maps: association lists keyed by numbers, keys strictly rising, no entry at the default.  Memory is the map from
addresses to bytes whose default is 0.  And sorting a list.
-/
namespace Sys2Proof.Machine
open Sys2Proof

/-- The value at a key, the default where the key is not listed. -/
def spGet {α : Type} (d : α) : List (Nat × α) → Nat → α
  | [], _ => d
  | (k', v) :: t, k => if k' = k then v else spGet d t k

/-- Remove a key. -/
def spDel {α : Type} : List (Nat × α) → Nat → List (Nat × α)
  | [], _ => []
  | (k', v) :: t, k => if k' = k then spDel t k else (k', v) :: spDel t k

/-- Insert a key that is not listed, in order. -/
def spIns {α : Type} : List (Nat × α) → Nat → α → List (Nat × α)
  | [], k, v => [(k, v)]
  | (k', v') :: t, k, v => if k < k' then (k, v) :: (k', v') :: t else (k', v') :: spIns t k v

/-- Give a key a value; the default removes the entry. -/
def spSet {α : Type} [DecidableEq α] (d : α) (l : List (Nat × α)) (k : Nat) (v : α) : List (Nat × α) :=
  if v = d then spDel l k else spIns (spDel l k) k v

/-- Change every listed value; one that becomes the default leaves the list. -/
def spMap {α : Type} [DecidableEq α] (d : α) (l : List (Nat × α)) (f : α → α) : List (Nat × α) :=
  l.filterMap fun (k, v) => if f v = d then none else some (k, f v)

/-- Give several keys values, the later winning. -/
def spSetMany {α : Type} [DecidableEq α] (d : α) (l : List (Nat × α)) : List (Nat × α) → List (Nat × α)
  | [] => l
  | (k, v) :: t => spSetMany d (spSet d l k v) t

/-- The map whose value at each k below n is `f k`. -/
def spOfFn {α : Type} [DecidableEq α] (d : α) (n : Nat) (f : Nat → α) : List (Nat × α) :=
  (List.range n).filterMap fun k => if f k = d then none else some (k, f k)

/-- Keys strictly rising from above `lo`, no entry at the default. -/
def spWfFrom {α : Type} [DecidableEq α] (d : α) : Option Nat → List (Nat × α) → Bool
  | _, [] => true
  | lo, (k, v) :: t =>
    (match lo with | some b => decide (b < k) | none => true) && decide (v ≠ d) && spWfFrom d (some k) t

/-- The canonical form. -/
def spWf {α : Type} [DecidableEq α] (d : α) (l : List (Nat × α)) : Bool := spWfFrom d none l

/-! ### Sorting -/

/-- Put an element before the first that it does not follow. -/
def insertBy {α : Type} (le : α → α → Bool) (x : α) : List α → List α
  | [] => [x]
  | y :: t => if le x y then x :: y :: t else y :: insertBy le x t

/-- A list in the order `le`, equals in the order they had. -/
def sortBy {α : Type} (le : α → α → Bool) (l : List α) : List α := l.foldr (insertBy le) []

/-! ### Memory -/

/-- What an unlisted address reads as (notes/assumptions/3.md). -/
def memDefault : Byte := 0

/-- The byte at an address. -/
def memGet (m : List Host.Cell) (a : Nat) : Byte := spGet memDefault m a

/-- Write one byte. -/
def memSet (m : List Host.Cell) (a : Nat) (b : Byte) : List Host.Cell := spSet memDefault m a b

/-- Write a list of bytes from an address up. -/
def memWrite (m : List Host.Cell) (a : Nat) : List Byte → List Host.Cell
  | [] => m
  | b :: t => memWrite (memSet m a b) (a + 1) t

/-- The `n` bytes from an address up. -/
def memRead (m : List Host.Cell) (a : Nat) : Nat → List Byte
  | 0 => []
  | n + 1 => memGet m a :: memRead m (a + 1) n

/-- The canonical form of a memory. -/
def Memory.wf (m : List Host.Cell) : Bool := spWf memDefault m

end Sys2Proof.Machine
end

