-- ==== Sys2Proof/Machine/Ops.lean ====
section
/-!
DEFINITION. The named operations every meaning is written over: reaching a die, a core, a context; registers; trace and error records;
waits; channels; the outcome of an instruction; taking a trap, returning from one, retiring an instruction.
-/
namespace Sys2Proof.Machine
open Sys2Proof

/-! ### Reaching the parts of the state -/

def getDie (s : State) (d : Nat) : Die := spGet {} s.dies d

def setDie (s : State) (d : Nat) (x : Die) : State := { s with dies := spSet {} s.dies d x }

def modDie (s : State) (d : Nat) (f : Die → Die) : State := setDie s d (f (getDie s d))

/-! Coordinates of a die in its id (16 R378). -/

def dieX (d : Nat) : Nat := d % 32

def dieY (d : Nat) : Nat := d / 32 % 32

def dieZ (d : Nat) : Nat := d / 1024 % 32

/-- The package of a die, as px + 16 py + 256 pz. -/
def pkgOf (d : Nat) : Nat := dieX d / 2 + 16 * (dieY d / 2) + 256 * (dieZ d / 2)

def getPkg (s : State) (p : Nat) : Pkg := spGet {} s.pkgs p

def setPkg (s : State) (p : Nat) (x : Pkg) : State := { s with pkgs := spSet {} s.pkgs p x }

def modPkg (s : State) (p : Nat) (f : Pkg → Pkg) : State := setPkg s p (f (getPkg s p))

def dieCore (x : Die) (c : Nat) : Core := spGet {} x.cores c

def dieSetCore (x : Die) (c : Nat) (y : Core) : Die := { x with cores := spSet {} x.cores c y }

def getCore (s : State) (w : Who) : Core := dieCore (getDie s w.die) w.core

def setCore (s : State) (w : Who) (y : Core) : State := modDie s w.die fun x => dieSetCore x w.core y

def modCore (s : State) (w : Who) (f : Core → Core) : State := setCore s w (f (getCore s w))

/-- The context `i` of a core: 0 is k0, every other number k1. -/
def coreCtx (y : Core) (i : Nat) : Ctx := if i = 0 then y.k0 else y.k1

def coreSetCtx (y : Core) (i : Nat) (c : Ctx) : Core := if i = 0 then { y with k0 := c } else { y with k1 := c }

def getCtx (s : State) (w : Who) : Ctx := coreCtx (getCore s w) w.ctx

def setCtx (s : State) (w : Who) (c : Ctx) : State := modCore s w fun y => coreSetCtx y w.ctx c

def modCtx (s : State) (w : Who) (f : Ctx → Ctx) : State := setCtx s w (f (getCtx s w))

/-- The context whose stream moves. -/
def me (s : State) : Who := s.cur.w

/-- The other context of the core. -/
def otherCtx (w : Who) : Who := { w with ctx := if w.ctx = 0 then 1 else 0 }

/-- The die's cycle count. -/
def cycNow (s : State) (d : Nat) : Nat := (getDie s d).time.cyc

/-- The die's fabric time in ns (17 R425). -/
def ftimeNow (s : State) (d : Nat) : Nat := (getDie s d).time.ftime

/-- The present calendar slot (02 R68). -/
def slotNow (s : State) (d : Nat) : Nat := ftimeNow s d / 320

/-- Bit `k` of a word. -/
def bit (v : Word) (k : Nat) : Bool := v.getLsbD k

/-- Bits `lo` to `lo + n - 1` of a word, as a number. -/
def bits (v : Word) (lo n : Nat) : Nat := v.toNat / 2 ^ lo % 2 ^ n

/-- A number as a word. -/
def w64 (n : Nat) : Word := BitVec.ofNat 64 n

/-- `v` with bit `k` set or cleared. -/
def setBit (v : Word) (k : Nat) (b : Bool) : Word := if b then v ||| w64 (2 ^ k) else v &&& ~~~ (w64 (2 ^ k))

/-- The 8 little-endian bytes of a word. -/
def wordBytes8 (v : Word) : List Byte := leBytes 8 v.toNat

/-- Canonical: bits [63:55] all equal bit 54 (04 R94). -/
def canonical (a : Word) : Bool := (a.extractLsb' 0 55).signExtend 64 == a

/-! ### Registers -/

/-- The register a g field denotes: number and whether it is a shadow gs register (01 R34, 02 R46). -/
def gKey (c : Ctx) (r : GReg) : Nat × Bool :=
  if 24 ≤ r.val ∧ c.acc.uli = true ∧ c.acc.sys = false then (r.val - 24, true) else (r.val, false)

/-- Read a g register; g0 reads zero (01 R10). -/
def readG (c : Ctx) (r : GReg) : Word :=
  if r.val = 0 then 0
  else
    match gKey c r with
    | (k, true) => spGet 0 c.acc.gs k
    | (k, false) => spGet 0 c.acc.g k

/-- A place of register storage is written whole: it is in error no longer (05 R154). -/
def mend (c : Ctx) (l : Loc) : List Loc := c.errs.filter fun x => x != l

/-- Write a g register by number; g0 discards (02 R46). -/
def writeGKey (c : Ctx) (k : Nat) (shadow : Bool) (v : Word) : Ctx :=
  if shadow then { c with acc := { c.acc with gs := spSet 0 c.acc.gs k v }, errs := mend c (.gs k) }
  else if k = 0 then c
  else { c with acc := { c.acc with g := spSet 0 c.acc.g k v }, errs := mend c (.g k) }

/-- Write the register a g field denotes. -/
def writeG (c : Ctx) (r : GReg) (v : Word) : Ctx := writeGKey c (gKey c r).1 (gKey c r).2 v

def readCap (c : Ctx) (r : CapReg) : Cap := spGet {} c.acc.c r.val

/-- Write a capability register by number. -/
def putC (c : Ctx) (k : Nat) (v : Cap) : Ctx := { c with acc := { c.acc with c := spSet {} c.acc.c k v }, errs := mend c (.cap k) }

def writeCap (c : Ctx) (r : CapReg) (v : Cap) : Ctx := putC c r.val v

/-- The status word fields of a stream. -/
def getStat (c : Ctx) : Eng → Stat
  | .access => c.acc.stat
  | .loom => c.loom.stat
  | .mill => c.mill.stat

def setStat (c : Ctx) (e : Eng) (t : Stat) : Ctx :=
  match e with
  | .access => { c with acc := { c.acc with stat := t } }
  | .loom => { c with loom := { c.loom with stat := t } }
  | .mill => { c with mill := { c.mill with stat := t } }

def getPc (c : Ctx) : Eng → Word
  | .access => c.acc.pc
  | .loom => c.loom.pc
  | .mill => c.mill.pc

def setPc (c : Ctx) (e : Eng) (p : Word) : Ctx :=
  match e with
  | .access => { c with acc := { c.acc with pc := p } }
  | .loom => { c with loom := { c.loom with pc := p } }
  | .mill => { c with mill := { c.mill with pc := p } }

def getLoops (c : Ctx) : Eng → List LoopLevel
  | .access => c.acc.loops
  | .loom => c.loom.loops
  | .mill => c.mill.loops

def setLoops (c : Ctx) (e : Eng) (l : List LoopLevel) : Ctx :=
  match e with
  | .access => { c with acc := { c.acc with loops := l } }
  | .loom => { c with loom := { c.loom with loops := l } }
  | .mill => { c with mill := { c.mill with loops := l } }

/-- The engine's code in `seng` (01 R32). -/
def engCode : Eng → Nat
  | .access => 0
  | .loom => 1
  | .mill => 2

/-! ### Trace rings, counters, machine checks (13 R317, R333 to R338; 14 R366) -/

/-- Record size of ring `k`. -/
def ringRec (k : Nat) : Nat := if k = 2 then 64 else 32

def ringBase (d : Die) (k : Nat) : Nat := bits (spGet 0x10 d.trace.rgbase k) 16 36 * 2 ^ 16

def ringSize (d : Die) (k : Nat) : Nat := 2 ^ bits (spGet 0x10 d.trace.rgbase k) 0 6

/-- A ring is full when (rgwrp + record size) mod size equals rgrdp (14 R366). -/
def ringFull (d : Die) (k : Nat) : Bool :=
  ((spGet 0 d.trace.rgwrp k).toNat + ringRec k) % ringSize d k == (spGet 0 d.trace.rgrdp k).toNat

/-- One event of code `code` at a core and context, or die-wide (13 R338). -/
def countDie (d : Die) (at? : Option (Nat × Nat)) (code n : Nat) : Die :=
  d.trace.evsel.foldl (fun d (i, sel) =>
    let here := match at? with
      | none => true
      | some (core, ctx) => bit sel (8 + core) && (bits sel 40 2 == 0 || bits sel 40 2 == ctx + 1)
    if bit sel 43 && bits sel 0 8 == code && bits sel 40 2 != 3 && here then
      let v := (spGet 0 d.trace.evcnt i).toNat + n
      let sel' := if v ≥ 2 ^ 48 then setBit sel 42 true else sel
      { d with trace := { d.trace with evcnt := spSet 0 d.trace.evcnt i (w64 (v % 2 ^ 48)), evsel := spSet 0 d.trace.evsel i sel' } }
    else d) d

/-- Count an event of a context. -/
def countEv (s : State) (w : Who) (code n : Nat) : State := modDie s w.die fun d => countDie d (some (w.core, w.ctx)) code n

/-- Blocks of `z` bytes that `n` bytes from `pa` touch. -/
def spanBlocks (z pa n : Nat) : List Nat := if n = 0 then [] else (List.range ((pa + n - 1) / z - pa / z + 1)).map (pa / z + ·)

/-- Sectors that `n` bytes from `pa` touch. -/
def physSectors (pa n : Nat) : List Nat := spanBlocks 32 pa n

/-- The sectors that `n` bytes from `pa` cover whole. -/
def wholeSectors (pa n : Nat) : List Nat := (physSectors pa n).filter fun k => pa ≤ 32 * k && 32 * k + 32 ≤ pa + n

/-- One byte of the end-to-end check, its most significant bit first (13 R329). -/
def t10Byte (c : BitVec 16) (b : Byte) : BitVec 16 :=
  (List.range 8).foldl (fun c _ => if c.msb then c <<< 1 ^^^ 0x8BB7#16 else c <<< 1) (c ^^^ b.setWidth 16 <<< 8)

/-- The end-to-end check of a sector's bytes: the T10-DIF CRC-16 (13 R329). -/
def t10Dif (bs : List Byte) : BitVec 16 := bs.foldl t10Byte 0

/-- The mark of a sector as its bytes show it.  A mark of 16 or more is a check on record, plus 16: it is good where it is the check of the
bytes, else it is mark 2 (13 R332).  Without one the check on record is the one made of the bytes (13 R330, R331). -/
def sectorMark (raw : Nat) (bs : List Byte) : Nat :=
  if raw < 16 then raw else if raw - 16 = (t10Dif bs).toNat then 0 else 2

/-- What a write of `n` bytes at `pa` leaves of the sectors' marks: a sector written whole loses its mark (13 R326), one written in part has
its check made anew over the merged bytes (13 R331). -/
def markWrite (e : List (Nat × Nat)) (pa n : Nat) : List (Nat × Nat) :=
  (physSectors pa n).foldl (fun e k =>
    if (pa ≤ 32 * k && 32 * k + 32 ≤ pa + n) || 16 ≤ spGet 0 e k then spDel e k else e) e

/-- The mark of sector `k` of HBM as a read finds it: 1 uncorrectable, 2 failed check, 3 poison; one bad symbol, mark 4, is delivered
corrected (13 R325). -/
def hbmMark (m : MemSt) (k : Nat) : Nat :=
  let r := sectorMark (spGet 0 m.herr k) (memRead m.hbm (32 * k) 32)
  if r = 4 then 0 else r

/-- Write HBM: tags of the granules touched are cleared (11 R261). -/
def hbmWrite (m : MemSt) (pa : Nat) (bs : List Byte) : MemSt :=
  { m with
    hbm := memWrite m.hbm pa bs
    htags := (spanBlocks 16 pa bs.length).foldl spDel m.htags
    herr := markWrite m.herr pa bs.length }

/-- Append a record to a ring of a die; a full ring drops and counts it (13 R333). -/
def ringAppend (d : Die) (k : Nat) (r : List Byte) : Die :=
  if k < 4 && !(bit d.trace.trcctl k) then d
  else if ringFull d k then
    let n := (spGet 0 d.trace.rgdrop k).toNat
    let d := { d with trace := { d.trace with rgdrop := spSet 0 d.trace.rgdrop k (w64 (min (n + 1) (2 ^ 32 - 1))) } }
    countDie d none 0x0F 1
  else
    let wp := (spGet 0 d.trace.rgwrp k).toNat
    { d with
      mem := hbmWrite d.mem (ringBase d k + wp) r
      trace := { d.trace with rgwrp := spSet 0 d.trace.rgwrp k (w64 ((wp + ringRec k) % ringSize d k)) } }

/-- WHO of a trace record: die, cluster, core (05 R152). -/
def whoBits (w : Who) : Nat := w.die % 2 ^ 15 + w.core / 8 % 4 * 2 ^ 15 + w.core % 8 * 2 ^ 17

/-- A message to the Moot. -/
def tellMoot (s : State) (m : MootMsg) : State := modDie s m.w.die fun d => { d with moot := d.moot ++ [m] }

/-- The package raises an MSI-X vector (16 R380). -/
def raiseVec (s : State) (p v : Nat) : State := modPkg s p fun x => { x with msix := x.msix ++ [v] }

/-- A machine check (13 R317): a record in the error log ring, the Moot is interrupted, and vector 0 is raised (16 R380). -/
def machineCheck (s : State) (w : Who) (kind src : Nat) (known : Bool) (addr info : Nat) : State :=
  let r := leBytes 8 (ftimeNow s w.die) ++ leBytes 8 addr ++ leBytes 4 (if known then whoBits w else 2 ^ 32 - 1) ++
    leBytes 1 kind ++ leBytes 1 src ++ leBytes 2 0 ++ leBytes 8 info
  let s := raiseVec (modDie s w.die fun d => ringAppend d 4 r) (pkgOf w.die) 0
  tellMoot s { kind := 4, w := w, cause := kind, val := w64 info, eng := src }

/-! ### The Almanac's records (13 R342, R343) -/

/-- The agent's number: core, context and engine code. -/
def agentKey (w : Who) (eng : Nat) : Nat := (w.core * 2 + w.ctx) * 16 + eng

/-- An agent retires an instruction or completes a command (CHUNK of 13 R343). -/
def almTick (d : Die) (w : Who) (eng : Nat) : Die :=
  if d.alm.logging || d.alm.rply then
    let k := agentKey w eng
    { d with alm := { d.alm with cnt := spSet 0 d.alm.cnt k (spGet 0 d.alm.cnt k + 1) } }
  else d

/-- Fields of an Almanac record (13 R343): the agent's key, KIND, CHUNK, CHOICE, OBJ. -/
def recAgent (r : BitVec 256) : Nat :=
  let who := r.toNat / 2 ^ 64 % 2 ^ 32
  ((who / 2 ^ 15 % 4 * 8 + who / 2 ^ 17 % 8) * 2 + who / 2 ^ 23 % 2) * 16 + who / 2 ^ 20 % 8

def recKind (r : BitVec 256) : Nat := r.toNat / 2 ^ 88 % 2 ^ 8

def recChunk (r : BitVec 256) : Nat := r.toNat / 2 ^ 96 % 2 ^ 32

def recChoice (r : BitVec 256) : Nat := r.toNat / 2 ^ 128 % 2 ^ 64

def recObj (r : BitVec 256) : Nat := r.toNat / 2 ^ 192

/-- The CHOICE that replay forces on an agent let past its order point (13 R347). -/
def replayChoice (s : State) (w : Who) (eng : Nat) : Option Nat :=
  let a := (getDie s w.die).alm
  if a.rply && a.go.contains (agentKey w eng) then a.log.head?.map recChoice else none

/-- The next record of an agent in the replay log. -/
def nextRec (a : AlmSt) (k : Nat) : Option (BitVec 256) := a.log.find? fun r => recAgent r == k

/-- An order point.  While recording it writes one record, and a full ring marks `atPt`: the agent's step is held (13 R344).  In replay
the agent goes on once it has been let past (R346), and a record of it that differs marks `div`, whether its turn has come or not (R348). -/
def orderPoint (s : State) (w : Who) (eng kind : Nat) (obj choice : Nat) : State :=
  modDie s w.die fun d =>
    let k := agentKey w eng
    if d.alm.rply then
      match nextRec d.alm k with
      | none => { d with alm := { d.alm with atPt := true } }
      | some r =>
        if !(recKind r = kind ∧ recObj r = obj % 2 ^ 64 ∧ recChunk r = spGet 0 d.alm.cnt k) then
          { d with alm := { d.alm with atPt := true, div := true } }
        else if !(d.alm.go.contains k) then { d with alm := { d.alm with atPt := true } }
        else
          let t := d.alm.log.drop 1
          { d with alm := { d.alm with
              log := t
              go := if t.head?.map recAgent = some k then d.alm.go else d.alm.go.erase k
              cnt := spSet 0 d.alm.cnt k 0 } }
    else if d.alm.logging then
      if ringFull d 5 then { d with alm := { d.alm with atPt := true } }
      else
        let r := leBytes 8 d.time.ftime ++
          leBytes 4 (whoBits w + eng % 8 * 2 ^ 20 + w.ctx * 2 ^ 23 + kind * 2 ^ 24) ++ leBytes 4 (spGet 0 d.alm.cnt k) ++
          leBytes 8 choice ++ leBytes 8 obj
        let d := ringAppend d 5 r
        { d with alm := { d.alm with cnt := spSet 0 d.alm.cnt k 0, waits := d.alm.waits.erase k } }
    else d

/-! ### Events and waits -/

/-- Event `k` of 04 R121 at a context. -/
def raiseEv (c : Ctx) (k : Nat) : Ctx := { c with csr := { c.csr with evpend := c.csr.evpend ||| w64 (2 ^ k) } }

/-- SETBY of a wait that ends because its object is satisfied (05 R152): for a channel the engine at its other end, for a tile or barrier
the engine that set it, for a copy queue the Carter, for a meeting, a gate or an event another party. -/
def waitSetBy (s : State) (w : Who) (e : Eng) : Nat :=
  let c := getCtx s w
  let t := getStat c e
  match t.wkind.toNat with
  | 2 =>
    let cfg := (spGet {} c.chans t.obj.toNat : Chan).cfg
    if t.aux = 0 then bits cfg 0 3 else bits cfg 4 3
  | 3 => spGet 6 (getCore s w).setBy (t.aux.toNat / 4096)
  | 4 => spGet 6 (getCore s { w with core := t.aux.toNat % 32 }).setBy (0x10000 + bits t.obj 0 23 / 32)
  | 5 => if bit t.aux 0 then 4 else 3
  | _ => 6

/-- The wait record of a wait that ends (05 R152): written when the wait has passed the threshold; a scoreboard wait has none
(01 R18). -/
def waitRecord (s : State) (w : Who) (e : Eng) (setby : Nat) : State :=
  let c := getCtx s w
  let t := getStat c e
  let d := getDie s w.die
  let thr := bits d.trace.wthr 0 32
  let n := d.time.cyc - t.since
  if t.st = .wait ∧ t.wkind ≠ 1 ∧ thr ≠ 0 ∧ thr < n then
    let r := leBytes 8 d.time.ftime ++ leBytes 4 (min n (2 ^ 32 - 1)) ++ leBytes 1 (engCode e + w.ctx * 8) ++
      leBytes 1 t.wkind.toNat ++ leBytes 2 setby ++ wordBytes8 t.obj ++ leBytes 4 (whoBits w) ++ leBytes 4 (getPc c e).toNat
    setDie s w.die (ringAppend d 1 r)
  else s

/-- End a wait: the stream is in RUN (01 R12, R19). -/
def clearWait (s : State) (w : Who) (e : Eng) (setby : Nat) : State :=
  let t := getStat (getCtx s w) e
  if t.st = .wait then
    modCtx (waitRecord s w e setby) w fun c => setStat c e { t with st := .run, wkind := 0, obj := 0, aux := 0, since := 0, needs := [] }
  else s

/-- The instruction under way gives up what it has begun: its scratchpad access, the image that it reads (01 R19; 05 R144; 08 R219); an
MSTEP in flight stands between its steps (08 R222). -/
def leaveWork (s : State) (w : Who) (e : Eng) : State :=
  match e with
  | .access =>
    let s := if (getCtx s w).acc.fly.isSome then modCtx s w fun c => { c with acc := { c.acc with fly := none } } else s
    if (getDie s w.die).acc.any fun a => a.w == w && a.kind == .image then
      modDie s w.die fun d => { d with acc := d.acc.filter fun a => !(a.w == w && a.kind == .image) }
    else s
  | .loom => s
  | .mill =>
    if (getCtx s w).mill.stat.st = .wait then modCtx s w fun c => { c with mill := { c.mill with left := true } } else s

/-- Abandon a wait: no trace in the object (01 R19). -/
def abandonWait (s : State) (w : Who) (e : Eng) : State := clearWait (leaveWork s w e) w e 7

/-- The stream waits with a WKIND on an object (01 R18).  A wait already under way on the same object goes on. -/
def enterWait (s : State) (w : Who) (e : Eng) (k : Nat) (obj aux : Word) : State :=
  let t := getStat (getCtx s w) e
  if t.st = .wait ∧ t.wkind = BitVec.ofNat 4 k ∧ t.obj = obj ∧ t.aux = aux then s
  else
    let s := clearWait s w e 7
    modCtx s w fun c =>
      setStat c e { getStat c e with st := .wait, wkind := BitVec.ofNat 4 k, obj := obj, aux := aux, since := cycNow s w.die }

/-- The first condition of a channel wait that is unmet; the Loom takes only entries that are filled and channels that are enabled. -/
def needUnmet (c : Ctx) (e : Eng) (l : List ChNeed) : Option ChNeed :=
  l.find? fun x =>
    let h : Chan := spGet {} c.chans x.ch
    !(if x.push then h.q.length ≤ x.n && (e == .access || bit h.cfg 8)
      else (h.q.drop x.n).head?.any fun y => e == .access || (y.filled && bit h.cfg 8))

/-- The stream waits until its instruction can take all its channel operands at once (04 R93); the object is the first channel whose
condition is unmet.  It is one wait, whatever condition is met first. -/
def enterChWait (s : State) (w : Who) (e : Eng) (l : List ChNeed) : State :=
  let c := getCtx s w
  let t := getStat c e
  let x := (needUnmet c e l).getD ⟨0, false, 0⟩
  let obj := w64 x.ch
  let aux := if x.push then 1 else 0
  if t.st = .wait ∧ t.wkind = 2 ∧ t.needs = l then modCtx s w fun c => setStat c e { t with obj := obj, aux := aux }
  else modCtx (enterWait s w e 2 obj aux) w fun c => setStat c e { getStat c e with needs := l }

/-! ### Halting (01 R12, R36, R40; 14 R361) -/

/-- The head of a halted Mill stream (R42; 07 R193): an MSTEP that the stream has passed, nothing having issued since, and that only drains,
is its head again, with `mrp` = n. -/
def rewindMill (c : Ctx) : Ctx :=
  match c.mill.flight.getLast? with
  | none => c
  | some x =>
    let at_ := if x.inj then some (c.mill.pc, c.mill.loops) else c.mill.back
    match at_ with
    | none => c
    | some (pc, ls) =>
      if x.op = 1 && x.stage == .drain && c.mill.stat.st == .run then
        { c with mill := { c.mill with
          flight := c.mill.flight.dropLast, mrp := x.f.steps.setWidth 16, pc := pc, loops := ls, back := none } }
      else c

/-- A context halts: its waits are abandoned, each stream keeps its STATE.  What its head has passed still completes (R42). -/
def haltCtx (s : State) (w : Who) : State :=
  let s := abandonWait (abandonWait (abandonWait s w .access) w .loom) w .mill
  modCtx s w fun c => rewindMill { c with halted := true }

/-- A store of global memory. -/
def isStore : AccKind → Bool
  | .store | .capStore => true
  | _ => false

/-- A debug stop of a context (13 R339): it halts, and the Moot's debug agent is told once what it has issued is performed. -/
def stopAtCut (s : State) (w : Who) (cause : Nat) (val : Word) (eng : Nat) : State :=
  let n := ((getDie s w.die).acc.filter fun a => a.w == w && isStore a.kind).length
  modCtx (haltCtx s w) w fun c => { c with stop := some { kind := 1, w := w, cause := cause, val := val, eng := eng, stores := n } }

/-- A debug stop of a context that holds a job (14 R361). -/
def stopCtx (s : State) (w : Who) : State := if (getCtx s w).job.isSome then stopAtCut s w 0 0 0 else s

/-- A debug stop of every context of a die, which is then stopped (17 R452). -/
def stopDie (s : State) (d : Nat) : State :=
  (getDie s d).cores.foldl (fun s (k, _) => stopCtx (stopCtx s ⟨d, k, 0⟩) ⟨d, k, 1⟩) (modDie s d fun x => { x with stopped := true })

/-- A debug halt of a context, with `dbgctl`.BOTH of the other one too. -/
def debugHalt (s : State) (w : Who) (cause : Nat) (val : Word) (eng : Nat) : State :=
  let s := stopAtCut s w cause val eng
  if bit (getCore s w).dbgctl 2 then stopCtx s (otherCtx w) else s

/-- A double fault halts the context; the Moot receives the cause, `sepc` and `seng` (01 R36), and a machine check is made
(13 R317). -/
def doubleFault (s : State) (w : Who) (cause : Nat) : State :=
  let c := getCtx s w
  let s := haltCtx s w
  let s := tellMoot s { kind := 2, w := w, cause := cause, val := c.csr.sepc, eng := c.csr.seng.toNat }
  machineCheck s w 8 3 true 0 cause

/-- Whether the step was held at an order point (13 R344, R346). -/
def almOver (s : State) (d : Nat) : Bool := (getDie s d).alm.atPt

/-- A step held at an order point: the agent waits, for the ring while recording (13 R344); a divergence stops the replay, halts the jobs as
HALT does and makes a machine check of kind 9 that names agent and record (R348).  `s'` is the state the step would have reached. -/
def almHeld (s s' : State) (w : Who) (eng : Nat) : State :=
  if (getDie s' w.die).alm.div && !(getDie s w.die).alm.div then
    let left := (getDie s w.die).alm.log.length
    let s := modDie s w.die fun d => { d with alm := { d.alm with div := true, rply := false, go := [] } }
    machineCheck (stopDie s w.die) w 9 7 true 0 (agentKey w eng + left * 2 ^ 16)
  else
    let k := agentKey w eng
    modDie s w.die fun d => if d.alm.logging && !(d.alm.waits.contains k) then { d with alm := { d.alm with waits := k :: d.alm.waits } } else d

/-! ### Taking a trap (01 R32, R34 to R36; 04 R114, R119) -/

/-- Causes that can be delegated by their `uldel` bit alone (01 R34). -/
def delegableCause (cause : Nat) : Bool :=
  (0x09 ≤ cause && cause ≤ 0x0F) || (0x17 ≤ cause && cause ≤ 0x1A)

/-- Whether a fault goes to the user-level handler (01 R34). -/
def delegated (y : Core) (c : Ctx) (cause : Nat) : Bool :=
  bit c.csr.uldel cause && (delegableCause cause || (cause == 0x14 && bit y.dbgctl 1 && !(bit y.dbgctl 0)))

/-- Entry into system mode (01 R32, 04 R114). -/
def sysEntry (c : Ctx) (cause : Nat) (val : Word) (eng : Nat) : Ctx :=
  { c with
    csr := { c.csr with sepc := c.acc.pc, scause := w64 (cause % 256), sval := val, seng := w64 eng, pm := c.acc.sys, te := false }
    acc := { c.acc with sys := true, pc := c.csr.svec } }

/-- Entry into the user-level handler (04 R119). -/
def userEntry (c : Ctx) (cause : Nat) (val : Word) (eng : Nat) : Ctx :=
  { c with
    csr := { c.csr with ulepc := c.acc.pc, ulcause := w64 (cause % 256), ulval := val, uleng := w64 eng }
    acc := { c.acc with uli := true, pc := c.csr.ulvec } }

/-- Causes whose delivery `dbgctl`.DH turns into a debug halt (01 R40). -/
def debugCause (cause : Nat) : Bool := 0x12 ≤ cause && cause ≤ 0x15

/-- The access core takes a trap or a report, its program counter standing at the instruction it interrupts.  `own`: a precise trap of
its own instruction, which in system mode with trap-enable clear is a double fault (01 R36) and inside the user-level handler always
enters system mode (01 R35).  DESIGN CHOICE where a precise 0x12, 0x13 or 0x15 meets both R36 and `dbgctl`.DH (R34, R40 give no order): the
double fault comes first (notes/assumptions/64.md). -/
def takeTrap (s : State) (w : Who) (cause : Nat) (val : Word) (eng : Nat) (own : Bool) : State :=
  let s := abandonWait s w .access
  let y := getCore s w
  let c := getCtx s w
  let c' := if own then setStat c .access { c.acc.stat with bps := false } else c
  if own && c.acc.sys && !c.csr.te then doubleFault (setCtx s w c') w cause
  else if debugCause cause && bit y.dbgctl 0 then debugHalt (setCtx s w c') w cause val eng
  else if delegated y c cause && !(own && c.acc.uli) && c.csr.ulvec != 0 then setCtx s w (userEntry c' cause val eng)
  else setCtx s w (sysEntry c' cause val eng)

/-- Return from system mode (04 R120). -/
def sysReturn (c : Ctx) : Ctx :=
  { c with csr := { c.csr with te := true }, acc := { c.acc with sys := c.csr.pm, pc := c.csr.sepc } }

/-- Return from the user-level handler (04 R119). -/
def userReturn (c : Ctx) : Ctx := { c with acc := { c.acc with uli := false, pc := c.csr.ulepc } }

/-- Reports can be delivered: not inside the user-level handler, not in system mode with trap-enable clear (01 R35).  DESIGN CHOICE: while `ULI`
is 1 an engine's report stays pending until ULIRET in system mode with trap-enable set too (notes/assumptions/64.md). -/
def canDeliver (c : Ctx) : Bool :=
  !c.acc.uli && !(c.acc.sys && !c.csr.te) && !c.halted && (c.acc.stat.st == .run || c.acc.stat.st == .wait)

/-- The report delivered next: the lowest rank, the oldest among equals (01 R35). -/
def nextReport : List Report → Option Report
  | [] => none
  | r :: t =>
    match nextReport t with
    | none => some r
    | some q => if r.rank < q.rank ∨ (r.rank = q.rank ∧ r.ord ≤ q.ord) then some r else some q

/-- Deliver one pending report, if there is one and it can be delivered (01 R33, R35). -/
def deliverReport (s : State) (w : Who) : Option State :=
  let c := getCtx s w
  if canDeliver c then
    match nextReport c.reports with
    | none => none
    | some r =>
      let s := setCtx s w { c with reports := c.reports.erase r }
      some (takeTrap s w r.cause r.val r.eng false)
  else none

/-- Enter a report (01 R33, R35). -/
def addReport (c : Ctx) (rank cause : Nat) (val : Word) (eng : Nat) : Ctx :=
  { c with reports := c.reports ++ [{ rank := rank, cause := cause, val := val, eng := eng }] }

/-- A failure at completion of the access that issued as number `ord` (11 R268). -/
def addFailure (c : Ctx) (ord cause : Nat) (val : Word) (eng : Nat) : Ctx :=
  { c with reports := c.reports ++ [{ rank := 5, cause := cause, val := val, eng := eng, ord := ord }] }

/-- A Loom or Mill stream stops with a cause (01 R33): STOP, the program counter at the instruction, the fault pending for the access
core, event ENG. -/
def stopStream (s : State) (w : Who) (e : Eng) (cause : Nat) (val : Word) : State :=
  let s := clearWait s w e 7
  modCtx s w fun c =>
    let t := getStat c e
    let c := setStat c e { t with st := .stop, cause := BitVec.ofNat 8 cause, bps := false }
    addReport (raiseEv c 5) (engCode e - 1) cause val (engCode e)

/-! ### The outcome of an instruction -/

/-- Where an instruction goes on: to the next word; by a taken transfer; by a hardware loop whose body is skipped, which is no taken
transfer (04 R102); to an address without the loop rule (04 R103). -/
inductive Nxt where
  | seq
  | jump (t : Word)
  | skip (t : Word)
  | raw (t : Word)
deriving DecidableEq, Repr

/-- What an instruction's body answers: done with a state; a trap, with no effect of the instruction; a trap whose read found a storage
error, which the state records (13 R332); a wait; an interlock; done, the stream having ended; begun, the stream staying at it; to be issued
again, `f` acting on the state as it was before the instruction took its operands. -/
inductive Res where
  | ok (s : State) (n : Nxt)
  | trap (cause : Nat) (val : Word)
  | found (s : State) (cause : Nat) (val : Word)
  | wait (k : Nat) (obj aux : Word)
  | chWait (l : List ChNeed)
  | hold
  | exit (s : State)
  | stay (s : State)
  | redo (f : State → State)

/-- Remove loop levels that a transfer to `t` leaves (04 R103). -/
def unwindLoops : List LoopLevel → Word → List LoopLevel
  | [], _ => []
  | l :: ls, t => if l.start.toNat ≤ t.toNat ∧ t.toNat ≤ l.last.toNat then l :: ls else unwindLoops ls t

/-- The loop stack and the next address after an instruction at `pc` that made no taken transfer; `t` is where it falls through
(04 R103). -/
def loopFall (ls : List LoopLevel) (pc t : Word) : List LoopLevel × Word :=
  match ls with
  | [] => ([], t)
  | l :: rest =>
    if l.last = pc then (if l.count = 1 then (rest, t) else ({ l with count := l.count - 1 } :: rest, l.start))
    else (ls, t)

/-- The loop stack and the next address after an instruction at `pc` of `len` bytes (04 R103). -/
def loopNext (ls : List LoopLevel) (pc : Word) (len : Nat) : Nxt → List LoopLevel × Word
  | .raw t => (ls, t)
  | .jump t => (unwindLoops ls t, t)
  | .skip t => loopFall ls pc t
  | .seq => loopFall ls pc (pc + w64 len)

/-- Retire an access-core instruction (04 R103, R113 `instret`; 01 R13 BPS, R41 single step). -/
def retireAccess (s : State) (w : Who) (bpsBefore : Bool) (n : Nxt) : State :=
  let c := getCtx s w
  let (ls, pc') := loopNext c.acc.loops c.acc.pc 4 n
  let t := c.acc.stat
  let t := { t with bps := t.bps && !bpsBefore }
  let c := { c with
    acc := { c.acc with pc := pc', loops := ls, stat := t, fly := none }
    csr := { c.csr with instret := c.csr.instret + 1 } }
  let s := setCtx s w c
  let s := modDie s w.die fun d => almTick (countDie d (some (w.core, w.ctx)) 0x01 1) w 0
  if t.sstep && !c.halted then takeTrap s w 0x15 0 0 true else s

/-- The instruction is not held by a breakpoint, and its outcome takes effect on the access-core stream. -/
def finishAccess (s : State) (w : Who) : Res → State
  | .ok s' n =>
    if almOver s' w.die then almHeld s s' w 0
    else
      let c := getCtx s w
      retireAccess (clearWait s' w .access (waitSetBy s w .access)) w c.acc.stat.bps n
  | .trap cause val => takeTrap s w cause val 0 true
  | .found s' cause val => takeTrap s' w cause val 0 true
  | .wait k obj aux => enterWait s w .access k obj aux
  | .chWait l => enterChWait s w .access l
  | .hold => s
  | .stay s' => s'
  | .redo f => f s
  | .exit s' =>
    let s' := clearWait s' w .access (waitSetBy s w .access)
    modDie (modCtx s' w fun c =>
      setStat { c with csr := { c.csr with instret := c.csr.instret + 1 } } .access { getStat c .access with st := .done, bps := false })
      w.die fun d => almTick (countDie d (some (w.core, w.ctx)) 0x01 1) w 0

/-- Run the body of an access-core instruction of the stream that moves. -/
def runAccess (s : State) (body : State → Res) : Host.Outcome State Fault Refusal := .next (finishAccess s (me s) (body s))

/-- The instruction's word, as `sval` holds it for 0x01 and 0x02 (13 R316). -/
def wordOf (i : Instr) : Word := w64 ((encodeNat i).getD 0)

end Sys2Proof.Machine
end

