-- ==== Sys2Proof/Machine/Operands.lean ====
section
/-!
DEFINITION. The operand forms of access-core words: g registers, channels popped, peeked and pushed (02 R46, R47, R49; 04 R93).
-/
namespace Sys2Proof.Machine
open Sys2Proof

/-- An RC field as a source: only AR words have peek bits, so a channel is popped (02 R46). -/
def rcSrc : RC → Src
  | .g r => .g r
  | .ch n => .pop n

/-! ### Channels -/

def getChan (c : Ctx) (n : Nat) : Chan := spGet {} c.chans n

def setChan (c : Ctx) (n : Nat) (x : Chan) : Ctx := { c with chans := spSet {} c.chans n x }

def chEn (x : Chan) : Bool := bit x.cfg 8

def chProd (x : Chan) : Nat := bits x.cfg 0 3

def chCons (x : Chan) : Nat := bits x.cfg 4 3

/-- Both ends are the same engine (04 R93). -/
def chSelf (x : Chan) : Bool := chProd x == chCons x

/-- Append an entry; a push into a channel that the access core consumes is event CHN (04 R121). -/
def chPush (c : Ctx) (n : Nat) (e : ChEntry) : Ctx :=
  let x := getChan c n
  let c := setChan c n { x with q := x.q ++ [e], pushes := x.pushes + 1 }
  if chCons x = 0 then raiseEv c 0 else c

/-- The push count of the head entry (13 R342), counting from 1. -/
def chHeadCount (x : Chan) : Nat := x.pushes - x.q.length + 1

/-! ### Legality: 0x01 (04 R93) -/

def srcLegal (c : Ctx) : Src → Bool
  | .g _ => true
  | .pop n => chEn (getChan c n.val) && chCons (getChan c n.val) == 0
  | .peek n => chEn (getChan c n.val) && chCons (getChan c n.val) == 0

def dstLegal (c : Ctx) : RC → Bool
  | .g _ => true
  | .ch n => chEn (getChan c n.val) && chProd (getChan c n.val) == 0

/-! ### Registers that an incomplete load will write (02 R49) -/

/-- A g register is the destination of an access of the context that has not completed. -/
def pendingG (s : State) (w : Who) (r : GReg) : Bool :=
  let k := gKey (getCtx s w) r
  r.val ≠ 0 && (getDie s w.die).acc.any fun a => a.w = w && a.dest = .g k.1 k.2

/-- A capability register is the destination of an LDCR that has not completed. -/
def pendingC (s : State) (w : Who) (r : CapReg) : Bool :=
  (getDie s w.die).acc.any fun a => a.w = w && a.dest = .cap r.val

def srcPending (s : State) (w : Who) : Src → Bool
  | .g r => pendingG s w r
  | _ => false

def dstPending (s : State) (w : Who) : RC → Bool
  | .g r => pendingG s w r
  | .ch _ => false

/-- A scoreboard wait: its object is the oldest access of the context that `p` picks. -/
def scoreWait (s : State) (p : Access → Bool) : Res :=
  .wait 1 (w64 (((getDie s (me s).die).acc.find? fun a => a.w = me s && p a).map Access.id |>.getD 0)) 0

/-- A scoreboard wait on registers: the destinations among sources, further registers and the destination. -/
def regWait (s : State) (srcs : List Src) (regs : List GReg) (dst : RC) : Res :=
  let key := gKey (getCtx s (me s))
  scoreWait s fun a =>
    srcs.any (fun x => match x with | .g r => r.val ≠ 0 && a.dest = .g (key r).1 (key r).2 | _ => false) ||
      regs.any (fun r => r.val ≠ 0 && a.dest = .g (key r).1 (key r).2) ||
      (match dst with | .g r => r.val ≠ 0 && a.dest = .g (key r).1 (key r).2 | .ch _ => false)

/-! ### Registers in error (05 R154) -/

/-- The place that a g field denotes. -/
def gLoc (c : Ctx) (r : GReg) : Loc := if (gKey c r).2 then .gs (gKey c r).1 else .g (gKey c r).1

def lostG (c : Ctx) (r : GReg) : Bool := r.val ≠ 0 && c.errs.contains (gLoc c r)

def lostC (c : Ctx) (r : CapReg) : Bool := c.errs.contains (.cap r.val)

def srcLost (c : Ctx) : Src → Bool
  | .g r => lostG c r
  | _ => false

/-- 0x11 at the instruction that reads storage in error; its `sval` is a free value (notes/assumptions/52.md). -/
def lostTrap (s : State) : Res := .trap 0x11 (Config.lostVal s.free)

/-- An instruction reads places of the context's storage: where one is in error, 0x11. -/
def readsLocs (s : State) (l : List Loc) (k : Res) : Res := if l.any (getCtx s (me s)).errs.contains then lostTrap s else k

/-! ### Taking the operands (02 R47, 04 R93) -/

/-- What a channel answers an access-core source. -/
inductive Take where
  | got (v : Word)
  | stop (r : Res)

/-- The channel conditions of source operands after pops of the channels `done`, and of a destination (02 R47). -/
def srcNeeds (done : List Nat) : List Src → List ChNeed
  | [] => []
  | .g _ :: t => srcNeeds done t
  | .pop n :: t => ⟨n.val, false, done.count n.val⟩ :: srcNeeds (n.val :: done) t
  | .peek n :: t => ⟨n.val, false, done.count n.val⟩ :: srcNeeds done t

def opNeeds (srcs : List Src) (dst : RC) : List ChNeed :=
  srcNeeds [] srcs ++ match dst with
    | .g _ => []
    | .ch n => [⟨n.val, true, 15 + srcs.count (.pop n)⟩]

/-- Read the head of a channel for the access core; `l` holds the channel conditions of the whole instruction. -/
def chHead (x : Chan) (n : Nat) (l : List ChNeed) : Take :=
  match x.q with
  | [] => if chSelf x then .stop (.trap 0x0A (w64 n)) else .stop (.chWait l)
  | e :: _ =>
    if !e.filled then .stop (.wait 1 (w64 e.id) 0) else if e.bad then .stop (.trap 0x11 (Config.lostVal n)) else .got e.val

/-- Remove the head of a channel; a pop from another producer is an order point (13 R342 KIND 0x04). -/
def chDrop (s : State) (w : Who) (eng : Nat) (n : Nat) : State :=
  let x := getChan (getCtx s w) n
  let s := modCtx s w fun c => setChan c n { x with q := x.q.tail }
  if chProd x = eng then s else orderPoint s w eng 4 n (chHeadCount x)

/-- Take the source operands in order; `k` goes on with their values. -/
def takeSrcs (s : State) (w : Who) (l : List ChNeed) : List Src → (State → List Word → Res) → Res
  | [], k => k s []
  | .g r :: t, k => takeSrcs s w l t fun s' vs => k s' (readG (getCtx s w) r :: vs)
  | .pop n :: t, k =>
    match chHead (getChan (getCtx s w) n.val) n.val l with
    | .stop r => r
    | .got v => takeSrcs (chDrop s w 0 n.val) w l t fun s' vs => k s' (v :: vs)
  | .peek n :: t, k =>
    match chHead (getChan (getCtx s w) n.val) n.val l with
    | .stop r => r
    | .got v => takeSrcs s w l t fun s' vs => k s' (v :: vs)

/-- Room for a push, after the instruction's own pops (02 R47); an operand value that is illegal comes first (02 R59). -/
def dstRoom (c : Ctx) (l : List ChNeed) (d : RC) (k : Res) : Res :=
  match d with
  | .g _ => k
  | .ch n =>
    let x := getChan c n.val
    if x.q.length < 16 then k
    else
      match k with
      | .trap 0x01 v => .trap 0x01 v
      | _ => if chSelf x then .trap 0x09 (w64 n.val) else .chWait l

/-- Take the sources and find room for the push; `k` goes on with the sources' values. -/
def takeOps (s : State) (w : Who) (srcs : List Src) (dst : RC) (k : State → List Word → Res) : Res :=
  let l := opNeeds srcs dst
  takeSrcs s w l srcs fun s' vs => dstRoom (getCtx s' w) l dst (k s' vs)

/-- The operands of an access-core instruction: legality, the interlock on incomplete loads, registers in error, the pops in order, room for
the push.  `regs` are further g registers that it reads. -/
def withOps (s : State) (word : Word) (srcs : List Src) (regs : List GReg) (dst : RC) (k : State → List Word → Res) : Res :=
  let w := me s
  let c := getCtx s w
  if !(srcs.all (srcLegal c) && dstLegal c dst) then .trap 0x01 word
  else if srcs.any (srcPending s w) || regs.any (pendingG s w) || dstPending s w dst then regWait s srcs regs dst
  else if srcs.any (srcLost c) || regs.any (lostG c) then lostTrap s
  else takeOps s w srcs dst k

/-- The same for an instruction that the mode may forbid: 0x01, for its word or for a value at hand that `bad` rejects, comes before
privilege, and 0x02 before the rest (02 R59). -/
def withPriv (ok : Bool) (bad : List Word → Bool) (s : State) (word : Word) (srcs : List Src) (regs : List GReg) (dst : RC)
    (k : State → List Word → Res) : Res :=
  let w := me s
  let c := getCtx s w
  if srcs.all (srcLegal c) && dstLegal c dst && !ok then
    let r := if srcs.any (srcPending s w) then .hold else takeSrcs s w [] srcs fun _ vs => if bad vs then .trap 0x01 word else .trap 0x02 word
    match r with
    | .trap 0x01 v => .trap 0x01 v
    | _ => .trap 0x02 word
  else withOps s word srcs regs dst k

/-- Write the destination: a g register, or a push (02 R46). -/
def putDst (s : State) (d : RC) (v : Word) : State :=
  match d with
  | .g r => modCtx s (me s) fun c => writeG c r v
  | .ch n => modCtx s (me s) fun c => chPush c n.val { val := v }

/-- No destination. -/
def noDst : RC := .g 0

/-- Value number `k` of the operands taken. -/
def opv (vs : List Word) (k : Nat) : Word := vs.getD k 0

/-- An instruction with two sources, a destination and a result that is a function of their values. -/
def binOp (i : Instr) (d : RC) (a b : Src) (f : Word → Word → Word) (s : State) : Res :=
  withOps s (wordOf i) [a, b] [] d fun s vs => .ok (putDst s d (f (opv vs 0) (opv vs 1))) .seq

/-- The same, the result depending on the destination's old value too. -/
def rmwOp (i : Instr) (d : GReg) (srcs : List Src) (f : Word → List Word → Word) (s : State) : Res :=
  let old := readG (getCtx s (me s)) d
  withOps s (wordOf i) srcs [d] (.g d) fun s vs => .ok (putDst s (.g d) (f old vs)) .seq

/-- The same with one source. -/
def unOp (i : Instr) (d : RC) (a : Src) (f : Word → Word) (s : State) : Res :=
  withOps s (wordOf i) [a] [] d fun s vs => .ok (putDst s d (f (opv vs 0))) .seq

end Sys2Proof.Machine
end

