-- ==== Sys2Proof/Machine/Caps.lean ====
section
/-!
DEFINITION. Capability registers (04 R111; 17 R429, R430).
-/
namespace Sys2Proof.Machine
open Sys2Proof

/-! ### Fields (17 R429) -/

def capCursor (c : Cap) : Nat := c.bits.toNat % 2 ^ 64

def capPeer (c : Cap) : Nat := c.bits.toNat / 2 ^ 64 % 2 ^ 15

def capPerm (c : Cap) : Nat := c.bits.toNat / 2 ^ 79 % 2 ^ 8

def capKind (c : Cap) : Nat := c.bits.toNat / 2 ^ 87 % 2 ^ 3

def capTop (c : Cap) : Nat := c.bits.toNat / 2 ^ 90 % 2 ^ 16

def capBot (c : Cap) : Nat := c.bits.toNat / 2 ^ 106 % 2 ^ 16

def capExp (c : Cap) : Nat := c.bits.toNat / 2 ^ 122

/-- A capability from its fields. -/
def mkCap (e bot top kind perm peer cursor : Nat) (tag : Bool) : Cap :=
  { bits := BitVec.ofNat 128 (e * 2 ^ 122 + bot * 2 ^ 106 + top * 2 ^ 90 + kind * 2 ^ 87 + perm * 2 ^ 79 + peer * 2 ^ 64 + cursor),
    tag := tag }

/-- The capability with a field replaced. -/
def capWith (c : Cap) (e bot top perm cursor : Nat) : Cap := mkCap e bot top (capKind c) perm (capPeer c) cursor c.tag

/-- The window of an export address. -/
def expWindow (a : Nat) : Nat := a / 2 ^ 54

/-- The offset of an export address within its window. -/
def expOffset (a : Nat) : Nat := a % 2 ^ 54

def capLo (c : Cap) : Nat := expWindow (capCursor c) * 2 ^ 54 + capBot c * 2 ^ capExp c

def capHi (c : Cap) : Nat := expWindow (capCursor c) * 2 ^ 54 + (capTop c + 1) * 2 ^ capExp c

def capWf (c : Cap) : Bool := capBot c ≤ capTop c && (capTop c + 1) * 2 ^ capExp c ≤ 2 ^ 54

/-- The bounds of CBND, tried from exponent `e` up (17 R429). -/
def cbndFrom (o b e : Nat) : Nat → Option (Nat × Nat × Nat)
  | 0 => none
  | n + 1 =>
    let bot := o / 2 ^ e
    let top := (o + b + 2 ^ e - 1) / 2 ^ e - 1
    if top ≤ 65535 ∧ (top + 1) * 2 ^ e ≤ 2 ^ 54 then some (e, bot, top) else cbndFrom o b (e + 1) n

def cbndFind (o b : Nat) : Option (Nat × Nat × Nat) := cbndFrom o (if b = 0 then 1 else b) 0 39

/-- The egress check (17 R430): tag; kind and permissions; bounds. -/
def egress (c : Cap) (kinds : List Nat) (perm size : Nat) (k : Res) : Res :=
  let cur := w64 (capCursor c)
  if !c.tag then .trap 0x06 cur
  else if !(kinds.contains (capKind c)) || perm &&& capPerm c ≠ perm then .trap 0x08 cur
  else if capCursor c < capLo c || capCursor c + size > capHi c then .trap 0x07 cur
  else k

/-- An instruction that reads or writes a capability register whose load has not completed waits, as 02 R49 has it for g registers. -/
def capReady (s : State) (rs rd : List CapReg) (k : Res) : Res :=
  if rs.any (pendingC s (me s)) then scoreWait s (fun a => rs.any fun r => a.dest = .cap r.val)
  else if rd.any (lostC (getCtx s (me s))) then lostTrap s
  else k

def putCap (s : State) (r : CapReg) (v : Cap) : State := modCtx s (me s) fun c => writeCap c r v

/-- The value that CBND writes, or its trap (04 R111). -/
def cbndRes (cs : Cap) (b : Word) (ok : Cap → Res) : Res :=
  let cur := w64 (capCursor cs)
  if !cs.tag then .trap 0x06 cur
  else if !(capPerm cs).testBit 5 then .trap 0x08 cur
  else
    match cbndFind (expOffset (capCursor cs)) b.toNat with
    | none => .trap 0x07 cur
    | some (e, bot, top) =>
      let n := capWith cs e bot top (capPerm cs) (capCursor cs)
      if capLo n < capLo cs || capHi n > capHi cs then .trap 0x07 cur else ok n

/-- The value that CPRM writes, or its trap (04 R111). -/
def cprmRes (cs : Cap) (b : Word) (ok : Cap → Res) : Res :=
  let cur := w64 (capCursor cs)
  if !cs.tag then .trap 0x06 cur
  else if !(capPerm cs).testBit 5 then .trap 0x08 cur
  else ok (capWith cs (capExp cs) (capBot cs) (capTop cs) (capPerm cs &&& b.toNat % 256) (capCursor cs))

/-- CADD (04 R111; the representable region of 17 R429 is the window). -/
def caddVal (cs : Cap) (b : Word) : Cap :=
  let cur := (capCursor cs + b.toNat) % 2 ^ 64
  let n := capWith cs (capExp cs) (capBot cs) (capTop cs) (capPerm cs) cur
  { n with tag := cs.tag && expWindow cur == expWindow (capCursor cs) }

/-- CGET (04 R111). -/
def cgetVal (cs : Cap) (b : Word) : Word :=
  match b.toNat with
  | 0 => w64 (capCursor cs)
  | 1 => if capWf cs then w64 (capLo cs) else Config.capField cs.bits 1
  | 2 => if capWf cs then w64 (min (capHi cs - capLo cs) (2 ^ 64 - 1)) else Config.capField cs.bits 2
  | 3 => w64 (capPerm cs)
  | 4 => w64 (capKind cs)
  | 5 => w64 (capPeer cs)
  | _ => 0

def execCmovc (d a : CapReg) (s : State) : Host.Outcome State Fault Refusal :=
  runAccess s fun s => capReady s [d, a] [a] (.ok (putCap s d (readCap (getCtx s (me s)) a)) .seq)

def execCbnd (d a : CapReg) (b : Src) (s : State) : Host.Outcome State Fault Refusal :=
  runAccess s fun s => withOps s (wordOf (.cbnd d a b)) [b] [] noDst fun s vs =>
    capReady s [d, a] [a] (cbndRes (readCap (getCtx s (me s)) a) (opv vs 0) fun n => .ok (putCap s d n) .seq)

def execCprm (d a : CapReg) (b : Src) (s : State) : Host.Outcome State Fault Refusal :=
  runAccess s fun s => withOps s (wordOf (.cprm d a b)) [b] [] noDst fun s vs =>
    capReady s [d, a] [a] (cprmRes (readCap (getCtx s (me s)) a) (opv vs 0) fun n => .ok (putCap s d n) .seq)

def execCadd (d a : CapReg) (b : Src) (s : State) : Host.Outcome State Fault Refusal :=
  runAccess s fun s => withOps s (wordOf (.cadd d a b)) [b] [] noDst fun s vs =>
    capReady s [d, a] [a] (.ok (putCap s d (caddVal (readCap (getCtx s (me s)) a) (opv vs 0))) .seq)

def execCget (d : RC) (a : CapReg) (b : Src) (s : State) : Host.Outcome State Fault Refusal :=
  runAccess s fun s => withOps s (wordOf (.cget d a b)) [b] [] d fun s vs =>
    capReady s [a] [a] (.ok (putDst s d (cgetVal (readCap (getCtx s (me s)) a) (opv vs 0))) .seq)

def execCtag (d : RC) (a : CapReg) (s : State) : Host.Outcome State Fault Refusal :=
  runAccess s fun s => withOps s (wordOf (.ctag d a)) [] [] d fun s _ =>
    capReady s [a] [a] (.ok (putDst s d (if (readCap (getCtx s (me s)) a).tag then 1 else 0)) .seq)

def execCclr (d : CapReg) (s : State) : Host.Outcome State Fault Refusal :=
  runAccess s fun s => capReady s [d] [d] (.ok (putCap s d { readCap (getCtx s (me s)) d with tag := false }) .seq)

end Sys2Proof.Machine
end

