-- ==== Sys2Proof/Machine/Scratch.lean ====
section
/-!
DEFINITION. The scratchpad, its tag table, the range checker and the data watchpoints (05 R126, R129 to R136, R144 to R151; 14 R365).
-/
namespace Sys2Proof.Machine
open Sys2Proof

/-- The end of the scratchpad. -/
def spEnd : Nat := 0x600000

/-- Tile slot `j` belongs to the context (05 R126). -/
def ownsSlot (c : Ctx) (j : Nat) : Bool := c.ways.getLsbD (j % 8)

/-- The `n` bytes from `o` lie in the scratchpad and in slots of the context; otherwise the first offset that does not. -/
def badOffset (c : Ctx) (o n : Nat) : Option Nat :=
  if o ≥ spEnd then some o
  else if !(ownsSlot c (o / 4096)) then some o
  else
    match (List.range ((o + n - 1) / 4096 - o / 4096)).find? fun k =>
        (o / 4096 + k + 1) * 4096 ≥ spEnd || !(ownsSlot c (o / 4096 + k + 1)) with
    | some k => some ((o / 4096 + k + 1) * 4096)
    | none => none

/-! ### Tag entries (05 R132 to R135) -/

def tagOf (y : Core) (j : Nat) : Word := spGet 0 y.tags j

def setTag (y : Core) (j : Nat) (v : Word) : Core := { y with tags := spSet 0 y.tags j v }

def tagFull (y : Core) (j : Nat) : Bool := bit (tagOf y j) 1

def tagPois (y : Core) (j : Nat) : Bool := bit (tagOf y j) 4

def tagPcnt (y : Core) (j : Nat) : Nat := bits (tagOf y j) 8 8

def tagGtag (y : Core) (j : Nat) : Nat := bits (tagOf y j) 16 48

def setPcnt (y : Core) (j n : Nat) : Core := setTag y j ((tagOf y j &&& ~~~(0xFF00 : Word)) ||| w64 (n % 256 * 256))

/-- The set of a global address (05 R132). -/
def tagSet (a : Word) : Nat :=
  let x := bits a 12 14
  let lo6 := (x % 64) ^^^ (x / 64 % 64) ^^^ (x / 4096)
  64 * (x % 3) + lo6

/-- The global tag of an address: tile_of(a), 02 R68. -/
def tileOf (a : Word) : Nat := a.toNat / 4096 % 2 ^ 48

/-- Give FULL of slot `j` a value; a change is event TAG in the context that owns the slot (05 R135).  `by` is who set it (R152). -/
def setFull (y : Core) (j : Nat) (b : Bool) (by_ : Nat) : Core :=
  let old := tagFull y j
  let y := setTag y j (setBit (tagOf y j) 1 b)
  let y := { y with setBy := spSet 6 y.setBy j by_ }
  if old = b then y
  else if ownsSlot y.k0 j then { y with k0 := raiseEv y.k0 3 }
  else if ownsSlot y.k1 j then { y with k1 := raiseEv y.k1 3 }
  else y

/-- The place of a change of FULL among those of one cycle (05 R135), by who makes it. -/
def tagRank (b : Bool) (by_ : Nat) : Nat :=
  match by_ with
  | 5 => 1
  | 3 => 2
  | 4 => 3
  | 2 => if b then 4 else 6
  | 1 => if b then 5 else 7
  | _ => 8

/-- FULL of slot `j` may change in this cycle: nothing that R135 puts later has changed it in this cycle, and nobody else has observed it. -/
def tagTurn (s : State) (w : Who) (j : Nat) (b : Bool) (by_ : Nat) : Bool :=
  let y := getCore s w
  let now := cycNow s w.die + 1
  let t := spGet 0 y.tagT j
  let o := spGet 0 y.tagO j
  !(t / 16 == now && tagRank b by_ < t % 16) && !(o / 64 == now && o % 64 != 2 ^ by_)

/-- Change FULL of slot `j`, at its place in the cycle. -/
def changeFull (s : State) (w : Who) (j : Nat) (b : Bool) (by_ : Nat) : State :=
  let now := cycNow s w.die + 1
  modCore s w fun y => { setFull y j b by_ with tagT := spSet 0 y.tagT j (now * 16 + tagRank b by_) }

/-- FULL of slot `j` is observed by engine `eng` in this cycle. -/
def sawFull (s : State) (w : Who) (eng j : Nat) : State :=
  let now := cycNow s w.die + 1
  modCore s w fun y =>
    let o := spGet 0 y.tagO j
    { y with tagO := spSet 0 y.tagO j (now * 64 + (if o / 64 = now then o % 64 ||| 2 ^ eng else 2 ^ eng)) }

/-- Mark slot `j` as having consumed poison. -/
def setPois (y : Core) (j : Nat) : Core := setTag y j (setBit (tagOf y j) 4 true)

/-! ### Bytes (05 R129 to R131) -/

def zeros32 : List Byte := List.replicate 32 0

/-- The written bit of a sector; a tile whose DSL is 0 has none (05 R130). -/
def wrBit (y : Core) (k : Nat) : Bool := spGet false y.wr k && bit (tagOf y (k / 128)) 5

/-- A byte as the owner reads it: an unwritten sector reads 0 (05 R130). -/
def spByte (y : Core) (o : Nat) : Byte := if wrBit y (o / 32) then memGet y.sp o else 0

def spRead (y : Core) (o : Nat) : Nat → List Byte
  | 0 => []
  | n + 1 => spByte y o :: spRead y (o + 1) n

/-- The error mark of a sector; an unwritten sector reads zeros whatever it physically holds. -/
def spMark (y : Core) (k : Nat) : Nat := if wrBit y k then sectorMark (spGet 0 y.spErr k) (memRead y.sp (32 * k) 32) else 0

/-- The sectors from `o` up that `n` bytes touch. -/
def sectorsOf (o n : Nat) : List Nat := if n = 0 then [] else (List.range ((o + n - 1) / 32 - o / 32 + 1)).map (o / 32 + ·)

/-- The tiles that `n` bytes from `o` touch. -/
def tilesOf (o n : Nat) : List Nat :=
  if n = 0 then [] else (List.range ((o + n - 1) / 4096 - o / 4096 + 1)).map (o / 4096 + ·)

/-- A sector about to be written: an unwritten one is zeroed and marked (05 R130). -/
def spFresh (y : Core) (k : Nat) : Core :=
  if wrBit y k then y
  else { y with sp := memWrite y.sp (32 * k) zeros32, wr := spSet false y.wr k true, spErr := spSet 0 y.spErr k 0 }

/-- A write of any kind reaches tile `j`: DSL and DIRTY are set. -/
def touchTile (y : Core) (j : Nat) : Core :=
  let y := setTag y j (tagOf y j ||| 0x24)
  { y with clean := spDel (spDel y.clean (j * 2)) (j * 2 + 1) }

/-- Write bytes.  A sector written whole has a good check; one written in part keeps an
error's mark, its check being made over the merged bytes (04 R105; 13 R331). -/
def spWrite (y : Core) (o : Nat) (bs : List Byte) : Core :=
  let n := bs.length
  let y := (sectorsOf o n).foldl spFresh y
  let y := { y with sp := memWrite y.sp o bs, spErr := markWrite y.spErr o n }
  (tilesOf o n).foldl touchTile y

/-- Write a sector as poisoned. -/
def spPoison (y : Core) (k : Nat) : Core := { y with spErr := spSet 0 y.spErr k 1 }

/-- A sector whose check a read finds failed is poisoned, counted, and a machine check of kind 2 (13 R332). -/
def spDetect (s : State) (w : Who) (k : Nat) : State :=
  machineCheck (countEv (modCore s w fun y => spPoison y k) w 0x0D 1) w 2 3 true 0 (32 * k)

/-! ### Tag entries in error (05 R154) -/

/-- The context that owns a slot of a core. -/
def slotOwner (s : State) (w : Who) (j : Nat) : Option Who :=
  let y := getCore s w
  if ownsSlot y.k0 j then some { w with ctx := 0 } else if ownsSlot y.k1 j then some { w with ctx := 1 } else none

/-- A read of slot `j` finds its entry lost: it reads VALID 0 and POIS 1 until TSET, its other fields as stored, and 0x11 goes to system mode
of the context that owns it, with a machine check (notes/assumptions/54.md). -/
def tagSense (s : State) (w : Who) (j : Nat) : State :=
  let y := getCore s w
  if spGet false y.tagErr j then
    let s := setCore s w (setTag { y with tagErr := spSet false y.tagErr j false } j ((tagOf y j &&& ~~~(0xC1 : Word)) ||| 0x10))
    let s := match slotOwner s w j with
      | some o => modCtx s o fun c => addReport c 5 0x11 (w64 j) 0
      | none => s
    machineCheck s w 4 3 true 0 j
  else s

def tagSenseAll (s : State) (w : Who) (js : List Nat) : State := js.foldl (fun s j => tagSense s w j) s

/-- Some entry is lost. -/
def tagLost (y : Core) (js : List Nat) : Bool := js.any fun j => spGet false y.tagErr j

/-- An instruction is about to use the entries of some slots: where one is lost, the finding comes first, and the instruction then issues
again. -/
def sensed (s : State) (js : List Nat) (k : Res) : Res :=
  if tagLost (getCore s (me s)) js then .redo fun s => tagSenseAll s (me s) js else k

/-! ### The range checker (05 R144 to R146) -/

def cmdOff (q : Cmd) : Nat := bits q.l 0 23

def cmdLen (q : Cmd) : Nat := bits q.l 24 24

/-- The command writes the scratchpad; otherwise it reads it (08 R223). -/
def cmdWrites (q : Cmd) : Bool :=
  match q.kind with
  | .cpy => !(bit q.x 0)
  | .cpyg => true
  | .cpym => true
  | .tget => true
  | .cpys => false
  | .tsend => false
  | .bndc => false
  | .bndr => true

/-- Whether the sectors of two byte ranges overlap, a writer among them. -/
def meets (lo n : Nat) (w : Bool) (lo' n' : Nat) (w' : Bool) : Bool :=
  n ≠ 0 && n' ≠ 0 && (w || w') && lo / 32 ≤ (lo' + n' - 1) / 32 && lo' / 32 ≤ (lo + n - 1) / 32

/-- A command whose scratchpad accesses have not all been performed (R144): a copy or a TGET until its last sector has moved, a TSEND or a
BNDC until it completes. -/
def cmdInFlight (q : Cmd) : Bool := q.kind == .tsend || q.kind == .bndc || q.done < cmdLen q

/-- The commands of a context in flight, and the areas that a BNDR writes (18 R468). -/
def cmdsOf (c : Ctx) : List Cmd := (c.c0.q ++ c.c1.q).filter cmdInFlight ++ c.bndr.map fun r => { kind := .bndr, l := r.len }

/-- An earlier access of the access-core domain overlaps: the Carter commands of the context (R145). -/
def carterBusy (c : Ctx) (o n : Nat) (w : Bool) : Bool :=
  (cmdsOf c).any fun q => meets o n w (cmdOff q) (cmdLen q) (cmdWrites q)

/-- The lowest of some sectors, as an offset. -/
def lowest (l : List Nat) : Option Nat := l.foldl (fun m k => match m with | none => some (32 * k) | some v => some (min v (32 * k))) none

/-- The lowest sector overlapping a Carter command in flight (R146). -/
def carterClash (c : Ctx) (o n : Nat) (w : Bool) : Option Nat :=
  lowest ((cmdsOf c).filterMap fun q =>
    if meets o n w (cmdOff q) (cmdLen q) (cmdWrites q) then some (max (o / 32) (cmdOff q / 32)) else none)

/-- The sectors that the Mill's instructions in flight write, and, against a write, those that a tile step reads (R144). -/
def millUses (c : Ctx) (w : Bool) : List Nat := c.mill.flight.flatMap fun f => if w then f.out ++ f.rd else f.out

/-- The sectors that the Loom's instruction in flight writes, and, against a write, those that it reads (R144; 06 R161). -/
def loomUses (c : Ctx) (w : Bool) : List Nat :=
  match c.loom.fly with
  | none => []
  | some f => if w then f.wr ++ f.rd else f.wr

/-- The lowest of the sectors `ks` among those that `n` bytes from `o` touch. -/
def clashIn (ks : List Nat) (o n : Nat) : Option Nat := lowest (ks.filter fun k => n ≠ 0 && o / 32 ≤ k && k ≤ (o + n - 1) / 32)

/-- The lowest sector overlapping an access of the Mill in flight (R144, R146). -/
def millClash (c : Ctx) (o n : Nat) (w : Bool) : Option Nat := clashIn (millUses c w) o n

/-- The lowest sector overlapping the Loom's instruction in flight (R144, R146). -/
def loomClash (c : Ctx) (o n : Nat) (w : Bool) : Option Nat := clashIn (loomUses c w) o n

/-- The lowest sector overlapping an access of the Loom or the Mill in flight. -/
def engineClash (c : Ctx) (o n : Nat) (w : Bool) : Option Nat := clashIn (millUses c w ++ loomUses c w) o n

/-- The sectors of the access core's instruction in flight, if it writes or is met by a write. -/
def accessUses (c : Ctx) (w : Bool) : List Nat :=
  match c.acc.fly with
  | none => []
  | some (o, n, wr) => if w || wr then sectorsOf o n else []

/-- The sectors that landings being written at the core will write (R144). -/
def landUses (y : Core) : List Nat :=
  (y.landq.filter fun l => l.begun).flatMap fun l => sectorsOf (l.slot * 4096 + l.off) l.bytes.length

/-- The lowest sector overlapping an access of another domain than the access core's (R146). -/
def localClash (y : Core) (c : Ctx) (o n : Nat) (w : Bool) : Option Nat := clashIn (millUses c w ++ loomUses c w ++ landUses y) o n

/-- The range check of an access-core scratchpad access: interlock, exception, or go on. -/
def rangeAccess (y : Core) (c : Ctx) (o n : Nat) (w : Bool) (k : Res) : Res :=
  if carterBusy c o n w then .hold
  else
    match localClash y c o n w with
    | some v => .trap 0x0C (w64 v)
    | none => k

/-- An access that writes memory. -/
def accWrites : AccKind → Bool
  | .load => false
  | .capLoad => false
  | .result => false
  | .rload => false
  | .bnds _ _ => false
  | .image => false
  | _ => true

/-- An access of this die's memory or of the host. -/
def accLocal : AccKind → Bool
  | .load => true
  | .store => true
  | .capLoad => true
  | .capStore => true
  | .atom _ => true
  | .cas => true
  | .image => true
  | _ => false

/-- A global access (10 R247): any but the awaited result of a booking or a Carter command; BNDR's is one. -/
def accGlobal (c : Ctx) (a : Access) : Bool := a.kind != .result || c.bndr.any fun r => r.id == a.id

/-- An access by a local address touches the bytes.  A remote access of this die's memory is not ordered against it (18 R460). -/
def accTouches (a : Access) (sp : Space) (pa n : Nat) : Bool :=
  accLocal a.kind && a.sp == sp && a.pa < pa + n && pa < a.pa + a.size

/-- A global access of the context has not completed. -/
def accPending (s : State) (w : Who) : Bool := (getDie s w.die).acc.any fun a => a.w == w && accGlobal (getCtx s w) a

/-- An acquire load of the context has not completed: a later global or scratchpad access waits (11 R263). -/
def acqPending (s : State) (w : Who) : Bool := (getDie s w.die).acc.any fun a => a.w = w && a.acq != 0

/-- The range check of an access of the stream that moves, behind its acquire loads. -/
def rangeOnce (s : State) (o n : Nat) (w : Bool) (k : Res) : Res :=
  if acqPending s (me s) then .hold else rangeAccess (getCore s (me s)) (getCtx s (me s)) o n w k

/-- The same for an access-core instruction: where its turn takes it only to the start of its access, it is then in flight (R144). -/
def rangeMine (s : State) (o n : Nat) (w : Bool) (k : Res) : Res :=
  if (getCtx s (me s)).acc.fly.isSome then k
  else
    rangeOnce s o n w
      (if s.cur.begins then .redo fun s => modCtx s (me s) fun c => { c with acc := { c.acc with fly := some (o, n, w) } } else k)

/-! ### Watchpoints (05 R150, R151; 14 R365) -/

/-- Kinds of access a watchpoint selects, by their bit. -/
inductive WKind where
  | read | write | atomic
deriving DecidableEq, Repr

def wkBit : WKind → Nat
  | .read => 0
  | .write => 1
  | .atomic => 2

/-- The first byte of `n` from `a` that watchpoint (b, m) selects. -/
def wpMatch (b m : Word) (rem spc : Bool) (k : WKind) (a n : Nat) : Option Nat :=
  if bit b 5 && bit b 4 == rem && bit b 3 == spc && bit b (wkBit k) then
    (List.range n).findSome? fun i =>
      let x := a + i
      if x / 64 = b.toNat / 64 && bit m (x % 64) then some x else none
  else none

/-- The first matching byte of the context's four watchpoints: the lowest address. -/
def watchHit (c : Ctx) (rem spc : Bool) (k : WKind) (a n : Nat) : Option Nat :=
  (List.range 4).foldl (fun m i =>
    match wpMatch (spGet 0 c.dbg.wpb i) (spGet 0 c.dbg.wpm i) rem spc k a n, m with
    | some x, some y => some (min x y)
    | some x, none => some x
    | none, m => m) none

/-- A precise watchpoint of the access core: 0x13 before the access has any effect. -/
def watchAccess (c : Ctx) (spc : Bool) (k : WKind) (a n : Nat) (r : Res) : Res :=
  match watchHit c false spc k a n with
  | some x => .trap 0x13 (w64 x)
  | none => r

end Sys2Proof.Machine
end

