-- ==== Sys2Proof/Machine/Channel.lean ====
section
/-!
DEFINITION. Channel set-up and the scoreboard (04 R107 to R109; 02 R49).
-/
namespace Sys2Proof.Machine
open Sys2Proof

/-- A producer or consumer code that CHCFG accepts. -/
def endOk (k : Nat) : Bool := k == 0 || k == 1 || k == 3 || k == 4

/-- The configuration word breaks no rule of 04 R107. -/
def cfgOk (v : Word) : Bool := endOk (bits v 0 3) && endOk (bits v 4 3) && !(bit v 3) && !(bit v 7) && bits v 9 55 == 0

/-- CHCFG (04 R107): the entries go, those that accesses in flight have reserved too; such an access keeps going and its value is lost. -/
def execChcfg (n : Fin 16) (b : GReg) (s : State) : Host.Outcome State Fault Refusal :=
  runAccess s fun s =>
    withOps s (wordOf (.chcfg n b)) [.g b] [] noDst fun s vs =>
      if !(cfgOk (opv vs 0)) then .trap 0x01 (opv vs 0)
      else .ok (modCtx s (me s) fun c => setChan c n.val { cfg := opv vs 0 }) .seq

/-- The CHCNT result (04 R108). -/
def chcntWord (x : Chan) : Word := w64 (x.q.length + bits x.cfg 8 1 * 2 ^ 8 + chProd x * 2 ^ 16 + chCons x * 2 ^ 20)

/-- The value of a timing read: replay forces it (13 R347). -/
def timingVal (s : State) (v : Word) : Word :=
  match replayChoice s (me s) 0 with
  | some c => w64 c
  | none => v

/-- The order point of a timing read (13 R342 KIND 0x09). -/
def timingRead (s : State) (v : Word) : State :=
  orderPoint s (me s) 0 9 (getCtx s (me s)).acc.pc.toNat v.toNat

/-- A timing read of `v` into `d`. -/
def putTiming (s : State) (d : RC) (v : Word) : Res := .ok (putDst (timingRead s (timingVal s v)) d (timingVal s v)) .seq

def execChcnt (d : GReg) (n : Fin 16) (s : State) : Host.Outcome State Fault Refusal :=
  runAccess s fun s =>
    withOps s (wordOf (.chcnt d n)) [] [] (.g d) fun s _ =>
      putTiming s (.g d) (chcntWord (getChan (getCtx s (me s)) n.val))

/-- How many accesses of the context in flight named slot `i` (02 R49). -/
def sbCount (s : State) (w : Who) (i : Nat) : Nat :=
  ((getDie s w.die).acc.filter fun a => a.w = w && a.sb == i && i != 0).length

/-- An access that names slot `k` goes on, or waits while the slot counts 15 (02 R49). -/
def sbRoom (s : State) (k : Nat) (r : Res) : Res :=
  if sbCount s (me s) k < 15 then r else scoreWait s fun a => a.sb == k

/-- SBW (04 R109). -/
def execSbw (m : BitVec 7) (s : State) : Host.Outcome State Fault Refusal :=
  runAccess s fun s =>
    if (List.range 7).all fun i => !(m.getLsbD i) || sbCount s (me s) (i + 1) == 0 then .ok s .seq
    else scoreWait s fun a => a.sb != 0 && m.getLsbD (a.sb - 1)

end Sys2Proof.Machine
end

