-- ==== Sys2Proof/Machine/Local.lean ====
section
/-!
DEFINITION. Scratchpad scalars and the spill bank (04 R105, R106; 05 R149).
-/
namespace Sys2Proof.Machine
open Sys2Proof

def szBytes : Size → Nat
  | .b => 1
  | .h => 2
  | .w => 4
  | .d => 8

/-- base + sext(off6, 6) × size (02 R48). -/
def amAddr (base : Word) (o : BitVec 6) (size : Nat) : Word := base + o.signExtend 64 * w64 size

/-- Little-endian bytes as a word. -/
def leWord (bs : List Byte) : Word := w64 (leNat bs)

/-- The checks of a scratchpad address: alignment, range and ways, watchpoint, range checker (04 R105; 05 R126, R146, R151). -/
def localChecks (s : State) (a : Word) (n : Nat) (w : Bool) (k : Res) : Res :=
  let c := getCtx s (me s)
  if a.toNat % n ≠ 0 then .trap 0x03 a
  else if (badOffset c a.toNat n).isSome then .trap 0x04 a
  else watchAccess c true (if w then .write else .read) a.toNat n (sensed s [a.toNat / 4096] (rangeMine s a.toNat n w k))

/-- LDL (04 R105). -/
def execLdl (d : RC) (b : GReg) (o : BitVec 6) (z : Size) (s : State) : Host.Outcome State Fault Refusal :=
  runAccess s fun s =>
    let a := amAddr (readG (getCtx s (me s)) b) o (szBytes z)
    withOps s (wordOf (.ldl d b o z)) [] [b] d fun s _ =>
      localChecks s a (szBytes z) false
        (let y := getCore s (me s)
         match spMark y (a.toNat / 32) with
         | 0 => .ok (putDst s d (leWord (spRead y a.toNat (szBytes z)))) .seq
         | 2 => .found (spDetect s (me s) (a.toNat / 32)) 0x10 a
         | _ => .trap 0x11 a)

/-- STL (04 R105). -/
def execStl (x : RC) (b : GReg) (o : BitVec 6) (z : Size) (s : State) : Host.Outcome State Fault Refusal :=
  runAccess s fun s =>
    let a := amAddr (readG (getCtx s (me s)) b) o (szBytes z)
    withOps s (wordOf (.stl x b o z)) [rcSrc x] [b] noDst fun s vs =>
      localChecks s a (szBytes z) true
        (.ok (modCore s (me s) fun y => spWrite y a.toNat (leBytes (szBytes z) (opv vs 0).toNat)) .seq)

/-- The end of the spill bank. -/
def spillEnd : Nat := 0x10000

/-- The checks of a spill address (04 R106). -/
def spillChecks (a : Word) (n : Nat) (k : Res) : Res :=
  if a.toNat % n ≠ 0 then .trap 0x03 a else if a.toNat ≥ spillEnd then .trap 0x04 a else k

/-- Bytes of the spill bank from `o` up are written: they have no error left; `spillErr` marks by byte (05 R149). -/
def spillWrite (c : Ctx) (o : Nat) (bs : List Byte) : Ctx :=
  { c with
    spill := memWrite c.spill o bs
    spillErr := if c.spillErr = [] then [] else (List.range bs.length).foldl (fun l i => spDel l (o + i)) c.spillErr }

/-- Some of `n` bytes of the spill bank are in error. -/
def spillBad (c : Ctx) (o n : Nat) : Bool := c.spillErr.any fun e => o ≤ e.1 && e.1 < o + n && e.2 != 0

/-- SPL (04 R106, 05 R149). -/
def execSpl (x : GReg) (b : GReg) (o : BitVec 6) (z : Size) (s : State) : Host.Outcome State Fault Refusal :=
  runAccess s fun s =>
    let a := amAddr (readG (getCtx s (me s)) b) o (szBytes z)
    withOps s (wordOf (.spl x b o z)) [.g x] [b] noDst fun s vs =>
      spillChecks a (szBytes z)
        (.ok (modCtx s (me s) fun c => spillWrite c a.toNat (leBytes (szBytes z) (opv vs 0).toNat)) .seq)

/-- FIL (04 R106, 05 R149). -/
def execFil (d : GReg) (b : GReg) (o : BitVec 6) (z : Size) (s : State) : Host.Outcome State Fault Refusal :=
  runAccess s fun s =>
    let a := amAddr (readG (getCtx s (me s)) b) o (szBytes z)
    withOps s (wordOf (.fil d b o z)) [] [b] (.g d) fun s _ =>
      spillChecks a (szBytes z)
        (let c := getCtx s (me s)
         if spillBad c a.toNat (szBytes z) then .trap 0x11 a
         else .ok (putDst s (.g d) (leWord (memRead c.spill a.toNat (szBytes z)))) .seq)

end Sys2Proof.Machine
end

