-- ==== Sys2Proof/Machine/Geometry.lean ====
section
/-!
DEFINITION. The torus: coordinates, neighbours, routes (16 R378; 17 R415, R422; 12 R273).
-/
namespace Sys2Proof.Machine
open Sys2Proof

def mkDie (x y z : Nat) : Nat := x + 32 * y + 1024 * z

/-- Dies along x, y, z (17 R415). -/
def dims (s : State) : Nat × Nat × Nat := (2 * s.geo.1, 2 * s.geo.2.1, 2 * s.geo.2.2)

/-- A die id that names a die of the system (08 R209). -/
def dieOk (s : State) (d : Nat) : Bool :=
  d < 2 ^ 15 && dieX d < (dims s).1 && dieY d < (dims s).2.1 && dieZ d < (dims s).2.2

/-- Compute die k of a package (16 R378). -/
def pkgDie (p k : Nat) : Nat := mkDie (2 * (p % 16) + k % 2) (2 * (p / 16 % 16) + k / 2 % 2) (2 * (p / 256 % 16) + k / 4 % 2)

/-- The dies of the system, in ascending id. -/
def allDies (s : State) : List Nat :=
  (List.range (dims s).2.2).flatMap fun z => (List.range (dims s).2.1).flatMap fun y => (List.range (dims s).1).map fun x => mkDie x y z

def coordOf (d dim : Nat) : Nat := if dim = 0 then dieX d else if dim = 1 then dieY d else dieZ d

def setCoord (d dim v : Nat) : Nat :=
  if dim = 0 then mkDie v (dieY d) (dieZ d) else if dim = 1 then mkDie (dieX d) v (dieZ d) else mkDie (dieX d) (dieY d) v

def dimSize (s : State) (dim : Nat) : Nat := if dim = 0 then (dims s).1 else if dim = 1 then (dims s).2.1 else (dims s).2.2

/-- The port leads to a neighbour of the same package (12 R273). -/
def onPackage (d port : Nat) : Bool := (coordOf d (port / 2) % 2 == 0) == (port % 2 == 0)

/-- The die at the other end of a port (17 R415). -/
def neighbour (s : State) (d port : Nat) : Nat :=
  let n := dimSize s (port / 2)
  let c := coordOf d (port / 2)
  setCoord d (port / 2) (if port % 2 = 0 then (c + 1) % n else (c + n - 1) % n)

/-- The port at the other end of a port's link. -/
def farPort (port : Nat) : Nat := if port % 2 = 0 then port + 1 else port - 1

/-- The way a message takes in dimension `dim` from die `a` to coordinate `t`: its port, and how many links (17 R422). -/
def wayDim (s : State) (a dim t : Nat) : Nat × Nat :=
  let n := dimSize s dim
  let f := (t + n - coordOf a dim) % n
  if f = 0 then (2 * dim, 0)
  else if n = 2 then (if onPackage a (2 * dim) then 2 * dim else 2 * dim + 1, 1)
  else if f ≤ n - f then (2 * dim, f)
  else (2 * dim + 1, n - f)

/-- Walk `k` links through a port: the links passed (die and port), and where the walk ends. -/
def walkDim (s : State) (a port : Nat) : Nat → List (Nat × Nat) × Nat
  | 0 => ([], a)
  | k + 1 =>
    let r := walkDim s (neighbour s a port) port k
    ((a, port) :: r.1, r.2)

/-- The links of the route from die `a` to die `b`: first x, then y, then z (17 R422). -/
def route (s : State) (a b : Nat) : List (Nat × Nat) :=
  let wx := wayDim s a 0 (dieX b)
  let rx := walkDim s a wx.1 wx.2
  let wy := wayDim s rx.2 1 (dieY b)
  let ry := walkDim s rx.2 wy.1 wy.2
  let wz := wayDim s ry.2 2 (dieZ b)
  let rz := walkDim s ry.2 wz.1 wz.2
  rx.1 ++ ry.1 ++ rz.1

/-- Links, and external links, between two dies (08 R231). -/
def hops (s : State) (a b : Nat) : Nat := (route s a b).length

def extHops (s : State) (a b : Nat) : Nat := ((route s a b).filter fun l => !(onPackage l.1 l.2)).length

/-! ### Links (17 R420, R421) -/

def getPort (d : Die) (p : Nat) : PortSt := spGet {} d.fab.ports p

def setPort (d : Die) (p : Nat) (x : PortSt) : Die := { d with fab := { d.fab with ports := spSet {} d.fab.ports p x } }

def modPort (s : State) (d p : Nat) (f : PortSt → PortSt) : State := modDie s d fun x => setPort x p (f (getPort x p))

/-- A slot of a receive pool of die `d` is freed. -/
def freeSlot (s : State) (d : Nat) : Option (Nat × Nat) → State
  | none => s
  | some (p, k) => modPort s d p fun x => { x with used := spSet 0 x.used k (spGet 0 x.used k - 1), freed := spSet 0 x.freed k ((spGet 0 x.freed k + 1) % 4096) }

/-- Both external ports of a dimension that holds one package are not cabled (17 R415). -/
def cabled (s : State) (d p : Nat) : Bool := p < 6 && (onPackage d p || dimSize s (p / 2) > 2)

/-- A link is up at both ends; it is down at one. -/
def linkUp (s : State) (d p : Nat) : Bool :=
  (getPort (getDie s d) p).state == 2 && (getPort (getDie s (neighbour s d p)) (farPort p)).state == 2

def linkDown (s : State) (d p : Nat) : Bool :=
  (getPort (getDie s d) p).state == 0 || (getPort (getDie s (neighbour s d p)) (farPort p)).state == 0

/-- Every link of a message's route is up; one of them is down. -/
def pathUp (s : State) (a b : Nat) : Bool := (route s a b).all fun l => linkUp s l.1 l.2

def pathDown (s : State) (a b : Nat) : Bool := (route s a b).any fun l => linkDown s l.1 l.2

end Sys2Proof.Machine
end

