-- ==== Sys2Proof/Machine/Phys.lean ====
section
/-!
DEFINITION. Physical memory as an agent of a die reaches it: HBM, the Granary through the die's lines, host memory through the
write-combining buffers; the cluster caches and the die directory (10 R238 to R241, R246, R252; 13 R325, R326, R330, R479; 16 R404).
-/
namespace Sys2Proof.Machine
open Sys2Proof

/-- Installed HBM of a die (13 R479). -/
def hbmSize : Nat := 2 ^ 37

/-- The Granary port of an address (16 R404). -/
def granPort (pa : Nat) : Nat := pa / 2 ^ 41

/-- The capacity of the expander at a port, 0 where there is none or the port is not enabled (16 R404, R410). -/
def granCap (p : Pkg) (port : Nat) : Nat := if spGet false p.gon port then spGet 0 p.gcap port else 0

def modMem (s : State) (d : Nat) (f : MemSt → MemSt) : State := modDie s d fun x => { x with mem := f x.mem }

/-- The space's code in the key of a line. -/
def spaceCode : Space → Nat
  | .hbm => 0
  | .gran => 1
  | .host => 2

/-- Lines of 128 bytes that `n` bytes from `pa` touch. -/
def physLines (pa n : Nat) : List Nat := spanBlocks 128 pa n

/-! ### Granary lines held by a die -/

def gLine (m : MemSt) (l : Nat) : GLine := spGet {} m.glines l

def setGLine (m : MemSt) (l : Nat) (g : GLine) : MemSt := { m with glines := spSet {} m.glines l g }

/-- A byte of the Granary as the die reads it. -/
def granByte (s : State) (d pa : Nat) : Byte :=
  let g := gLine (getDie s d).mem (pa / 128)
  if spGet false g.held (pa % 128) then spGet 0 g.data (pa % 128) else memGet (getPkg s (pkgOf d)).gran pa

/-- The die takes a copy of a Granary line: the bytes it does not hold are fetched (10 R239). -/
def granFill (s : State) (d l : Nat) : State :=
  let g := gLine (getDie s d).mem l
  let mem := (getPkg s (pkgOf d)).gran
  let g' := (List.range 128).foldl (fun (g : GLine) i =>
    if spGet false g.held i then g
    else { g with data := spSet 0 g.data i (memGet mem (l * 128 + i)), held := spSet false g.held i true }) g
  modMem s d fun m => setGLine m l g'

/-- Give a byte of the die's copy of a Granary line its value, dirty or clean. -/
def granPut (m : MemSt) (pa : Nat) (b : Byte) (dirty : Bool) : MemSt :=
  let g := gLine m (pa / 128)
  let i := pa % 128
  setGLine m (pa / 128) { g with data := spSet 0 g.data i b, dirty := spSet false g.dirty i dirty, held := spSet false g.held i true }

def granPutAll (m : MemSt) (pa : Nat) : List Byte → MemSt
  | [] => m
  | b :: t => granPutAll (granPut m pa b true) (pa + 1) t

/-- The bytes that the die holds take the values that the port took. -/
def granUpdate (m : MemSt) (pa : Nat) : List Byte → MemSt
  | [] => m
  | b :: t =>
    let m' := if spGet false (gLine m (pa / 128)).held (pa % 128) then granPut m pa b false else m
    granUpdate m' (pa + 1) t

/-- The die's copy of a Granary sector is dirty in every byte: what the port holds of it is superseded. -/
def granWhole (m : MemSt) (k : Nat) : Bool :=
  let g := gLine m (k / 4)
  (List.range 32).all fun i => spGet false g.dirty (k % 4 * 32 + i)

/-- The error mark of a Granary sector: data enters with a fresh check (13 R330); a failed port reads poisoned (16 R404). -/
def granMark (s : State) (d k : Nat) : Nat :=
  let p := getPkg s (pkgOf d)
  if granWhole (getDie s d).mem k then 0
  else if spGet false p.gfail (granPort (k * 32)) then 3
  else if spGet 0 p.gerr k < 16 then spGet 0 p.gerr k else 0

/-- Write the Granary at its port. -/
def granStore (s : State) (d pa : Nat) (bs : List Byte) : State :=
  modPkg s (pkgOf d) fun p => { p with gran := memWrite p.gran pa bs, gerr := markWrite p.gerr pa bs.length }

/-- Write back the dirty bytes of a line (10 R246 release at package scope); a sector dirty in every byte is written whole. -/
def granClean (s : State) (d l : Nat) : State :=
  let m := (getDie s d).mem
  let g := gLine m l
  let s := modPkg s (pkgOf d) fun p => { p with
    gran := g.dirty.foldl (fun m (i, _) => memSet m (l * 128 + i) (spGet 0 g.data i)) p.gran
    gerr := ((List.range 4).filter fun j => granWhole m (4 * l + j)).foldl (fun e j => spDel e (4 * l + j)) p.gerr }
  modMem s d fun m => setGLine m l { g with dirty := [] }

/-- Package-scope release: every dirty Granary byte of the die is written back. -/
def granRelease (s : State) (d : Nat) : State := (getDie s d).mem.glines.foldl (fun s (l, _) => granClean s d l) s

/-- Package-scope acquire: clean lines go from every cluster's cache, and the clean bytes of dirty lines (10 R246). -/
def granAcquire (s : State) (d : Nat) : State :=
  modMem s d fun m => { m with
    glines := m.glines.filterMap fun (l, g) =>
      if g.dirty = [] then none
      else some (l, { g with
        data := g.data.filter fun (i, _) => spGet false g.dirty i
        held := g.held.filter fun (i, _) => spGet false g.dirty i })
    cached := m.cached.filter fun e => e.sp != .gran || !((gLine m e.line).dirty.isEmpty) }

/-! ### The cluster caches and the die directory (10 R238, R239, R241) -/

/-- The cluster's cache holds the line. -/
def cacheHas (m : MemSt) (cl : Nat) (sp : Space) (l : Nat) : Bool := m.cached.any fun e => e.cl == cl && e.sp == sp && e.line == l

/-- The directory records the line as held by some cluster. -/
def cacheAny (m : MemSt) (sp : Space) (l : Nat) : Bool := m.cached.any fun e => e.sp == sp && e.line == l

/-- `n` events of code `code` of the die's memory, which belong to no core (13 R338). -/
def countMem (s : State) (d code n : Nat) : State := modDie s d fun x => countDie x none code n

/-- The line leaves the cluster's cache, its dirty bytes written back; a Granary line that no cluster holds any more leaves the die. -/
def cacheDrop (s : State) (d cl : Nat) (sp : Space) (l : Nat) : State :=
  let m := (getDie s d).mem
  match m.cached.find? fun e => e.cl == cl && e.sp == sp && e.line == l with
  | none => s
  | some e =>
    let s := if sp = .gran && (gLine m l).own = cl then granClean s d l else s
    let s := if sp = .hbm then countMem s d 8 ((List.range 4).filter fun j => e.dirty.any fun i => i / 32 == j).length else s
    modMem s d fun m =>
      let m := { m with cached := m.cached.filter fun x => !(x.cl == cl && x.sp == sp && x.line == l) }
      if sp = .gran && !(cacheAny m sp l) then setGLine m l {} else m

/-- The directory invalidates every copy of the line on the die, writing back dirty bytes (10 R241). -/
def cacheDropAll (s : State) (d : Nat) (sp : Space) (l : Nat) : State :=
  let s := (List.range 4).foldl (fun s cl => cacheDrop s d cl sp l) s
  if sp = .gran then modMem (granClean s d l) d fun m => setGLine m l {} else s

/-- The line comes into the cluster's cache: in a set of 16 that are all held, a free choice says which one leaves (10 R238).  The sectors
read from HBM are counted (13 R338). -/
def cacheFill (s : State) (d cl : Nat) (sp : Space) (l : Nat) : State :=
  let s :=
    if cacheHas (getDie s d).mem cl sp l then s
    else
      let s := if sp = .hbm && !(cacheAny (getDie s d).mem sp l) then countMem s d 7 4 else s
      let set := (getDie s d).mem.cached.filter fun e => e.cl == cl && e.line % 8192 == l % 8192
      let s := if set.length < 16 then s else
        match set[Config.victim s.free % set.length]? with
        | some e => { cacheDrop s d cl e.sp e.line with free := s.free + 1 }
        | none => s
      modMem s d fun m => { m with cached := m.cached ++ [{ cl := cl, sp := sp, line := l }] }
  if sp = .gran then granFill s d l else s

/-- An access of a cluster's core looks its line up: a hit or a miss (13 R338), and the line comes in. -/
def cacheTake (s : State) (d cl : Nat) (sp : Space) (l : Nat) : State :=
  cacheFill (countMem s d (if cacheHas (getDie s d).mem cl sp l then 5 else 6) 1) d cl sp l

/-- The cluster takes the line exclusive to write its bytes `pa` to `pa` + `n` - 1: every other cluster's copy is invalidated, and the bytes
become dirty (10 R241). -/
def cacheOwn (s : State) (d cl : Nat) (sp : Space) (pa n l : Nat) : State :=
  let s := cacheFill s d cl sp l
  let s := if sp = .gran then modMem s d fun m => setGLine m l { gLine m l with own := cl } else s
  let s := (List.range 4).foldl (fun s c => if c = cl then s else cacheDrop s d c sp l) s
  modMem s d fun m => { m with cached := m.cached.map fun e =>
    if e.cl == cl && e.sp == sp && e.line == l && sp != .gran then
      { e with dirty := (List.range 128).filter fun i => e.dirty.contains i || (pa ≤ l * 128 + i && l * 128 + i < pa + n) }
    else e }

/-- A read that allocates no line: served from the cache of the cluster where it is present (10 R239; 11 R262), else from the point of
coherence. -/
def cacheLook (s : State) (d cl : Nat) (sp : Space) (pa n : Nat) (ca : Bool) : State :=
  let m := (getDie s d).mem
  let ls := physLines pa n
  let s := if ca && cl < 4 then ls.foldl (fun s l => countMem s d (if cacheHas m cl sp l then 5 else 6) 1) s else s
  if sp = .hbm then countMem s d 7 ((physSectors pa n).filter fun k => !(cacheAny m sp (k / 4))).length else s

/-! ### Host memory and the write-combining buffers -/

/-- The write-combining buffer of a cluster: entries of 128 bytes, the oldest first; each byte with its address. -/
def wcBuf (s : State) (d cl : Nat) : Mem := spGet [] (getDie s d).mem.wc cl

/-- The entries of a cluster's buffer whose lines meet `p` leave for the host: their bytes are globally observed (10 R246). -/
def wcLeave (s : State) (d cl : Nat) (p : Nat → Bool) : State :=
  let b := wcBuf s d cl
  let s := { s with host := (b.filter fun c => p (c.1 / 128)).foldl (fun m (a, v) => memSet m a v) s.host }
  modMem s d fun m => { m with wc := spSet [] m.wc cl (b.filter fun c => !(p (c.1 / 128))) }

/-- The host writes of a cluster become globally observed. -/
def wcDrain (s : State) (d cl : Nat) : State := wcLeave s d cl fun _ => true

/-- Do something for every buffer of the system. -/
def wcEach (s : State) (f : State → Nat → Nat → State) : State :=
  s.dies.foldl (fun s (d, x) => x.mem.wc.foldl (fun s (cl, _) => f s d cl) s) s

/-- Entries of these lines leave every buffer but the one of cluster `cl` of die `d`: a later write of their bytes comes after them in
coherence order (10 R252). -/
def wcYield (s : State) (d cl : Nat) (ls : List Nat) : State :=
  wcEach s fun s d' cl' => if d' = d ∧ cl' = cl then s else wcLeave s d' cl' fun l => ls.contains l

/-- How many lines of 128 bytes the buffer holds. -/
def wcLines (b : Mem) : Nat := (b.foldl (fun (l : List Nat) (a, _) => if l.contains (a / 128) then l else (a / 128) :: l) []).length

/-- Give a buffered address a byte, replacing the older one. -/
def wcPut (b : Mem) (a : Nat) : List Byte → Mem
  | [] => b
  | v :: t => wcPut (b.filter (fun c => c.1 ≠ a) ++ [(a, v)]) (a + 1) t

/-- A store accepted by the buffer; past 16 entries the oldest line leaves for the host. -/
def wcStore (s : State) (d cl pa : Nat) (bs : List Byte) : State :=
  let s := wcYield s d cl (physLines pa bs.length)
  let b := wcPut (wcBuf s d cl) pa bs
  let s := modMem s d fun m => { m with wc := spSet [] m.wc cl b }
  if wcLines b ≤ 16 then s else wcLeave s d cl fun l => l == (b.headD (0, 0)).1 / 128

/-- A byte of host memory as an agent of the part reads it: a buffered store that happens before the read is not missed (10 R253, R256). -/
def hostByte (s : State) (pa : Nat) : Byte :=
  match s.dies.findSome? fun (_, x) => x.mem.wc.findSome? fun (_, b) => b.find? fun c => c.1 = pa with
  | some c => c.2
  | none => memGet s.host pa

/-! ### Reads and writes by space -/

/-- A cluster number that names no cluster: the home of remote operations, the Reeve, the front end. -/
def noCluster : Nat := 4

/-- The bytes that an agent of die `d` reads. -/
def physRead (s : State) (d : Nat) (sp : Space) (pa n : Nat) : List Byte :=
  match sp with
  | .hbm => memRead (getDie s d).mem.hbm pa n
  | .gran => (List.range n).map fun i => granByte s d (pa + i)
  | .host => (List.range n).map fun i => hostByte s (pa + i)

/-- The error mark of sector `k` as a read finds it: 1 uncorrectable, 2 failed check, 3 poison. -/
def physMark (s : State) (d : Nat) (sp : Space) (k : Nat) : Nat :=
  match sp with
  | .hbm => hbmMark (getDie s d).mem k
  | .gran => granMark s d k
  | .host => sectorMark (spGet 0 s.herr k) (memRead s.host (32 * k) 32)

/-- The first error mark met by a read, with its sector. -/
def physErr (s : State) (d : Nat) (sp : Space) (pa n : Nat) : Option (Nat × Nat) :=
  (physSectors pa n).findSome? fun k => if physMark s d sp k = 0 then none else some (physMark s d sp k, k)

/-- A read corrects the sectors of HBM that hold one bad symbol: written back corrected, and counted (13 R325). -/
def physMend (s : State) (d : Nat) (sp : Space) (pa n : Nat) : State :=
  if sp = .hbm then
    (physSectors pa n).foldl (fun s k =>
      if spGet 0 (getDie s d).mem.herr k = 4 then
        countMem (modMem s d fun m => { m with herr := spDel m.herr k }) d 0x0B 1
      else s) s
  else s

/-- How a write meets the caches (10 R239): a store or an atomic by a cluster's core allocates the line; a Carter's write, or one from
outside the clusters, updates the coherent copy; a non-temporal or non-cacheable one invalidates it; and so does one to the host that the
write-combining buffer takes. -/
inductive WMode where
  | alloc | upd | nt | comb
deriving DecidableEq, Repr

/-- The caches meet a write of `n` bytes at `pa` (10 R239, R241). -/
def cacheWrite (s : State) (d cl : Nat) (sp : Space) (pa n : Nat) (m : WMode) : State :=
  let hbm := fun (s : State) (ks : List Nat) => if sp = .hbm then countMem s d 8 ks.length else s
  match m with
  | .alloc => (physLines pa n).foldl (fun s l => cacheOwn s d cl sp pa n l) s
  | .upd =>
    let s := hbm s ((physSectors pa n).filter fun k => !(cacheAny (getDie s d).mem sp (k / 4)))
    if sp = .gran then s
    else modMem s d fun x => { x with cached := x.cached.map fun e =>
      if e.sp == sp && (physLines pa n).contains e.line then
        { e with dirty := (List.range 128).filter fun i => e.dirty.contains i || (pa ≤ e.line * 128 + i && e.line * 128 + i < pa + n) }
      else e }
  | _ => hbm ((physLines pa n).foldl (fun s l => cacheDropAll s d sp l) s) (physSectors pa n)

/-- Write memory. -/
def physWrite (s : State) (d cl : Nat) (sp : Space) (pa : Nat) (bs : List Byte) (m : WMode) : State :=
  let s := cacheWrite s d cl sp pa bs.length m
  match sp with
  | .hbm => modMem s d fun x => hbmWrite x pa bs
  | .gran =>
    match m with
    | .alloc => modMem s d fun x => granPutAll x pa bs
    | _ => modMem (granStore s d pa bs) d fun x => granUpdate x pa bs
  | .host =>
    match m with
    | .comb => wcStore s d cl pa bs
    | _ =>
      let s := wcYield s d 4 (physLines pa bs.length)
      { s with host := memWrite s.host pa bs, herr := markWrite s.herr pa bs.length }

/-- Mark a sector as poisoned. -/
def physPoison (s : State) (d : Nat) (sp : Space) (k : Nat) : State :=
  match sp with
  | .hbm => modMem s d fun m => { m with herr := spSet 0 m.herr k 3 }
  | .gran => modPkg s (pkgOf d) fun p => { p with gerr := spSet 0 p.gerr k 3 }
  | .host => { s with herr := spSet 0 s.herr k 3 }

/-- A read by `w` finds an error of mark `m` in sector `k`: the sector is poisoned from then on (13 R326), and a failed check is counted
and a machine check of kind 2 (13 R332). -/
def physDetect (s : State) (w : Who) (sp : Space) (k m : Nat) : State :=
  let s := physPoison s w.die sp k
  if m = 2 then machineCheck (countEv s w 0x0D 1) w 2 0 true (32 * k) 0 else s

/-- The cause of a read that meets mark `m` with no poison-as-zero (13 R327, R332). -/
def markCause (m : Nat) : Nat := if m = 2 then 0x10 else if m = 1 then 0x11 else 0x0F

/-- The cluster of a core. -/
def clusterOf (w : Who) : Nat := w.core / 8

end Sys2Proof.Machine
end

