-- ==== Sys2Proof/Machine/Window.lean ====
section
/-!
DEFINITION. Export windows (17 R431, R432, R441).
-/
namespace Sys2Proof.Machine
open Sys2Proof

/-- An entry of the export window table (17 R431). -/
structure Win where
  v : Bool
  kind : Nat
  pmax : Nat
  bn : Bool
  pz : Bool
  base : Nat
  len : Nat
deriving DecidableEq, Repr

/-- Window `i` of die `d`, read from the table in the die's HBM. -/
def windowAt (s : State) (d i : Nat) : Win :=
  let m := (getDie s d).mem.hbm
  let a := (getDie s d).fab.ewbase.toNat + 32 * i
  let ctl := leNat (memRead m a 8)
  { v := ctl % 2 = 1, kind := ctl / 2 % 8, pmax := ctl / 16 % 256, bn := ctl / 2 ^ 12 % 2 = 1, pz := ctl / 2 ^ 13 % 2 = 1,
    base := leNat (memRead m (a + 8) 8), len := leNat (memRead m (a + 16) 8) }

/-- The memory that a window of kind `k` exports. -/
def kindSpace (k : Nat) : Space := if k = 3 then .gran else if k = 4 then .host else .hbm

/-- The V bit alone. -/
def windowValid (s : State) (d i : Nat) : Bool :=
  (memGet (getDie s d).mem.hbm ((getDie s d).fab.ewbase.toNat + 32 * i)).getLsbD 0

/-- Scratchpad offset and core of a tile or barrier window's base. -/
def winOff (x : Win) : Nat := x.base % 2 ^ 23

def winCore (x : Win) : Nat := x.base / 2 ^ 23 % 32

/-- The tile address of slot `j` of a core: its export address in the lowest-numbered valid tile window that covers it, or 0
(17 R441). -/
def tileAddr (s : State) (w : Who) (j : Nat) : Nat :=
  ((List.range 1024).findSome? fun i =>
    if windowValid s w.die i then
      let x := windowAt s w.die i
      if x.kind = 1 ∧ winCore x = w.core ∧ winOff x ≤ j * 4096 ∧ (j + 1) * 4096 ≤ winOff x + x.len then
        some (i * 2 ^ 54 + (j * 4096 - winOff x))
      else none
    else none).getD 0

end Sys2Proof.Machine
end

