-- ==== Sys2Proof/Machine/Tile.lean ====
section
/-!
DEFINITION. Tags, permits and waits on tiles (05 R132 to R137; 08 R208 to R218; 17 R441).
-/
namespace Sys2Proof.Machine
open Sys2Proof

/-! ### Operand words (08 R208, R209) -/

/-- check_tile. -/
def checkTile (c : Ctx) (o : Word) (k : Nat → Res) : Res :=
  if o.toNat ≥ spEnd then .trap 0x04 o
  else if o.toNat % 4096 ≠ 0 then .trap 0x03 o
  else if !(ownsSlot c (o.toNat / 4096)) then .trap 0x04 o
  else k (o.toNat / 4096)

/-- A grant target that breaks no rule of 08 R209. -/
def grantOk (s : State) (v : Word) : Bool :=
  bits v 22 42 == 0 && (bit v 20 || !(bit v 21)) && dieOk s (bits v 0 15)

/-! ### Launches and permits -/

/-- A launch's identifier, across packages. -/
def launchKey (j : Job) : Nat := j.pkg * 2 ^ 32 + j.launch

/-- The launch of a context, if it holds a job. -/
def ctxLaunch (c : Ctx) : Option Nat := c.job.map launchKey

/-- The launch has not completed. -/
def launchLives (s : State) (l : Nat) : Bool := (getPkg s (l / 2 ^ 32)).launches.any fun x => x.id == l % 2 ^ 32

/-- The data bytes of a message. -/
def msgData (m : Msg) : List Byte := m.bytes ++ (m.land.map Landing.bytes).getD [] ++ m.words.flatMap wordBytes8

/-- The flits of a message: 6 sectors of data after the message header in the first, 7 in each further one (17 R417). -/
def msgFlits (m : Msg) : Nat := 1 + (((msgData m).length + 31) / 32 - 6 + 6) / 7

/-- The virtual channel of a kind: 0 request, 1 response, 2 control, 3 debug (17 R418). -/
def msgVc : MKind → Nat
  | .landAck | .reply | .tgetAck | .bndsAns | .bAck | .bBusy | .bStale | .bCommitAck | .bCommitNack | .bAbortAck | .bData | .superseded
  | .committed | .unknown => 1
  | .permit | .prep | .bkAck | .bkNack | .bkCommit | .bkCommitAck | .bkCommitNack | .bkAbort | .wound | .refuse | .gang | .bCommit
  | .bAbort | .beacon | .replayStart => 2
  | .stop | .snap | .replayHalt => 3
  | .landing | .remote | .tget | .bndsReq | .prepare | .readCur | .readExact | .query => 0

/-- The booking to whose traffic a message belongs: that of the job whose Carter command it serves (12 R275; 17 R418). -/
def msgOwner (s : State) (m : Msg) : Nat :=
  match m.kind with
  | .landing | .landAck | .tget | .tgetAck | .prepare | .bAck | .bBusy | .bStale | .bCommit | .bCommitAck | .bCommitNack | .bAbort | .bAbortAck =>
    match (getCtx s m.w).job with
    | some j => if j.bkd && m.agent ≥ 3 then m.w.die * 2 ^ 20 + j.handle % 2 ^ 20 else 0
    | none => 0
  | _ => 0

/-- The flits of message number `num`, unformed. -/
def flitsOf (s : State) (num : Nat) (m : Msg) : List Flit :=
  let n := msgFlits m
  (List.range n).map fun k =>
    { msg := num, idx := k, nfl := n - 1 - k, typ := 1 + (Config.msgType m.kind.ctorIdx).toNat % 127, vc := msgVc m.kind, dst := m.dst, own := msgOwner s m }

/-- A message leaves: its flits join the output queue of the first link of its way (17 R422).  One to its own die, or made by a router on the
way (`port` 1), crosses no link. -/
def send (s : State) (m : Msg) : State :=
  match (if m.port = 1 then [] else route s m.src m.dst) with
  | [] => { s with net := s.net ++ [m] }
  | (_, p) :: _ =>
    let n := (getDie s m.src).fab.msgN + 1
    let num := n * 2 ^ 15 + m.src % 2 ^ 15
    let s := modPort (modDie s m.src fun d => { d with fab := { d.fab with msgN := n } }) m.src p fun x => { x with outq := x.outq ++ flitsOf s num m }
    { s with net := s.net ++ [{ m with num := num, need := msgFlits m }] }

/-- Send one permit for slot `j` of `w`'s core to grant target `v` (05 R137, 17 R441): a control message. -/
def sendPermit (s : State) (w : Who) (j : Nat) (v : Word) : State :=
  let gt := tagGtag (getCore s w) j
  let l := (ctxLaunch (getCtx s w)).getD 0
  let m : Msg :=
    { kind := .permit, src := w.die, dst := bits v 0 15, w := w, addr := w64 (tileAddr s w j), opnd := w64 gt, opnd2 := v,
      words := [w64 l] }
  send s m

/-- PCNT gains 1 and a permit leaves, unless PCNT is 255. -/
def grantPermit (s : State) (w : Who) (j : Nat) (v : Word) : Option State :=
  let y := getCore s w
  if tagPcnt y j = 255 then none else some (sendPermit (setCore s w (setPcnt y j (tagPcnt y j + 1))) w j v)

/-- The permits of an entry. -/
def samePermit (p q : Permit) : Bool :=
  p.die == q.die && p.core == q.core && p.gtag == q.gtag && p.addr == q.addr && p.launch == q.launch && p.csel == q.csel && p.cctx == q.cctx

/-- Enter a permit in a permit table of 64 entries, if there is room. -/
def tableAdd (l : List Permit) (p : Permit) : Option (List Permit) :=
  if l.any fun q => samePermit p q then some (l.map fun q => if samePermit p q then { q with count := q.count + 1 } else q)
  else if l.length < 64 then some (l ++ [{ p with count := 1 }])
  else none

/-- The context of a core that receives a launch's permit or landing, with CSEL and CTX (08 R209). -/
def recvCtx (y : Core) (l : Nat) (csel : Bool) (x : Nat) : Option Nat :=
  let runs := fun i => ctxLaunch (coreCtx y i) == some l && (coreCtx y i).saving.isNone
  if csel then (if runs x then some x else none)
  else if runs 0 then some 0
  else if runs 1 then some 1
  else none

/-- A permit at core `k` of die `d`: entered, or not; a stopped context takes none (13 R340). -/
def permitEnter (s : State) (d k : Nat) (p : Permit) : Option State :=
  let w : Who := ⟨d, k, 0⟩
  match recvCtx (getCore s w) p.launch p.csel p.cctx with
  | none => none
  | some x =>
    let w := { w with ctx := x }
    if (getCtx s w).halted then none else
    (tableAdd (getCtx s w).permits p).map fun t => setCtx s w { getCtx s w with permits := t }

/-! ### Messages -/

/-- Message `n` is the first of its source, destination and virtual channel. -/
def msgFirst (s : State) (n : Nat) : Option Msg :=
  match s.net[n]? with
  | none => none
  | some m =>
    if (s.net.take n).any fun x => x.src == m.src && x.dst == m.dst && msgVc x.kind == msgVc m.kind then none else some m

/-- Booking messages, and bundle messages to a home. -/
def heldKind : MKind → Bool
  | .prep | .bkAck | .bkNack | .bkCommit | .bkCommitAck | .bkCommitNack | .bkAbort | .wound | .refuse | .gang | .prepare | .readCur | .readExact
  | .bCommit | .bAbort => true
  | _ => false

/-- A message waits at the ingress of its die, which is stopped (17 R452). -/
def heldAt (s : State) (m : Msg) : Bool := heldKind m.kind && (getDie s m.dst).stopped

/-- Message `n` arrives: its flits have come, and every link of its route is up, or a router on the way has made it (`port` 1; 17 R420). -/
def msgAt (s : State) (n : Nat) : Option Msg :=
  (msgFirst s n).bind fun m => if (m.port = 1 || pathUp s m.src m.dst) && m.need ≤ m.got && !(heldAt s m) then some m else none

/-- Message `n` of kind `k` must cross a link that is down (17 R420). -/
def msgCut (s : State) (n : Nat) (k : MKind) : Option Msg :=
  (msgFirst s n).bind fun m => if m.kind = k && m.port ≠ 1 && pathDown s m.src m.dst then some m else none

/-- Message `n` of one of some kinds. -/
def msgOf (s : State) (n : Nat) (k : MKind) : Option Msg :=
  match msgAt s n with
  | none => none
  | some m => if m.kind = k then some m else none

def dropMsg (s : State) (n : Nat) : State := { s with net := s.net.eraseIdx n }

/-- Message `ev.k` is not taken: one that must cross a link that is down ends (17 R420); one held at a stopped die is reported, once, as in
flight (R452). -/
def stayMsg (s : State) (k : MKind) : State :=
  match msgCut s s.ev.k k, msgFirst s s.ev.k with
  | some _, _ => dropMsg s s.ev.k
  | none, some m =>
    if m.kind = k && heldAt s m && !m.told then
      tellMoot { s with net := s.net.set s.ev.k { m with told := true } } { kind := 5, w := ⟨m.dst, 0, 0⟩, val := m.addr }
    else s
  | none, none => s

/-- PERMIT_ARRIVAL (08 R209): message `ev.k` reaches its core; with no entry or context it waits (05 R137); with its launch complete it is
discarded. -/
def execPermitArrival (s : State) : Host.Outcome State Fault Refusal :=
  match msgOf s s.ev.k .permit with
  | none => .next (stayMsg s .permit)
  | some m =>
    let p : Permit :=
      { die := m.src, core := m.w.core, gtag := m.opnd.setWidth 48, addr := m.addr, launch := (m.words.headD 0).toNat,
        csel := bit m.opnd2 20, cctx := bits m.opnd2 21 1, count := 1 }
    let k := bits m.opnd2 15 5
    let s := dropMsg s s.ev.k
    match permitEnter s m.dst k p with
    | some t => .next t
    | none =>
      let w : Who := ⟨m.dst, k, ((recvCtx (getCore s ⟨m.dst, k, 0⟩) p.launch p.csel p.cctx).getD 0)⟩
      let s := if (getCtx s w).halted then tellMoot s { kind := 5, w := w, val := p.addr } else s
      if launchLives s p.launch then .next (modDie s m.dst fun d => { d with fab := { d.fab with permq := d.fab.permq ++ [(k, p)] } })
      else .next s

/-- A permit that a context of this core and launch has granted is still on its way, or waits for its table (15 R372).  A release at system
scope waits for it (notes/assumptions/61.md). -/
def grantsOut (s : State) (w : Who) : Bool :=
  let l := ctxLaunch (getCtx s w)
  (s.net.any fun m => m.kind == .permit && m.src == w.die && m.w.core == w.core && some (m.words.headD 0).toNat == l) ||
    (allDies s).any fun d => (getDie s d).fab.permq.any fun p => p.2.die == w.die && p.2.core == w.core && some p.2.launch == l

/-- PERMIT_ENTER (05 R137): waiting permit `ev.k` of die `ev.w.die` enters its table, or goes with its launch. -/
def execPermitEnter (s : State) : Host.Outcome State Fault Refusal :=
  let d := s.ev.w.die
  match (getDie s d).fab.permq[s.ev.k]? with
  | none => .next s
  | some (k, p) =>
    let t := modDie s d fun x => { x with fab := { x.fab with permq := x.fab.permq.eraseIdx s.ev.k } }
    match permitEnter t d k p with
    | some u => .next u
    | none => .next (if launchLives s p.launch then s else t)

/-! ### Entries -/

/-- The slots of a set that are in the context's ways. -/
def setSlots (c : Ctx) (t : Nat) : List Nat := ((List.range 8).map (8 * t + ·)).filter (ownsSlot c)

/-- The entry of slot `j` is valid and holds global tag `g`. -/
def tagHolds (y : Core) (g j : Nat) : Bool := bit (tagOf y j) 0 && tagGtag y j == g

/-- A tile emptied of data: its written bits go (05 R130). -/
def emptyTile (y : Core) (j : Nat) : Core :=
  { y with
    wr := y.wr.filter fun e => e.1 / 128 ≠ j
    clean := y.clean.filter fun e => e.1 / 2 ≠ j }

/-- Replace the entry of slot `j`. -/
def putEntry (s : State) (w : Who) (j : Nat) (v : Word) : State := modCore (changeFull s w j false 0) w fun y => setTag (emptyTile y j) j v

/-- A tag instruction changes FULL of slot `j` in its place of the cycle, or in the next (05 R135). -/
def tagPlace (s : State) (j : Nat) (b : Bool) (k : Res) : Res := if tagTurn s (me s) j b 0 then k else .hold

/-! ### The instructions (08 R211 to R218) -/

def execTlkp (d : RC) (a : Src) (s : State) : Host.Outcome State Fault Refusal :=
  runAccess s fun s => withOps s (wordOf (.tlkp d a)) [a] [] d fun s vs =>
    let w := me s
    let js := setSlots (getCtx s w) (tagSet (opv vs 0))
    let y := getCore s w
    sensed s js (.ok (putDst s d (match js.find? (tagHolds y (tileOf (opv vs 0))) with
      | some j => w64 j
      | none => -1)) .seq)

/-- The entry that TSET writes (05 R133). -/
def tsetEntry (a : Word) (pin : Bool) : Word := w64 (tileOf a * 2 ^ 16 + (if pin then 8 else 0) + 1)

def execTset (d : RC) (a b : Src) (s : State) : Host.Outcome State Fault Refusal :=
  runAccess s fun s => withOps s (wordOf (.tset d a b)) [a, b] [] d fun s vs =>
    let w := me s
    let c := getCtx s w
    let x := opv vs 1
    let o := w64 (bits x 0 23)
    if bits x 23 9 ≠ 0 ∨ bits x 33 31 ≠ 0 then .trap 0x01 x
    else
      checkTile c o fun j =>
        sensed s (j :: setSlots c (tagSet (opv vs 0))) (rangeMine s o.toNat 4096 true
          (let y := getCore s w
           if bit (tagOf y j) 3 then .ok (putDst s d 1) .seq
           else if j / 8 ≠ tagSet (opv vs 0) then .ok (putDst s d 2) .seq
           else if (setSlots c (j / 8)).any fun k => k ≠ j && tagHolds y (tileOf (opv vs 0)) k then .ok (putDst s d 3) .seq
           else tagPlace s j false (.ok (putDst (putEntry s w j (tsetEntry (opv vs 0) (bit x 32))) d 0) .seq)))

def execTinv (d : RC) (a : Src) (s : State) : Host.Outcome State Fault Refusal :=
  runAccess s fun s => withOps s (wordOf (.tinv d a)) [a] [] d fun s vs =>
    let w := me s
    let c := getCtx s w
    let x := opv vs 0
    let o := w64 (bits x 0 23)
    if bits x 23 9 ≠ 0 ∨ bits x 33 31 ≠ 0 then .trap 0x01 x
    else
      checkTile c o fun j =>
        sensed s [j] (rangeMine s o.toNat 4096 true
          (let y := getCore s w
           if bit (tagOf y j) 3 && !(bit x 32) then .ok (putDst s d 1) .seq
           else tagPlace s j false (.ok (putDst (putEntry s w j 0) d 0) .seq)))

def execTstat (d : RC) (a : Src) (s : State) : Host.Outcome State Fault Refusal :=
  runAccess s fun s => withOps s (wordOf (.tstat d a)) [a] [] d fun s vs =>
    checkTile (getCtx s (me s)) (opv vs 0) fun j =>
      sensed s [j] (putTiming (sawFull s (me s) 0 j) d (tagOf (getCore s (me s)) j))

def execTfull (a : Src) (s : State) : Host.Outcome State Fault Refusal :=
  runAccess s fun s => withOps s (wordOf (.tfull a)) [a] [] noDst fun s vs =>
    let c := getCtx s (me s)
    checkTile c (opv vs 0) fun j =>
      sensed s [j] (rangeMine s (j * 4096) 4096 true (tagPlace s j true (.ok (changeFull s (me s) j true 0) .seq)))

/-- A wait on a tile's tag: the object is its global tag, the second value its slot and what is awaited (01 R18, 05 R152). -/
def tagWait (y : Core) (j want : Nat) : Res := .wait 3 (w64 (tagGtag y j)) (w64 (j * 4096 + want))

/-- The order point of a full/empty transition observed (13 R342 KIND 0x03). -/
def tagObserved (s : State) (w : Who) (eng j : Nat) (full : Bool) : State :=
  orderPoint (sawFull s w eng j) w eng 3 (tagGtag (getCore s w) j) (if full then 1 else 0)

def ttakeBody (word : Word) (d : RC) (a b : Src) (s : State) : Res :=
  withOps s word [a, b] [] d fun s vs =>
    let w := me s
    let c := getCtx s w
    let grants := b != .g 0
    checkTile c (opv vs 0) fun j =>
      if grants && !(grantOk s (opv vs 1)) then .trap 0x01 (opv vs 1)
      else
        let y := getCore s w
        sensed s [j] (if !(tagFull y j) then tagWait y j 0
          else
            rangeMine s (j * 4096) 4096 false
              (tagPlace s j false
                (let s := changeFull (tagObserved s w 0 j true) w j false 0
                 if grants then
                   match grantPermit s w j (opv vs 1) with
                   | some s => .ok (putDst s d 0) .seq
                   | none => .ok (putDst s d 1) .seq
                 else .ok (putDst s d 0) .seq)))

def execTtake (d : RC) (a b : Src) (s : State) : Host.Outcome State Fault Refusal :=
  runAccess s (ttakeBody (wordOf (.ttake d a b)) d a b)

def execTwait (a : Src) (s : State) : Host.Outcome State Fault Refusal :=
  runAccess s fun s => withOps s (wordOf (.twait a)) [a] [] noDst fun s vs =>
    let w := me s
    let x := opv vs 0
    if bits x 23 9 ≠ 0 ∨ bits x 33 31 ≠ 0 then .trap 0x01 x
    else
      checkTile (getCtx s w) (w64 (bits x 0 23)) fun j =>
        let y := getCore s w
        sensed s [j] (if tagFull y j == bit x 32 then tagWait y j (if bit x 32 then 1 else 0)
          else .ok (tagObserved s w 0 j (tagFull y j)) .seq)

def execTgrant (d : RC) (a b : Src) (s : State) : Host.Outcome State Fault Refusal :=
  runAccess s fun s => withOps s (wordOf (.tgrant d a b)) [a, b] [] d fun s vs =>
    let w := me s
    checkTile (getCtx s w) (opv vs 0) fun j =>
      if !(grantOk s (opv vs 1)) then .trap 0x01 (opv vs 1)
      else
        sensed s [j] (if !(bit (tagOf (getCore s w) j) 0) then .ok (putDst s d 2) .seq
          else
            match grantPermit s w j (opv vs 1) with
            | some s => .ok (putDst s d 0) .seq
            | none => .ok (putDst s d 1) .seq)

end Sys2Proof.Machine
end

