-- ==== Sys2Proof/Machine/Translate.lean ====
section
/-!
DEFINITION. Page tables, the walk, the translation caches (13 R307 to R314, R479).
-/
namespace Sys2Proof.Machine
open Sys2Proof

/-! ### Page-table entries (13 R308) -/

def pteV (e : Word) : Bool := bit e 0

def pteT (e : Word) : Bool := bit e 1

def pteRD (e : Word) : Bool := bit e 2

def pteWR (e : Word) : Bool := bit e 3

def pteAT (e : Word) : Bool := bit e 4

def pteBN (e : Word) : Bool := bit e 5

def pteCA (e : Word) : Bool := bit e 6

def ptePZ (e : Word) : Bool := bit e 9

def pteCH (e : Word) : Bool := bit e 10

def ptePA (e : Word) : Nat := bits e 16 36 * 2 ^ 16

def pteMem (e : Word) : Nat := bits e 7 2

def pteSpace (e : Word) : Space := if pteMem e = 0 then .hbm else if pteMem e = 1 then .gran else .host

/-- Reserved bits set (13 R309). -/
def pteRsv (e : Word) : Bool := bits e 52 12 ≠ 0 || bits e 11 5 ≠ 0

/-- Bits of the leaf size: 16, 21, 29 or 34 (13 R307). -/
def leafLog (level : Nat) (e : Word) : Nat :=
  if level = 1 then (if pteCH e then 21 else 16) else (if pteCH e then 34 else 29)

/-- The leaf's range lies in the memory installed (13 R479). -/
def pteInstalled (s : State) (d : Nat) (e : Word) (log : Nat) : Bool :=
  match pteSpace e with
  | .hbm => ptePA e + 2 ^ log ≤ hbmSize
  | .gran => ptePA e % 2 ^ 41 + 2 ^ log ≤ granCap (getPkg s (pkgOf d)) (granPort (ptePA e))
  | .host => ptePA e + 2 ^ log ≤ 2 ^ 52

/-- A leaf breaks no rule of 13 R309. -/
def leafOk (s : State) (d level : Nat) (e : Word) : Bool :=
  let log := leafLog level e
  !(pteRsv e) && pteMem e ≠ 3 && ptePA e % 2 ^ log = 0 && !(pteBN e && pteMem e ≠ 0) && pteInstalled s d e log

/-- A table entry breaks no rule of 13 R309. -/
def tableOk (e : Word) : Bool := !(pteRsv e) && bits e 2 9 = 0 && ptePA e + 2 ^ 16 ≤ hbmSize

/-- An entry of a table in this die's HBM (13 R307, R310). -/
def pteAt (s : State) (d table idx : Nat) : Word := w64 (leNat (memRead (getDie s d).mem.hbm (table + 8 * idx) 8))

/-- A leaf as a translation: entry and size. -/
structure Leaf where
  pte : Word
  log : Nat
deriving DecidableEq, Repr

/-- The walk from level `n` + 1 down, its entries read by `look` from level and table (13 R307, R309): none is not present (0x04). -/
def walkFrom (s : State) (d : Nat) (look : Nat → Nat → Word) : Nat → Nat → Option Leaf
  | 0, _ => none
  | n + 1, table =>
    let e := look n table
    if !(pteV e) then none
    else if pteT e then (if n = 0 then none else if tableOk e then walkFrom s d look n (ptePA e) else none)
    else if n = 2 then none
    else if leafOk s d (n + 1) e then some ⟨e, leafLog (n + 1) e⟩
    else none

/-- The entry of the table at `table` that translates `va` at level `n` + 1. -/
def lookMem (s : State) (d va n table : Nat) : Word := pteAt s d table (va / 2 ^ (16 + 13 * n) % 2 ^ 13)

/-- The root of a translation context (13 R312). -/
def xctxRoot (x : Word) : Nat := bits x 16 36 * 2 ^ 16

def xctxAsid (x : Word) : Nat := bits x 0 16

/-- The walk of a canonical address through the tables in memory. -/
def walkVa (s : State) (d : Nat) (x va : Word) : Option Leaf :=
  if canonical va then walkFrom s d (lookMem s d (va.toNat % 2 ^ 55)) 3 (xctxRoot x) else none

/-! ### The walker's cache (13 R311) -/

/-- A cached entry of the levels 3 and 2. -/
def upperHit (t : TlbSt) (asid va n : Nat) : Option Word :=
  (t.upper.find? fun e => e.asid == asid && e.level == n && e.tag == va / 2 ^ (16 + 13 * n)).map UpperEnt.pte

/-- The walker reads an entry of a table, from its cache where it holds it. -/
def lookUp (s : State) (d asid va n table : Nat) : Word := (upperHit (getDie s d).tlb asid va n).getD (lookMem s d va n table)

/-- The tables that a walk passes below level `n` + 1: levels, tables and the entries that name the next. -/
def walkPath (look : Nat → Nat → Word) : Nat → Nat → List (Nat × Nat × Word)
  | 0, _ => []
  | n + 1, table =>
    let e := look n table
    (n, table, e) :: if pteV e && pteT e && tableOk e then walkPath look n (ptePA e) else []

/-- A cache of `cap` entries takes one more; a free choice says which one leaves a full cache. -/
def boundedPut {α : Type} (cap k : Nat) (l : List α) (x : α) : List α :=
  if l.length < cap then l ++ [x] else l.eraseIdx (Config.victim k % cap) ++ [x]

/-- A walk is event 0x09, the entries that it reads from memory are sectors read from HBM, and the walker keeps those that name tables. -/
def walkNotes (s : State) (d asid va : Nat) (path : List (Nat × Nat × Word)) : State :=
  path.foldl (fun s (n, table, e) =>
    if (upperHit (getDie s d).tlb asid va n).isSome then s
    else
      let s := cacheLook s d noCluster .hbm (table + 8 * (va / 2 ^ (16 + 13 * n) % 2 ^ 13)) 8 false
      if 1 ≤ n && pteV e && pteT e && tableOk e then
        modDie s d fun x => { x with tlb := { x.tlb with
          upper := boundedPut 256 s.free x.tlb.upper { asid := asid, level := n, tag := va / 2 ^ (16 + 13 * n), pte := e } } }
      else s) (modDie s d fun x => countDie x none 9 1)

/-! ### The TLBs (13 R311, R313) -/

/-- Who asks for a translation: the access core of core `c`, through its µTLB; what goes to the core TLB first; the die. -/
inductive Via where
  | access (c : Nat)
  | core (c : Nat)
  | die
deriving DecidableEq, Repr

def entHit (l : List TlbEnt) (asid va : Nat) : Option TlbEnt := l.find? fun e => e.asid = asid && !e.dying && va / 2 ^ e.log = e.base

/-- An entry of the die TLB that gives a hit. -/
def tlbHit (t : TlbSt) (asid va : Nat) : Option TlbEnt := entHit t.ents asid va

/-- An entry of the µTLB that gives a hit. -/
def microHit (d : Die) (v : Via) (asid va : Nat) : Option TlbEnt :=
  match v with
  | .access c => entHit (dieCore d c).utlb asid va
  | _ => none

/-- An entry of the core TLB that gives a hit. -/
def coreHit (d : Die) (v : Via) (asid va : Nat) : Option TlbEnt :=
  match v with
  | .access c => entHit (dieCore d c).ctlb asid va
  | .core c => entHit (dieCore d c).ctlb asid va
  | .die => none

/-- The entries of the die TLB's set that an entry belongs to. -/
def setMates (t : TlbSt) (e : TlbEnt) : List TlbEnt :=
  t.ents.filter fun x => Config.tlbSet x.asid x.base x.log % 1024 == Config.tlbSet e.asid e.base e.log % 1024

/-- The set has a way that no count holds (13 R313). -/
def setRoom (t : TlbSt) (e : TlbEnt) : Bool := (setMates t e).length < 16 || (setMates t e).any fun x => x.count == 0

/-- An entry comes into the die TLB; in a full set one leaves that no count holds. -/
def dieEnter (k : Nat) (d : Die) (e : TlbEnt) : Die :=
  let free := (setMates d.tlb e).filter fun x => x.count == 0
  if (setMates d.tlb e).length < 16 then { d with tlb := { d.tlb with ents := d.tlb.ents ++ [e] } }
  else
    match free[Config.victim k % free.length]? with
    | some x => { d with tlb := { d.tlb with ents := d.tlb.ents.erase x ++ [e] } }
    | none => d

/-- An entry comes into the core TLB and the µTLB of who asks. -/
def coreEnter (k : Nat) (v : Via) (e : TlbEnt) (d : Die) : Die :=
  let put := fun (c : Nat) (micro : Bool) =>
    let y := dieCore d c
    let y := if y.ctlb.any fun x => x.gen == e.gen && x.base == e.base then y else { y with ctlb := boundedPut 256 k y.ctlb e }
    dieSetCore d c (if micro then { y with utlb := boundedPut 32 k y.utlb e } else y)
  match v with
  | .access c => put c true
  | .core c => put c false
  | .die => d

/-- Fill the TLBs with a leaf. -/
def tlbFill (k : Nat) (d : Die) (v : Via) (asid va : Nat) (l : Leaf) : Die :=
  let e : TlbEnt := { asid := asid, base := va / 2 ^ l.log, log := l.log, pte := l.pte, gen := d.tlb.next }
  coreEnter k v e (dieEnter k { d with tlb := { d.tlb with next := d.tlb.next + 1 } } e)

/-- A translation of `va`: the space, the physical address, the entry and its name. -/
structure Xl where
  sp : Space
  pa : Nat
  pte : Word
  asid : Nat
  base : Nat
deriving DecidableEq, Repr

/-- The name of an entry: its fill, base and size. -/
def tlbName (gen base log : Nat) : Nat := (gen * 2 ^ 50 + base) * 64 + log

def mkXl (asid va : Nat) (pte : Word) (log gen : Nat) : Xl :=
  { sp := pteSpace pte, pa := ptePA pte + va % 2 ^ log, pte := pte, asid := asid, base := tlbName gen (va / 2 ^ log) log }

/-- Translate an address at issue: a hit uses the cached entry, a miss walks and fills; a result that is not present is never cached
(13 R310, R311).  An entry that the core TLB alone holds comes into the die TLB again. -/
def translate (s : State) (d : Nat) (v : Via) (x va : Word) : State × Option Xl :=
  let asid := xctxAsid x
  let a := va.toNat % 2 ^ 55
  let y := getDie s d
  if !(canonical va) then (s, none)
  else
    let from_ := fun (e : TlbEnt) => some (mkXl asid a e.pte e.log e.gen)
    match microHit y v asid a, coreHit y v asid a, tlbHit y.tlb asid a with
    | some e, _, _ => (s, from_ e)
    | none, some e, h =>
      (modDie s d fun y => coreEnter s.free v e (if h.isSome then y else dieEnter s.free y { e with count := 0 }), from_ e)
    | none, none, some e => (modDie s d (coreEnter s.free v { e with count := 0 }), from_ e)
    | none, none, none =>
      let look := lookUp s d asid a
      let t := walkNotes s d asid a (walkPath look 3 (xctxRoot x))
      match walkFrom s d look 3 (xctxRoot x) with
      | none => (t, none)
      | some l => (modDie t d fun y => tlbFill s.free y v asid a l, some (mkXl asid a l.pte l.log y.tlb.next))

/-- A translation must enter a set of the die TLB whose ways all have counts: it waits (13 R313). -/
def xlWaits (s : State) (d : Nat) (v : Via) (x va : Word) : Bool :=
  let asid := xctxAsid x
  let a := va.toNat % 2 ^ 55
  let y := getDie s d
  canonical va && (microHit y v asid a).isNone && (tlbHit y.tlb asid a).isNone &&
    match coreHit y v asid a with
    | some e => !(setRoom y.tlb e)
    | none =>
      match walkFrom s d (lookUp s d asid a) 3 (xctxRoot x) with
      | none => false
      | some l => !(setRoom y.tlb { asid := asid, base := a / 2 ^ l.log, log := l.log, pte := l.pte })

/-- Entries go (13 R314): at once from every µTLB and core TLB and, as `q` says, from the walker's cache; those of the die TLB are dying,
and go as soon as no count holds them. -/
def tlbKill (p : TlbEnt → Bool) (q : UpperEnt → Bool) (d : Die) : Die :=
  let ents := d.tlb.ents.map fun e => if p e then { e with dying := true } else e
  { d with
    tlb := { d.tlb with ents := ents.filter fun e => !(e.dying && e.count == 0), upper := d.tlb.upper.filter fun e => !(q e) }
    cores := spMap {} d.cores fun y => { y with utlb := y.utlb.filter fun e => !(p e), ctlb := y.ctlb.filter fun e => !(p e) } }

/-- The in-flight count of an entry rises or falls (13 R313); a dying entry at zero goes. -/
def tlbCount (d : Die) (asid base : Nat) (up : Bool) : Die :=
  let f := fun (e : TlbEnt) =>
    if e.asid = asid && tlbName e.gen e.base e.log = base then { e with count := if up then e.count + 1 else e.count - 1 } else e
  { d with tlb := { d.tlb with ents := (d.tlb.ents.map f).filter fun e => !(e.dying && e.count == 0) } }

/-- Translate every 64 KiB granule of a range; the first failure is an address and a cause, cause 0 where the translation waits (13 R313).
`need` names the attributes required by their bits in the entry. -/
def translateRange (s : State) (d : Nat) (v : Via) (x va : Word) (need : Word → Bool) : Nat → State × Except (Nat × Word) (List Xl)
  | 0 => (s, .ok [])
  | n + 1 =>
    if xlWaits s d v x va then (s, .error (0, va))
    else
    match translate s d v x va with
    | (s, none) => (s, .error (4, va))
    | (s, some l) =>
      if !(need l.pte) then (s, .error (5, va))
      else
        match translateRange s d v x (w64 ((va.toNat / 2 ^ 16 + 1) * 2 ^ 16)) need n with
        | (s, .error e) => (s, .error e)
        | (s, .ok ls) => (s, .ok (l :: ls))

/-- The outcome of a range that does not translate: a trap, or the interlock of 13 R313. -/
def rangeRes (cause : Nat) (va : Word) : Res := if cause = 0 then .hold else .trap cause va

/-- How many 64 KiB granules `n` bytes from `va` touch. -/
def granules (va n : Nat) : Nat := if n = 0 then 0 else (va + n - 1) / 2 ^ 16 - va / 2 ^ 16 + 1

end Sys2Proof.Machine
end

