-- ==== Sys2Proof/Machine/Desc.lean ====
section
/-!
DEFINITION. Stream descriptors: their fields, element positions, binding and cursor (05 R138 to R142; 08 R219 to R222).
-/
namespace Sys2Proof.Machine
open Sys2Proof

/-! ### Fields (05 R138) -/

abbrev Img := BitVec 512

/-- Bits `lo` to `lo + n - 1` of an image. -/
def imgF (d : Img) (lo n : Nat) : Nat := d.toNat / 2 ^ lo % 2 ^ n

/-- The image with a field replaced. -/
def imgPut (d : Img) (lo n v : Nat) : Img := BitVec.ofNat 512 (d.toNat - imgF d lo n * 2 ^ lo + v % 2 ^ n * 2 ^ lo)

/-- A 32-bit signed field. -/
def imgS (d : Img) (lo : Nat) : Int := ((d.extractLsb' lo 32).toInt : Int)

def sdBase (d : Img) : Nat := imgF d 0 23

def sdFmt (d : Img) : Nat := imgF d 32 4

def sdCons (d : Img) : Bool := d.getLsbD 40

def sdProd (d : Img) : Bool := d.getLsbD 41

def sdWfull (d : Img) : Bool := d.getLsbD 42

def sdGrant (d : Img) : Bool := d.getLsbD 43

def sdPaz (d : Img) : Bool := d.getLsbD 44

def sdWrap (d : Img) : Bool := d.getLsbD 45

def sdEng (d : Img) : Nat := imgF d 48 8

def sdCount (d : Img) (k : Nat) : Nat := imgF d (64 + 64 * k) 16

def sdStride (d : Img) (k : Nat) : Int := imgS d (96 + 64 * k)

def sdScbase (d : Img) : Nat := imgF d 320 23

def sdScf (d : Img) : Nat := imgF d 352 8

def sdSblk (d : Img) : Nat := imgF d 360 8

def sdScs (d : Img) : Int := imgS d 384

def sdPos (d : Img) : Nat := imgF d 416 32

def sdGto (d : Img) : Word := w64 (imgF d 448 32)

def sdSetPos (d : Img) (p : Nat) : Img := imgPut d 416 32 p

/-- DSTAT.POISD and DSTAT.GSKP set. -/
def sdPoisd (d : Img) : Img := imgPut d 56 1 1

def sdGskp (d : Img) : Img := imgPut d 57 1 1

/-- Elements covered. -/
def sdTotal (d : Img) : Nat := sdCount d 0 * sdCount d 1 * sdCount d 2 * sdCount d 3

/-- A reserved bit is 1. -/
def sdReserved (d : Img) : Bool :=
  imgF d 23 9 ≠ 0 || imgF d 36 4 ≠ 0 || imgF d 46 2 ≠ 0 || imgF d 58 6 ≠ 0 || imgF d 343 9 ≠ 0 || imgF d 368 16 ≠ 0 ||
    imgF d 470 10 ≠ 0 || imgF d 480 32 ≠ 0 || (List.range 4).any fun k => imgF d (80 + 64 * k) 16 ≠ 0

/-! ### Positions (05 R139) -/

/-- The indices i0 to i3 of element `n`. -/
def sdIdx (d : Img) (n : Nat) : Nat × Nat × Nat × Nat :=
  let q1 := n / sdCount d 0
  let q2 := q1 / sdCount d 1
  (n % sdCount d 0, q1 % sdCount d 1, q2 % sdCount d 2, q2 / sdCount d 2)

/-- sd_bitpos for elements of `wb` bits. -/
def sdBit (d : Img) (wb n : Nat) : Int :=
  let (i0, i1, i2, i3) := sdIdx d n
  8 * sdBase d + i0 * sdStride d 0 * wb + 8 * (i1 * sdStride d 1 + i2 * sdStride d 2 + i3 * sdStride d 3)

/-- sd_scale. -/
def sdScale (d : Img) (n : Nat) : Int :=
  let (i0, i1, i2, i3) := sdIdx d n
  sdScbase d + (i0 / sdSblk d : Nat) + (i1 + sdCount d 1 * (i2 + sdCount d 2 * i3) : Nat) * sdScs d

/-- The element lies at a multiple of its width, in the scratchpad and in the context's ways (05 R142 reason 0x5). -/
def sdInside (c : Ctx) (d : Img) (wb n : Nat) : Bool :=
  let b := sdBit d wb n
  decide (0 ≤ b) && b.toNat % wb == 0 && (badOffset c (b.toNat / 8) ((wb + 7) / 8)).isNone

/-- The tile slot of an element inside the scratchpad. -/
def sdTile (d : Img) (wb n : Nat) : Nat := (sdBit d wb n).toNat / 32768

/-- Element `n` enters its tile (05 R140). -/
def sdEnters (d : Img) (wb n : Nat) : Bool := n == 0 || sdBit d wb (n - 1) / 32768 != sdBit d wb n / 32768

/-- The walk leaves its tile after element `n` (05 R140). -/
def sdLeaves (d : Img) (wb n : Nat) : Bool := n + 1 == sdTotal d || sdBit d wb (n + 1) / 32768 != sdBit d wb n / 32768

/-! ### Binding -/

def getDesc (c : Ctx) (n : Nat) : Option Img := spGet none c.desc n

def setDesc (c : Ctx) (n : Nat) (v : Option Img) : Ctx := { c with desc := spSet none c.desc n v, errs := mend c (.desc n) }

/-- The descriptors that a Mill word of opcode `op` names: MSTEP's operands, with a prologue its scales and zero points, with an epilogue its
output; the output of MSTA and MEPI; MPRO's four (07 R189, R200 to R204). -/
def mformNames (op : Nat) (f : MForm) (n : Nat) : Bool :=
  match op with
  | 1 => f.as.val == n || f.bs.val == n || (f.pro && (f.ss.val == n || f.zs.val == n)) || (f.epi && f.os.val == n)
  | 6 => f.bs.val == n || f.ss.val == n || f.zs.val == n || f.os.val == n
  | _ => f.os.val == n

/-- An instruction of the Mill or the Loom that names descriptor `n` lies between its start and its retirement (08 R222). -/
def descBusy (c : Ctx) (n : Nat) : Bool :=
  (c.mill.flight.any fun f => ((c.mill.stat.st != .stop && c.mill.stat.st != .susp && !(c.mill.left && f.stage == .steps)) || f.rd != []) &&
    mformNames f.op f.f n) ||
    c.loom.fly.any fun f => f.sds.contains n

/-- An own store of the context that has not performed overlaps the range. -/
def ownStorePending (s : State) (w : Who) (sp : Space) (pa n : Nat) : Bool :=
  (getDie s w.die).acc.any fun a => a.w = w && accWrites a.kind && accTouches a sp pa n

/-- The read that an SBIND of the context waits for. -/
def imageRead (s : State) (w : Who) : Option Access := (getDie s w.die).acc.find? fun a => a.w == w && a.kind == .image

/-- SBIND issues the read of its image, once the faults of its address have been found absent, and waits for it (08 R219); `s` is the state
before its operand was taken. -/
def imageIssue (s : State) (a : Word) : Res :=
  let w := me s
  if a.toNat % 64 ≠ 0 then .trap 0x03 a
  else
    if xlWaits s w.die (.core w.core) (getCtx s w).dbg.xctx a then .hold
    else
    match translate s w.die (.core w.core) (getCtx s w).dbg.xctx a with
    | (_, none) => .trap 0x04 a
    | (s, some l) =>
      if !(pteRD l.pte) then .trap 0x05 a
      else
        let id := (getDie s w.die).nextId + 1
        let x : Access :=
          { id := id, w := w, kind := .image, va := a, sp := l.sp, pa := l.pa, size := 64, asid := l.asid, base := l.base, ca := pteCA l.pte,
            bn := pteBN l.pte }
        .stay (enterWait (modDie s w.die fun d => { d with acc := d.acc ++ [x], nextId := id }) w .access 1 (w64 id) 0)

/-- SBIND (08 R219): once its read has been performed the image is bound, or the fault that the read found is taken. -/
def execSbind (n : Fin 16) (a : Src) (s : State) : Host.Outcome State Fault Refusal :=
  runAccess s fun s0 => withOps s0 (wordOf (.sbind n a)) [a] [] noDst fun s vs =>
    let w := me s
    if descBusy (getCtx s w) n.val then .hold
    else
      match imageRead s w with
      | none => imageIssue s0 (opv vs 0)
      | some x =>
        if !x.ready then .wait 1 (w64 x.id) 0
        else if x.fail ≠ 0 then .trap x.fail (opv vs 0)
        else
          let s := modDie s w.die fun d => { d with acc := d.acc.filter fun y => y.id != x.id }
          .ok (modCtx s w fun c => setDesc c n.val (some (BitVec.ofNat 512 (leNat x.data)))) .seq

/-- SREL (08 R219). -/
def execSrel (n : Fin 16) (s : State) : Host.Outcome State Fault Refusal :=
  runAccess s fun s =>
    if descBusy (getCtx s (me s)) n.val then .hold
    else .ok (modCtx s (me s) fun c => setDesc c n.val none) .seq

/-- SQRY (08 R220). -/
def execSqry (d : RC) (n : Fin 16) (b : Src) (s : State) : Host.Outcome State Fault Refusal :=
  runAccess s fun s => withOps s (wordOf (.sqry d n b)) [b] [] d fun s vs =>
    let x := opv vs 0
    if bits x 3 5 ≠ 0 ∨ bits x 9 55 ≠ 0 then .trap 0x01 (wordOf (.sqry d n b))
    else
      let c := getCtx s (me s)
      let img := (getDesc c n.val).getD 0
      let v := w64 (imgF img (64 * bits x 0 3) 64)
      let s' := if bit x 8 then modCtx s (me s) fun c => setDesc c n.val ((getDesc c n.val).map fun i => imgPut i 56 2 0) else s
      readsLocs s [.desc n.val] (.ok (putDst s' d v) .seq)

/-- `sval` of a descriptor fault: number and reason (05 R142). -/
def descVal (n reason : Nat) : Word := w64 (reason * 16 + n)

/-- SSKIP (08 R221). -/
def execSskip (n : Fin 16) (a : Src) (s : State) : Host.Outcome State Fault Refusal :=
  runAccess s fun s => withOps s (wordOf (.sskip n a)) [a] [] noDst fun s vs =>
    let c := getCtx s (me s)
    if descBusy c n.val then .hold
    else
      readsLocs s [.desc n.val] <| match getDesc c n.val with
      | none => .trap 0x17 (descVal n.val 1)
      | some img =>
        let t := sdTotal img
        let p := sdPos img + (opv vs 0).toInt
        if t = 0 then .trap 0x17 (descVal n.val 4)
        else if sdWrap img then .ok (setCtx s (me s) (setDesc c n.val (some (sdSetPos img (p % t).toNat)))) .seq
        else if p < 0 ∨ t < p then .trap 0x17 (descVal n.val 6)
        else .ok (setCtx s (me s) (setDesc c n.val (some (sdSetPos img p.toNat)))) .seq

end Sys2Proof.Machine
end

