-- ==== Sys2Proof/Machine/Global.lean ====
section
/-!
DEFINITION. Global accesses: issue, completion, loads, stores, atomics, fences, cache write-back, capability granules (10 R239 to R250;
11 R258 to R270; 04 R110; 17 R444).
-/
namespace Sys2Proof.Machine
open Sys2Proof

/-! ### Bundle pages (17 R444) -/

/-- The address of metadata record `k` of the line at `off` in the frame of a bundle page of `size` bytes. -/
def bnMeta (frame size off k : Nat) : Nat := frame + (2 + k) * size + off / 128 * 128

/-- The address of data slot `k` of that line. -/
def bnData (frame size off k : Nat) : Nat := frame + k * size + off / 128 * 128

/-- The ST byte of a metadata record. -/
def bnSt (m : Mem) (a : Nat) : Byte := memGet m (a + 8)

/-- The slot that is current: slot 0 where neither record has CUR. -/
def bnCurSlot (m : Mem) (frame size off : Nat) : Nat :=
  if (bnSt m (bnMeta frame size off 1)).getLsbD 6 && !((bnSt m (bnMeta frame size off 0)).getLsbD 6) then 1 else 0

/-- Where the current version of byte `off` of a bundle page lies. -/
def bnAddr (m : Mem) (frame size off : Nat) : Nat := bnData frame size off (bnCurSlot m frame size off) + off % 128

/-- The physical address that a read at `pa`, in a page of 2^`log` bytes at virtual address `va`, reaches. -/
def readPa (s : State) (d : Nat) (bn : Bool) (pa va log : Nat) : Nat :=
  if bn then bnAddr (getDie s d).mem.hbm (pa - va % 2 ^ log) (2 ^ log) (va % 2 ^ log) else pa

/-! ### Issue (11 R258) -/

/-- The attributes that a kind of access needs of its page. -/
def needLoad (e : Word) : Bool := pteRD e

def needStore (e : Word) : Bool := pteWR e && !(pteBN e)

def needAtom (e : Word) : Bool :=
  pteRD e && pteWR e && pteAT e && !(pteBN e) && !(pteSpace e == .host && !(pteCA e))

/-- The checks of R258, steps 2 to 6. -/
def globalChecks (s : State) (a : Word) (n : Nat) (need : Word → Bool) (kinds : List WKind) (k : State → Xl → Res) : Res :=
  let w := me s
  if a.toNat % n ≠ 0 then .trap 0x03 a
  else
    if xlWaits s w.die (.access w.core) (getCtx s w).dbg.xctx a then .hold
    else
    match translate s w.die (.access w.core) (getCtx s w).dbg.xctx a with
    | (_, none) => .trap 0x04 a
    | (s, some l) =>
      if !(need l.pte) then .trap 0x05 a
      else kinds.foldr (fun kd r => watchAccess (getCtx s w) false kd a.toNat n r) (k s l)

/-- The number the next access of a die gets. -/
def newId (s : State) (d : Nat) : Nat := (getDie s d).nextId + 1

/-- Issue an access. -/
def issueAcc (s : State) (x : Access) : State :=
  modDie s x.w.die fun d => { d with acc := d.acc ++ [{ x with id := d.nextId + 1 }], nextId := d.nextId + 1 }

/-- An access of context `w` at `a` with the translation `l`. -/
def mkAcc (w : Who) (kind : AccKind) (a : Word) (n : Nat) (l : Xl) : Access :=
  { id := 0, w := w, kind := kind, va := a, sp := l.sp, pa := l.pa, size := n, asid := l.asid, base := l.base,
    ca := pteCA l.pte, pz := ptePZ l.pte, bn := pteBN l.pte }

/-- Reserve an entry of channel `n` for the next access of the die (11 R264). -/
def reserveEntry (s : State) (n : Nat) : State :=
  let w := me s
  let id := newId s w.die
  modCtx s w fun c =>
    let x := getChan c n
    setChan c n { x with q := x.q ++ [{ filled := false, id := id }], pushes := x.pushes + 1 }

/-- Where the result goes: a register, a reserved entry, nowhere. -/
def destOf (s : State) (d : RC) : State × Dest :=
  match d with
  | .g r => if r.val = 0 then (s, .none) else (s, .g (gKey (getCtx s (me s)) r).1 (gKey (getCtx s (me s)) r).2)
  | .ch n => (reserveEntry s n.val, .chan n.val)

/-- Issue with a destination. -/
def issueTo (s : State) (d : RC) (x : Access) : State :=
  let r := destOf s d
  issueAcc r.1 { x with dest := r.2 }

/-- The operands of a global access come after the checks of its address (R258 step 7): `srcs` are taken, room for the destination is
found, and `k` goes on. -/
def withAddr (s : State) (word : Word) (base : List GReg) (srcs : List Src) (dst : RC) (chk : (State → Xl → Res) → Res)
    (k : State → Xl → List Word → Res) : Res :=
  let w := me s
  let c := getCtx s w
  if !(srcs.all (srcLegal c) && dstLegal c dst) then .trap 0x01 word
  else if base.any (pendingG s w) || srcs.any (srcPending s w) || dstPending s w dst then regWait s srcs base dst
  else if srcs.any (srcLost c) || base.any (lostG c) then lostTrap s
  else chk fun s l => takeOps s w srcs dst fun s vs => k s l vs

/-! ### Loads and stores (11 R259 to R264) -/

/-- A load. -/
def loadBody (i : Instr) (d : RC) (b : GReg) (o : BitVec 6) (sb : Nat) (z : Size) (nt : Bool) (acq : Nat) (s : State) : Res :=
  let a := amAddr (readG (getCtx s (me s)) b) o (szBytes z)
  withAddr s (wordOf i) [b] [] d (fun g => sbRoom s sb (globalChecks s a (szBytes z) needLoad [.read] g)) fun s l _ =>
    .ok (issueTo s d { mkAcc (me s) .load a (szBytes z) l with sb := sb, nt := nt, acq := acq }) .seq

/-- A store; one that releases at system scope waits for the permits granted before it (15 R372). -/
def storeBody (i : Instr) (x : RC) (b : GReg) (o : BitVec 6) (sb : Nat) (z : Size) (nt : Bool) (rel : Nat) (s : State) : Res :=
  let a := amAddr (readG (getCtx s (me s)) b) o (szBytes z)
  withAddr s (wordOf i) [b] [rcSrc x] noDst (fun g => sbRoom s sb (globalChecks s a (szBytes z) needStore [.write] g)) fun s l vs =>
    if rel = 6 && grantsOut s (me s) then .hold
    else .ok (issueAcc s { mkAcc (me s) .store a (szBytes z) l with val := opv vs 0, sb := sb, nt := nt, rel := rel }) .seq

def execLd (d b : GReg) (o : BitVec 6) (k : Fin 8) (z : Size) (s : State) : Host.Outcome State Fault Refusal :=
  runAccess s (loadBody (.ld d b o k z) (.g d) b o k.val z false 0)

def execLdNt (d b : GReg) (o : BitVec 6) (k : Fin 8) (z : Size) (s : State) : Host.Outcome State Fault Refusal :=
  runAccess s (loadBody (.ldNt d b o k z) (.g d) b o k.val z true 0)

def execSt (x : RC) (b : GReg) (o : BitVec 6) (k : Fin 8) (z : Size) (s : State) : Host.Outcome State Fault Refusal :=
  runAccess s (storeBody (.st x b o k z) x b o k.val z false 0)

def execStNt (x : RC) (b : GReg) (o : BitVec 6) (k : Fin 8) (z : Size) (s : State) : Host.Outcome State Fault Refusal :=
  runAccess s (storeBody (.stNt x b o k z) x b o k.val z true 0)

def execLdq (n : Fin 16) (b : GReg) (o : BitVec 6) (k : Fin 8) (z : Size) (s : State) : Host.Outcome State Fault Refusal :=
  runAccess s (loadBody (.ldq n b o k z) (.ch n) b o k.val z false 0)

/-- The code of a scope (02 R48). -/
def scopeCode : Scope → Nat
  | .st => 0
  | .co => 1
  | .cl => 2
  | .di => 3
  | .pk => 4
  | .sy => 5

/-- The scopes that the word of an LD.acq or ST.rel can name; another one is illegal (11 R263). -/
def acqScope : Scope → Bool
  | .st => false
  | .sy => false
  | _ => true

def execLdAcq (d b : GReg) (o : BitVec 6) (k : Fin 8) (z : Size) (sc : Scope) (s : State) : Host.Outcome State Fault Refusal :=
  runAccess s fun s =>
    if acqScope sc then loadBody (.ldAcq d b o k z sc) (.g d) b o k.val z false (scopeCode sc + 1) s
    else .trap 0x01 (wordOf (.ldAcq d b o k z sc))

def execStRel (x : RC) (b : GReg) (o : BitVec 6) (k : Fin 8) (z : Size) (sc : Scope) (s : State) : Host.Outcome State Fault Refusal :=
  runAccess s fun s =>
    if acqScope sc then storeBody (.stRel x b o k z sc) x b o k.val z false (scopeCode sc + 1) s
    else .trap 0x01 (wordOf (.stRel x b o k z sc))

def execLdAcqSy (d b : GReg) (o : BitVec 6) (k : Fin 8) (z : Size) (s : State) : Host.Outcome State Fault Refusal :=
  runAccess s (loadBody (.ldAcqSy d b o k z) (.g d) b o k.val z false 6)

def execStRelSy (x : RC) (b : GReg) (o : BitVec 6) (k : Fin 8) (z : Size) (s : State) : Host.Outcome State Fault Refusal :=
  runAccess s (storeBody (.stRelSy x b o k z) x b o k.val z false 6)

/-! ### Atomics (11 R265, R266) -/

/-- The address of an AR form is 4 or 8 bytes wide. -/
def atomSize (z : Bool) : Nat := if z then 8 else 4

def atomBody (i : Instr) (op : Nat) (d : RC) (a : GReg) (b : Src) (z : Bool) (s : State) : Res :=
  let va := readG (getCtx s (me s)) a
  withAddr s (wordOf i) [a] [b] d (globalChecks s va (atomSize z) needAtom [.atomic]) fun s l vs =>
    .ok (issueTo s d { mkAcc (me s) (.atom op) va (atomSize z) l with val := opv vs 0 }) .seq

def execAtomAdd (d : RC) (a : GReg) (b : Src) (z : Bool) (s : State) : Host.Outcome State Fault Refusal :=
  runAccess s (atomBody (.atomAdd d a b z) 0 d a b z)

def execAtomSub (d : RC) (a : GReg) (b : Src) (z : Bool) (s : State) : Host.Outcome State Fault Refusal :=
  runAccess s (atomBody (.atomSub d a b z) 1 d a b z)

def execAtomAnd (d : RC) (a : GReg) (b : Src) (z : Bool) (s : State) : Host.Outcome State Fault Refusal :=
  runAccess s (atomBody (.atomAnd d a b z) 2 d a b z)

def execAtomOr (d : RC) (a : GReg) (b : Src) (z : Bool) (s : State) : Host.Outcome State Fault Refusal :=
  runAccess s (atomBody (.atomOr d a b z) 3 d a b z)

def execAtomXor (d : RC) (a : GReg) (b : Src) (z : Bool) (s : State) : Host.Outcome State Fault Refusal :=
  runAccess s (atomBody (.atomXor d a b z) 4 d a b z)

def execAtomMin (d : RC) (a : GReg) (b : Src) (z : Bool) (s : State) : Host.Outcome State Fault Refusal :=
  runAccess s (atomBody (.atomMin d a b z) 5 d a b z)

def execAtomMax (d : RC) (a : GReg) (b : Src) (z : Bool) (s : State) : Host.Outcome State Fault Refusal :=
  runAccess s (atomBody (.atomMax d a b z) 6 d a b z)

def execAtomMinu (d : RC) (a : GReg) (b : Src) (z : Bool) (s : State) : Host.Outcome State Fault Refusal :=
  runAccess s (atomBody (.atomMinu d a b z) 7 d a b z)

def execAtomMaxu (d : RC) (a : GReg) (b : Src) (z : Bool) (s : State) : Host.Outcome State Fault Refusal :=
  runAccess s (atomBody (.atomMaxu d a b z) 8 d a b z)

def execAtomXchg (d : RC) (a : GReg) (b : Src) (z : Bool) (s : State) : Host.Outcome State Fault Refusal :=
  runAccess s (atomBody (.atomXchg d a b z) 9 d a b z)

def execCas (d a : GReg) (b : Src) (z : Bool) (s : State) : Host.Outcome State Fault Refusal :=
  runAccess s fun s =>
    let va := readG (getCtx s (me s)) a
    let e := readG (getCtx s (me s)) d
    withAddr s (wordOf (.cas d a b z)) [a, d] [b] (.g d) (globalChecks s va (atomSize z) needAtom [.atomic]) fun s l vs =>
      .ok (issueTo s (.g d) { mkAcc (me s) .cas va (atomSize z) l with val := opv vs 0, exp := e }) .seq

/-- The new value of an atomic on `n` bytes, its operands reduced to them (11 R265). -/
def atomNew (op n old b : Nat) : Nat :=
  let m := 2 ^ (8 * n)
  let sg : Nat → Int := fun v => if v < m / 2 then (v : Int) else (v : Int) - (m : Int)
  match op with
  | 0 => (old + b) % m
  | 1 => (old + (m - b)) % m
  | 2 => old &&& b
  | 3 => old ||| b
  | 4 => old ^^^ b
  | 5 => if sg old ≤ sg b then old else b
  | 6 => if sg b ≤ sg old then old else b
  | 7 => min old b
  | 8 => max old b
  | _ => b

/-! ### Capability granules (04 R110) -/

/-- The tag of a granule: only this die's HBM keeps tags. -/
def granTag (s : State) (d : Nat) (sp : Space) (pa : Nat) : Bool :=
  match sp with
  | .hbm => spGet false (getDie s d).mem.htags (pa / 16)
  | _ => false

def execLdcr (cr : CapReg) (b : GReg) (o : BitVec 6) (k : Fin 8) (s : State) : Host.Outcome State Fault Refusal :=
  runAccess s fun s =>
    let a := amAddr (readG (getCtx s (me s)) b) o 16
    withAddr s (wordOf (.ldcr cr b o k)) [b] [] noDst
      (fun g => sbRoom s k.val (capReady s [cr] [] (globalChecks s a 16 needLoad [.read] g))) fun s l _ =>
      .ok (issueAcc s { mkAcc (me s) .capLoad a 16 l with sb := k.val, dest := .cap cr.val }) .seq

def execStcr (cr : CapReg) (b : GReg) (o : BitVec 6) (k : Fin 8) (s : State) : Host.Outcome State Fault Refusal :=
  runAccess s fun s =>
    let a := amAddr (readG (getCtx s (me s)) b) o 16
    let v := readCap (getCtx s (me s)) cr
    withAddr s (wordOf (.stcr cr b o k)) [b] [] noDst
      (fun g => sbRoom s k.val (capReady s [cr] [cr] (globalChecks s a 16 needStore [.write] g))) fun s l _ =>
      if v.tag && !(capPerm v).testBit 6 then .trap 0x08 (w64 (capCursor v))
      else if v.tag && l.sp != .hbm then .trap 0x06 (w64 (capCursor v))
      else .ok (issueAcc s { mkAcc (me s) .capStore a 16 l with sb := k.val, capv := v }) .seq

/-! ### Completion (10 R240, R242, R246, R248; 11 R260 to R268) -/

/-- Two accesses of one stream touch a common byte.  Those of remote accesses to one window are kept in order by their messages (17 R422; 18
R460). -/
def accMeets (a b : Access) : Bool := accLocal b.kind && accTouches a b.sp b.pa b.size

/-- A load may take the value of the stream's own earlier stores before they are performed (R248 case 1). -/
def forwards (x y : Access) : Bool := x.kind == .store && y.kind == .load

/-- X must be performed before Y (10 R248 cases 1, 4, 5). -/
def mustPrecede (x y : Access) : Bool :=
  x.w == y.w && x.id < y.id && (x.acq != 0 || y.rel != 0 || (accMeets x y && !(forwards x y)))

/-- Access `y` of the die may be performed now. -/
def accReady (d : Die) (y : Access) : Bool := !(d.acc.any fun x => mustPrecede x y)

def accAt (d : Die) (id : Nat) : Option Access := d.acc.find? fun a => a.id == id

/-- Take an access off. -/
def accDrop (d : Die) (a : Access) : Die := { d with acc := d.acc.filter fun x => x.id != a.id }

/-- Give an access's destination its value. -/
def putResult (s : State) (a : Access) (v : Word) : State :=
  match a.dest with
  | .none => s
  | .g r sh => modCtx s a.w fun c => writeGKey c r sh v
  | .chan n => modCtx s a.w fun c =>
      let x := getChan c n
      if x.q.any fun e => !e.filled && e.id == a.id then
        let c := setChan c n { x with q := x.q.map fun e => if !e.filled && e.id == a.id then { val := v } else e }
        if chCons x = 0 then raiseEv c 0 else c
      else c
  | .cap _ => s

/-- The destination of a failed access: a reserved entry is released (11 R264). -/
def dropResult (s : State) (a : Access) : State :=
  match a.dest with
  | .chan n => modCtx s a.w fun c =>
      let x := getChan c n
      setChan c n { x with q := x.q.filter fun e => e.filled || e.id != a.id }
  | _ => s

/-- An access completes with a value. -/
def accDone (s : State) (a : Access) (v : Word) : State :=
  modDie (putResult s a v) a.w.die fun d => accDrop d a

/-- An access fails: the trap is delivered at the next boundary (11 R268). -/
def accFail (s : State) (a : Access) (cause : Nat) : State :=
  let s := modCtx (dropResult s a) a.w fun c => addFailure c a.id cause a.va 0
  modDie s a.w.die fun d => accDrop d a

/-- scope_acquire and scope_release beyond their waits (10 R246); `k` is a scope's code + 1, 0 for none.  A release at system scope covers
every store that happens before it, the buffered ones of other clusters too (10 R257). -/
def scopeAcquire (s : State) (w : Who) (k : Nat) : State := if k ≥ 5 then granAcquire s w.die else s

def scopeRelease (s : State) (w : Who) (k : Nat) : State :=
  let s := if k ≥ 5 then granRelease s w.die else s
  if k ≥ 6 then wcEach s wcDrain else s

/-- The bytes of a load with those of the stream's own earlier stores laid over them. -/
def forwarded (d : Die) (a : Access) (bs : List Byte) : List Byte :=
  (d.acc.filter fun x => x.w == a.w && x.id < a.id && x.kind == .store && accMeets x a).foldl (fun bs x =>
    bs.mapIdx fun i b =>
      let p := a.pa + i
      if x.pa ≤ p ∧ p < x.pa + x.size then (leBytes 8 x.val.toNat).getD (p - x.pa) 0 else b) bs

/-- A read of an access: the state after it, and its bytes or the cause of its failure (13 R327, R332).  An acquire at package scope reads
the Granary's port, the die's dirty bytes written back first (10 R246). -/
def accRead (s : State) (a : Access) (zeros : Bool) : State × Except Nat (List Byte) :=
  let d := a.w.die
  let pa := readPa s d a.bn a.pa a.va.toNat (a.base % 64)
  let s := physMend s d a.sp pa a.size
  let s :=
    if a.sp = .gran && a.acq ≥ 5 then cacheDropAll s d .gran (pa / 128)
    else if a.bn || a.nt || !a.ca then cacheLook s d (clusterOf a.w) a.sp pa a.size (a.ca && !a.bn)
    else cacheTake s d (clusterOf a.w) a.sp (pa / 128)
  match physErr s d a.sp pa a.size with
  | none => (s, .ok (physRead s d a.sp pa a.size))
  | some (m, k) =>
    let s := countEv (physDetect s a.w a.sp k m) a.w 0x0C 1
    if zeros && a.pz then (s, .ok (List.replicate a.size 0)) else (s, .error (markCause m))

/-- A store writes its bytes: non-temporal and non-cacheable ones past the caches, a release at package scope through to the Granary's port,
others into the cluster's line (10 R239, R240, R246). -/
def accWrite (s : State) (a : Access) (bs : List Byte) : State :=
  let d := a.w.die
  let cl := clusterOf a.w
  if a.nt || !a.ca then physWrite s d cl a.sp a.pa bs .comb
  else
    let s := cacheTake s d cl a.sp (a.pa / 128)
    physWrite s d cl a.sp a.pa bs (if a.sp = .gran && a.rel ≥ 5 then .upd else .alloc)

/-- A load or store completes at its point of coherence.  DEDUCED for LDCR (13 R327 names LD, LDQ and VLDFF): a failed or poisoned sector
fails it at completion with 0x0F, 0x11 or 0x10, and a PZ page gives bytes of zero with the granule's own tag (notes/assumptions/66.md). -/
def performAcc (s : State) (a : Access) : State :=
  match a.kind with
  | .load =>
    match accRead s a true with
    | (s, .error m) => accFail s a m
    | (s, .ok bs) => scopeAcquire (accDone s a (leWord (forwarded (getDie s a.w.die) a bs))) a.w a.acq
  | .capLoad =>
    match accRead s a true with
    | (s, .error m) => accFail s a m
    | (s, .ok bs) =>
      let t := granTag s a.w.die a.sp (readPa s a.w.die a.bn a.pa a.va.toNat (a.base % 64))
      let s := match a.dest with
        | .cap n => modCtx s a.w fun c => putC c n { bits := BitVec.ofNat 128 (leNat bs), tag := t }
        | _ => s
      modDie s a.w.die fun d => accDrop d a
  | .image =>
    let r := accRead s a false
    modDie r.1 a.w.die fun d => { d with acc := d.acc.map fun x =>
      if x.id != a.id then x
      else match r.2 with
        | .error m => { x with ready := true, fail := m }
        | .ok bs => { x with ready := true, data := bs } }
  | .store =>
    let s := accWrite (scopeRelease s a.w a.rel) a (leBytes a.size a.val.toNat)
    modDie s a.w.die fun d => accDrop d a
  | .capStore =>
    let s := accWrite s a (leBytes 16 a.capv.bits.toNat)
    modDie s a.w.die fun d =>
      let d := accDrop d a
      if a.capv.tag then { d with mem := { d.mem with htags := spSet false d.mem.htags (a.pa / 16) true } } else d
  | _ => s

/-- ACCESS_COMPLETE (10 R240): access `ev.k` of die `ev.w.die`. -/
def execAccessComplete (s : State) : Host.Outcome State Fault Refusal :=
  let d := getDie s s.ev.w.die
  match accAt d s.ev.k with
  | none => .next s
  | some a => .next (if a.w.die = s.ev.w.die && !a.ready && accReady d a then performAcc s a else s)

/-- The line that an atomic acts on, as the atomic units name it. -/
def atomKey (a : Access) : Nat := a.pa / 128 * 4 + spaceCode a.sp

/-- The place of a request of rank `r` (core number × 2 + context; 64 for a remote operation) on line `key` among the requests of this
cycle; none where one that comes after it in the order of 10 R243 has been performed in this cycle, so that it is a request of a later one. -/
def atomPos (s : State) (d key r : Nat) : Option Nat :=
  let x := spGet {} (getDie s d).mem.atoms key
  if x.cyc ≠ cycNow s d + 1 then some 0 else if r < x.rank then none else some (x.pos + 1)

def atomNote (s : State) (d key r pos : Nat) : State :=
  let now := cycNow s d + 1
  modMem s d fun m => { m with atoms := spSet {} (m.atoms.filter fun x => x.2.cyc = now) key { cyc := now, rank := r, pos := pos } }

/-- The read-modify-write at the atomic unit: the address, what it finds, what it writes (11 R265, R266).  The Granary's is performed at
the port, the die's copy of the line going first, its dirty bytes written back; others take the line exclusive (10 R242).  One that the
replay's log has as not performed fails (13 R347), by a cause that its record does not hold. -/
def performAtom (s : State) (a : Access) (op : Option Nat) (pos : Nat) : State :=
  let d := a.w.die
  let cl := clusterOf a.w
  let s := atomNote s d (atomKey a) (a.w.core * 2 + a.w.ctx) pos
  let s :=
    if a.sp = .gran then cacheDropAll s d .gran (a.pa / 128)
    else if a.ca then cacheOwn (cacheTake s d cl a.sp (a.pa / 128)) d cl a.sp a.pa 0 (a.pa / 128)
    else s
  let point := fun (s : State) (ok : Bool) => orderPoint s a.w 6 1 a.va.toNat (pos % 256 + if ok then 256 else 0)
  if (replayChoice s a.w 6).any fun c => !(c.testBit 8) then
    accFail (point { s with free := s.free + 1 } false) a (Config.replayCause s.free)
  else
  match accRead s { a with ca := false } false with
  | (s, .error m) => accFail (point s false) a m
  | (s, .ok bs) =>
    let old := leNat bs
    let b := a.val.toNat % 2 ^ (8 * a.size)
    let new? := match op with
      | some o => some (atomNew o a.size old b)
      | none => if old = a.exp.toNat % 2 ^ (8 * a.size) then some b else none
    let s := match new? with
      | some v => physWrite s d cl a.sp a.pa (leBytes a.size v) (if a.sp = .gran || !a.ca then .nt else .alloc)
      | none => s
    accDone (point s true) a (w64 old)

/-- The agent of an order point has been held: the step has no effect but the stall (13 R344, R346). -/
def unlessHeld (s s' : State) (w : Who) (eng : Nat) : State := if almOver s' w.die then almHeld s s' w eng else s'

/-- The place of an atomic among the requests of its cycle (R243), or none where it waits; in replay the logged one (13 R347). -/
def atomPlace (s : State) (a : Access) : Option Nat :=
  if (getDie s a.w.die).alm.rply then some (((replayChoice s a.w 6).getD 0) % 256)
  else atomPos s a.w.die (atomKey a) (a.w.core * 2 + a.w.ctx)

/-- ATOMIC_PERFORM (10 R242): access `ev.k` of die `ev.w.die` reaches its atomic unit and is performed; of requests to one line in one cycle
those of lower core and context come first (R243). -/
def execAtomicPerform (s : State) : Host.Outcome State Fault Refusal :=
  let d := getDie s s.ev.w.die
  match accAt d s.ev.k with
  | none => .next s
  | some a =>
    if a.w.die = s.ev.w.die && accReady d a then
      match a.kind, atomPlace s a with
      | .atom op, some p => .next (unlessHeld s (performAtom s a (some op) p) a.w 6)
      | .cas, some p => .next (unlessHeld s (performAtom s a none p) a.w 6)
      | _, _ => .next s
    else .next s

/-! ### Fences (11 R269) -/

/-- An access that a fence takes for a load: every kind with a result. -/
def accLoads : AccKind → Bool
  | .store => false
  | .capStore => false
  | .rstore => false
  | _ => true

/-- FENCE: its condition, then what acquire and release do at its scope.  A release at system scope waits for the permits granted before it
(15 R372). -/
def fenceBody (acq rel : Bool) (sc : Scope) (s : State) : Res :=
  let w := me s
  if (getDie s w.die).acc.any fun a => a.w == w && accGlobal (getCtx s w) a && (rel || accLoads a.kind) then .hold
  else if rel && sc == .sy && grantsOut s w then .hold
  else
    let s := if rel then scopeRelease s w (scopeCode sc + 1) else s
    .ok (if acq then scopeAcquire s w (scopeCode sc + 1) else s) .seq

def execFenceAll (sc : Scope) (s : State) : Host.Outcome State Fault Refusal := runAccess s (fenceBody true true sc)

def execFenceAcq (sc : Scope) (s : State) : Host.Outcome State Fault Refusal := runAccess s (fenceBody true false sc)

def execFenceRelSt (s : State) : Host.Outcome State Fault Refusal := runAccess s (fenceBody false true .st)

def execFenceRelCo (s : State) : Host.Outcome State Fault Refusal := runAccess s (fenceBody false true .co)

def execFenceRelCl (s : State) : Host.Outcome State Fault Refusal := runAccess s (fenceBody false true .cl)

def execFenceRelDi (s : State) : Host.Outcome State Fault Refusal := runAccess s (fenceBody false true .di)

def execFenceRelPk (s : State) : Host.Outcome State Fault Refusal := runAccess s (fenceBody false true .pk)

def execFenceRelSy (s : State) : Host.Outcome State Fault Refusal := runAccess s (fenceBody false true .sy)

/-! ### Cache write-back and invalidate (11 R270) -/

/-- Write back the Granary lines the die holds among `n` bytes from `pa`, at package scope or wider. -/
def granRange (s : State) (d pa n : Nat) : State :=
  (getDie s d).mem.glines.foldl (fun s (l, _) => if (physLines pa n).contains l then granClean s d l else s) s

/-- Invalidate the lines among `n` bytes from `pa`, dirty bytes written back: in one cluster's cache, or with cluster 4 in all (11 R270). -/
def lineRange (s : State) (d cl : Nat) (sp : Space) (pa n : Nat) : State :=
  (getDie s d).mem.cached.foldl (fun s e =>
    if e.sp == sp && (cl == 4 || e.cl == cl) && (physLines pa n).contains e.line then cacheDrop s d e.cl sp e.line else s) s

/-- The pieces of a range, one to each 64 KiB granule: virtual address and length. -/
def pieces (va n : Nat) : Nat → List (Nat × Nat)
  | 0 => []
  | k + 1 =>
    let m := min n (2 ^ 16 - va % 2 ^ 16)
    if n = 0 then [] else (va, m) :: pieces (va + m) (n - m) k

/-- A length operand is a g register or a popped channel: one that peeks is illegal (11 R270). -/
def peeks : Src → Bool
  | .peek _ => true
  | _ => false

def cacheBody (i : Instr) (a : GReg) (b : Src) (sc : Scope) (inv : Bool) (s : State) : Res :=
  let w := me s
  let va := readG (getCtx s w) a
  if peeks b then .trap 0x01 (wordOf i)
  else withOps s (wordOf i) [b] [a] noDst fun s vs =>
    let n := (opv vs 0).toNat
    if n > 0x1000000 then .trap 0x01 (wordOf i)
    else if n = 0 then .ok s .seq
    else
      let lo := va.toNat / 128 * 128
      let len := (va.toNat + n + 127) / 128 * 128 - lo
      match translateRange s w.die (.access w.core) (getCtx s w).dbg.xctx (w64 lo) (fun _ => true) (granules lo len) with
      | (_, .error (cause, x)) => rangeRes cause x
      | (s, .ok ls) =>
        let ps := (pieces lo len (granules lo len)).zip ls
        if (getDie s w.die).acc.any fun x => x.w == w && (x.acq != 0 || ps.any fun p => accTouches x p.2.sp p.2.pa p.1.2) then .hold
        else
          .ok (ps.foldl (fun s p =>
            if pteBN p.2.pte then s
            else
              let s := if p.2.sp == .gran && scopeCode sc ≥ 4 then granRange s w.die p.2.pa p.1.2 else s
              if inv then lineRange s w.die (if scopeCode sc ≤ 2 then clusterOf w else 4) p.2.sp p.2.pa p.1.2 else s) s) .seq

def execCwb (a : GReg) (b : Src) (sc : Scope) (s : State) : Host.Outcome State Fault Refusal :=
  runAccess s (cacheBody (.cwb a b sc) a b sc false)

def execCinv (a : GReg) (b : Src) (sc : Scope) (s : State) : Host.Outcome State Fault Refusal :=
  runAccess s (cacheBody (.cinv a b sc) a b sc true)

end Sys2Proof.Machine
end

