-- ==== Sys2Proof/Machine/Barrier.lean ====
section
/-!
DEFINITION. Barriers (08 R210, R233 to R236).
-/
namespace Sys2Proof.Machine
open Sys2Proof

/-! ### The object (08 R233) -/

/-- The fields of a barrier object. -/
structure BarObj where
  exp : Nat
  pend : Nat
  next : Nat
  phase : Nat
  flg : Nat
  own : Nat
  ft : Nat
deriving DecidableEq, Repr

def barRead (y : Core) (off : Nat) : BarObj :=
  let f := fun lo n => leNat (spRead y (off + lo) n)
  { exp := f 0 4, pend := f 4 4, next := f 8 4, phase := f 12 2, flg := f 15 1, own := f 20 4, ft := f 24 8 }

/-- Write an object, naming who set it last (05 R152). -/
def barWrite (y : Core) (off : Nat) (b : BarObj) (by_ : Nat) : Core :=
  let bs := leBytes 4 b.exp ++ leBytes 4 b.pend ++ leBytes 4 b.next ++ leBytes 2 b.phase ++ leBytes 1 0 ++ leBytes 1 b.flg ++
    leBytes 4 0 ++ leBytes 4 b.own ++ leBytes 8 b.ft
  let y := spWrite y off bs
  { y with setBy := spSet 6 y.setBy (0x10000 + off / 32) by_ }

/-- An operation of the barrier unit on an object: its counts, phase and time are written, and so the rest of the sector, an error mark
included, stays (13 R326). -/
def barPut (y : Core) (off : Nat) (b : BarObj) (by_ : Nat) : Core :=
  let y := spWrite y off (leBytes 4 b.exp ++ leBytes 4 b.pend ++ leBytes 4 b.next ++ leBytes 2 b.phase)
  let y := spWrite y (off + 24) (leBytes 8 b.ft)
  { y with setBy := spSet 6 y.setBy (0x10000 + off / 32) by_ }

/-- The barrier unit is about to find an error that has not been reported: a lost tag entry, a sector whose check fails (05 R129, R154). -/
def barBad (y : Core) (off : Nat) : Bool := tagLost y [off / 4096] || spMark y (off / 32) == 2

/-- The finding of such an error.  A barrier operation raises no cause for one (13 R316): it works on the object as stored. -/
def barSense (s : State) (at_ : Who) (off : Nat) : State :=
  let s := tagSense s at_ (off / 4096)
  if spMark (getCore s at_) (off / 32) = 2 then spDetect s at_ (off / 32) else s

/-- A barrier instruction at the object at `off` of core `k`: a finding comes first, and the instruction then issues again. -/
def barSensed (s : State) (k off : Nat) (r : Res) : Res :=
  let at_ : Who := { me s with core := k }
  if barBad (getCore s at_) off then .redo fun s => barSense s at_ off else r

def barLive (b : BarObj) : Bool := b.flg % 2 == 1

def barBytes (b : BarObj) : Bool := b.flg / 2 % 2 == 1

def barOpen (b : BarObj) : Bool := b.flg / 4 % 2 == 1

/-- Phase `ph` is complete (R234). -/
def barDone (b : BarObj) (ph : Nat) : Bool :=
  let d := (b.phase + 2 ^ 16 - ph) % 2 ^ 16
  1 ≤ d && d ≤ 2 ^ 15

/-- The core that an arrival's OWN names, on the die. -/
def ownCore (b : BarObj) : Nat := b.own % 8 + b.own / 8 % 4 * 8

/-- Event BAR at the context named in OWN. -/
def barEvent (s : State) (d : Nat) (b : BarObj) : State := modCtx s ⟨d, ownCore b, b.own / 32 % 2⟩ fun c => raiseEv c 2

/-- The name of the object at `off` of core `k`, its core named (08 R210). -/
def barNameAt (k off : Nat) : Nat := off + k % 8 * 2 ^ 23 + k / 8 % 4 * 2 ^ 26 + 2 ^ 28

/-- The flips of an arrival, at most `n`, each an order point of the arriving agent (R235; 13 R342 KIND 0x02). -/
def barFlip (s : State) (w : Who) (eng k off : Nat) (b : BarObj) : Nat → State × BarObj
  | 0 => (s, b)
  | n + 1 =>
    if b.pend ≠ 0 then (s, b)
    else
      let b := { b with phase := (b.phase + 1) % 2 ^ 16, pend := (b.exp + 2 ^ 32 - b.next) % 2 ^ 32, next := 0, ft := ftimeNow s w.die }
      barFlip (orderPoint (barEvent s w.die b) w eng 2 (barNameAt k off) b.phase) w eng k off b n

/-- arrive: `u` units tagged `q` at the object at `off` of core `k`, by agent `eng` of `w`; none is an overrun (R235). -/
def barArrive (s : State) (w : Who) (eng k off u q by_ : Nat) : Option State :=
  let at_ : Who := { w with core := k }
  let b := barRead (getCore s at_) off
  let d := (q + 2 ^ 16 - b.phase) % 2 ^ 16
  if d = 0 ∧ u ≤ b.pend then
    let r := barFlip s w eng k off { b with pend := b.pend - u } 2
    some (modCore r.1 at_ fun y => barPut y off r.2 by_)
  else if d = 1 ∧ b.next + u ≤ b.exp then
    let r := barFlip s w eng k off { b with next := b.next + u } 2
    some (modCore r.1 at_ fun y => barPut y off r.2 by_)
  else none

/-! ### The instructions (08 R210, R234) -/

/-- The checks of a barrier name: `k` goes on with the core and the offset.  `ph`: the name carries a phase; `bad`: a fault of the second
operand; `own`: X must be 0; these two report the instruction word, R210's faults the name.  DEDUCED where a name with PH not 0 lies outside
the way mask (R126: the offset; 08 R210: the name): the 0x04 reports the whole name (notes/assumptions/66.md). -/
def barName (s : State) (word a : Word) (ph bad own : Bool) (k : Nat → Nat → Res) : Res :=
  let w := me s
  let x := bit a 28
  let off := bits a 0 23
  if bits a 48 16 ≠ 0 || bits a 29 3 ≠ 0 || (!ph && bits a 32 16 ≠ 0) || (!x && bits a 23 5 ≠ 0) then .trap 0x01 a
  else if bad || (own && x) then .trap 0x01 word
  else if off % 32 ≠ 0 then .trap 0x03 a
  else if off ≥ spEnd || (!x && !(ownsSlot (getCtx s w) (off / 4096))) then .trap 0x04 a
  else k (if x then bits a 26 2 * 8 + bits a 23 3 else w.core) off

/-- The range check of the object's sector, for the owning core's access core (R233). -/
def barRange (s : State) (k off : Nat) (wr : Bool) (r : Res) : Res :=
  if k = (me s).core then rangeMine s off 32 wr r else if acqPending s (me s) then .hold else r

/-- BINIT. -/
def execBinit (a b : RC) (s : State) : Host.Outcome State Fault Refusal :=
  runAccess s fun s => withOps s (wordOf (.binit a b)) [rcSrc a, rcSrc b] [] noDst fun s vs =>
    let v := opv vs 1
    let w := me s
    barName s (wordOf (.binit a b)) (opv vs 0) false (bits v 0 32 == 0 || bits v 34 14 != 0) true fun k off =>
      sensed s [off / 4096] (barRange s k off true
        (.ok (modCore s w fun y => barWrite y off
          { exp := bits v 0 32, pend := bits v 0 32, next := 0, phase := bits v 48 16, flg := 1 + 2 * bits v 32 2,
            own := w.core % 8 + w.core / 8 * 8 + w.ctx * 32, ft := 0 } 0) .seq))

/-- BEXP. -/
def execBexp (a b : RC) (s : State) : Host.Outcome State Fault Refusal :=
  runAccess s fun s => withOps s (wordOf (.bexp a b)) [rcSrc a, rcSrc b] [] noDst fun s vs =>
    let v := opv vs 1
    barName s (wordOf (.bexp a b)) (opv vs 0) false (v.toNat == 0 || v.toNat ≥ 2 ^ 32) true fun k off =>
      barSensed s k off (barRange s k off true
        (let o := barRead (getCore s (me s)) off
         if !(barLive o) then .trap 0x0D (setBit (opv vs 0) 63 true)
         else if v.toNat < o.next then .trap 0x0D (opv vs 0)
         else .ok (modCore s (me s) fun y => barPut y off { o with exp := v.toNat } (spGet 6 y.setBy (0x10000 + off / 32))) .seq))

/-- ARV: a release at die scope of everything the stream did before (R236). -/
def execArv (a b : RC) (s : State) : Host.Outcome State Fault Refusal :=
  runAccess s fun s => withOps s (wordOf (.arv a b)) [rcSrc a, rcSrc b] [] noDst fun s vs =>
    let v := opv vs 1
    let w := me s
    barName s (wordOf (.arv a b)) (opv vs 0) false (bits v 0 32 == 0 || bits v 48 16 != 0) false fun k off =>
      if accPending s w then .hold
      else
        barSensed s k off (barRange s k off true
          (let o := barRead (getCore s { w with core := k }) off
           if !(barLive o) || (bit (opv vs 0) 28 && !(barOpen o)) then .trap 0x0D (setBit (opv vs 0) 63 true)
           else
             match barArrive s w 0 k off (bits v 0 32) (bits v 32 16) (if k = w.core then 0 else 6) with
             | none => .trap 0x0D (opv vs 0)
             | some s => .ok s .seq))

/-- The stream that moves already waits for a barrier: while it does, it begins no access of its own (05 R146). -/
def barWaits (s : State) : Bool :=
  let t := getStat (getCtx s (me s)) .access
  t.st == .wait && t.wkind == 4

/-- BWAIT. -/
def execBwait (d a : RC) (s : State) : Host.Outcome State Fault Refusal :=
  runAccess s fun s => withOps s (wordOf (.bwait d a)) [rcSrc a] [] d fun s vs =>
    barName s (wordOf (.bwait d a)) (opv vs 0) true false false fun k off =>
      let o := barRead (getCore s { me s with core := k }) off
      let done := barDone o (bits (opv vs 0) 32 16)
      let obj := w64 off
      let aux := w64 (k + 32 * bits (opv vs 0) 32 16)
      barSensed s k off (if barWaits s && barLive o && !done then .wait 4 obj aux
        else
          barRange s k off false
            (if !(barLive o) then .trap 0x0D (setBit (opv vs 0) 63 true)
             else if done then .ok (putDst s d (w64 o.phase)) .seq
             else if (getCtx s (me s)).acc.fly.isSome then
               .redo fun s => enterWait (modCtx s (me s) fun c => { c with acc := { c.acc with fly := none } }) (me s) .access 4 obj aux
             else .wait 4 obj aux))

/-- BTEST. -/
def execBtest (d a : RC) (s : State) : Host.Outcome State Fault Refusal :=
  runAccess s fun s => withOps s (wordOf (.btest d a)) [rcSrc a] [] d fun s vs =>
    barName s (wordOf (.btest d a)) (opv vs 0) true false false fun k off =>
      barSensed s k off (barRange s k off false
        (let o := barRead (getCore s { me s with core := k }) off
         if !(barLive o) then .trap 0x0D (setBit (opv vs 0) 63 true)
         else putTiming s d (if barDone o (bits (opv vs 0) 32 16) then 1 else 0)))

end Sys2Proof.Machine
end

