-- ==== Sys2Proof/Machine/Time.lean ====
section
/-!
DEFINITION. Time: cycles, nanoseconds and fabric time (16 R411; 17 R425 to R427), and when a stream may issue (01 R12; 13 R318; 16 R412).
-/
namespace Sys2Proof.Machine
open Sys2Proof

/-- Units of 1/18 ns in a cycle: 1.8, 1.5 and 1.2 GHz in P0, P1, P2 (16 R411). -/
def cycleUnits (p : Nat) : Nat := if p = 1 then 12 else if p = 2 then 15 else 10

/-- The clock of a die runs: it is not idle, not relocking, not tripped (16 R411 to R413). -/
def clockRuns (p : PowerSt) : Bool := p.state != 3 && !p.relock && !p.trip

/-- The nanoseconds that a correction adds (positive) or takes away (negative) as the oscillator counts `n` more, `acc` already counted of
the thousand under way (17 R427). -/
def steer (corr : Int) (acc n : Nat) : Int :=
  let k : Int := ((acc + n) / 1000 : Nat)
  if 0 ≤ corr then min k corr else - min k (-corr)

/-- `dt` units of 1/18 ns pass on a die. -/
def advanceTime (p : PowerSt) (t : TimeSt) (dt : Nat) : TimeSt :=
  let u := cycleUnits p.state
  let run := clockRuns p
  let n := (t.nfrac + dt) / 18
  let g := steer t.corr t.cacc n
  { t with
    cyc := if run then t.cyc + (t.frac + dt) / u else t.cyc
    frac := if run then (t.frac + dt) % u else 0
    nfrac := (t.nfrac + dt) % 18
    osc := t.osc + n
    ftime := if t.set then ((t.ftime + n : Nat) + g).toNat else 0
    corr := t.corr - g
    cacc := if t.corr = 0 then 0 else (t.cacc + n) % 1000 }

/-- Streams of a context that wait, as events 0x0E of `n` cycles (13 R338). -/
def countWaits (n core ctx : Nat) (c : Ctx) (d : Die) : Die :=
  [Eng.access, .loom, .mill].foldl (fun d e =>
    if c.job.isSome && (getStat c e).st == .wait then countDie d (some (core, ctx)) 0x0E n else d) d

/-- Cycles of an agent that waits for the Almanac's ring, as events 0x10 (13 R344). -/
def countStall (n : Nat) (d : Die) (k : Nat) : Die := countDie d (some (k / 32, k / 16 % 2)) 0x10 n

/-- Time passes on a die: its cycles are events 0x00, cycles of waiting streams 0x0E, those of agents that wait for the ring 0x10. -/
def advanceDie (dt : Nat) (x : Die) : Die :=
  let y := { x with time := advanceTime x.power x.time dt }
  let n := y.time.cyc - x.time.cyc
  if x.trace.evsel.isEmpty then y
  else
    let y := countDie y none 0 n
    let y := if ringFull y 5 then y.alm.waits.foldl (countStall n) y else y
    x.cores.foldl (fun d (k, z) => countWaits n k 1 z.k1 (countWaits n k 0 z.k0 d)) y

/-- What leaves the caches and buffers of die `d` on its own accord in turn `k`: a free choice (notes/assumptions/5.md). -/
def evictDie (k : Nat) (s : State) (d : Nat) : State :=
  let m := (getDie s d).mem
  let s := m.cached.foldl (fun s e => if Config.evicts k d e.cl e.sp e.line then cacheDrop s d e.cl e.sp e.line else s) s
  let s := m.cached.foldl (fun s e => if Config.evicts k d 4 e.sp e.line then cacheDropAll s d e.sp e.line else s) s
  m.wc.foldl (fun s (cl, _) => wcLeave s d cl fun l => Config.combLeaves k d cl l) s

/-! ### Stop reports (13 R339) -/

/-- What a Carter has left of the command that it executes: its number, the sequence number, bytes and rows. -/
def stopCmd (k : Nat) (q : CarterQ) : List (Nat × Nat × Nat × Nat) :=
  match q.q with
  | [] => []
  | h :: _ =>
    let n := bits h.l 24 24
    let r := bits h.l 48 8 * 32
    if h.started && !h.moved then [(k, h.seq, n - h.done, if h.kind = .cpyg || h.kind = .cpys then (n + r - 1) / r - h.rows else 0)] else []

/-- Everything a stopped context has issued is performed: its accesses of memory, and the landings already begun in its tiles. -/
def stopSettled (d : Die) (y : Core) (w : Who) (c : Ctx) : Bool :=
  (d.acc.all fun a => a.w != w || match a.kind with
    | .load | .store | .capLoad | .capStore | .atom _ | .cas => false
    | _ => true) &&
  y.landq.all fun l => !(l.begun && c.ways.getLsbD (l.slot % 8))

/-- The stop of a context is reported to the Moot's debug agent once it can be. -/
def reportStop (s : State) (w : Who) : State :=
  let c := getCtx s w
  match c.stop with
  | none => s
  | some m =>
    if stopSettled (getDie s w.die) (getCore s w) w c then
      tellMoot (setCtx s w { c with stop := none }) { m with cmds := stopCmd 0 c.c0 ++ stopCmd 1 c.c1 }
    else s

/-- The stops of a die's contexts. -/
def reportStops (s : State) (d : Nat) : State :=
  (getDie s d).cores.foldl (fun s (k, _) => reportStop (reportStop s ⟨d, k, 0⟩) ⟨d, k, 1⟩) s

/-- Time passes everywhere. -/
def advance (s : State) (dt : Nat) : State :=
  (allDies s).foldl (fun t d => reportStops (evictDie s.free (modDie t d (advanceDie dt)) d) d) { s with free := s.free + 1 }

/-- The object a turn is about exists. -/
def whoOk (s : State) (w : Who) : Bool := dieOk s w.die && w.core < 32 && w.ctx < 2

/-- A context whose streams move: it holds a job, is not halted, and neither a save nor a restore is under way; its die's clock runs. -/
def ctxMoves (s : State) (w : Who) : Bool :=
  let c := getCtx s w
  c.job.isSome && !c.halted && c.saving.isNone && c.restoring.isNone && clockRuns (getDie s w.die).power

/-- A stream that can be given a turn: in RUN, or in a wait that its own instruction tests again; a rendezvous is left only when the
meeting opens (01 R12, R19, R24). -/
def streamMoves (c : Ctx) (e : Eng) : Bool :=
  let t := getStat c e
  t.st == .run || (t.st == .wait && t.wkind != 7)

end Sys2Proof.Machine
end

