-- ==== Sys2Proof/Machine/Gate.lean ====
section
/-!
DEFINITION. Bookings as the engines see them: handles, gates, the slots that unbooked Mill work may use (01 R21, R22; 12 R274, R293).
-/
namespace Sys2Proof.Machine
open Sys2Proof

/-! ### Handles (12 R274) -/

def getBk (d : Die) (i : Nat) : Booking := spGet {} d.reeve.bks i

def setBk (d : Die) (i : Nat) (b : Booking) : Die := { d with reeve := { d.reeve with bks := spSet {} d.reeve.bks i b } }

def handleOf (i : Nat) (b : Booking) : Nat := i * 64 + b.gen

/-- A booking that is queued, placing or committed. -/
def bkLive (b : Booking) : Bool := b.st != .free

/-- A booking that holds calendar slots of its own (12 R283: committed and not yet ended). -/
def bkHeld (b : Booking) : Bool := b.st == .booked || b.st == .running

/-- The index of the booking that a handle names, if it is live. -/
def liveIdx (d : Die) (h : Nat) : Option Nat :=
  let b := getBk d (h / 64)
  if h ≠ 0 && h < 2 ^ 20 && bkLive b && b.gen == h % 64 then some (h / 64) else none

def nthUse (b : Booking) (u : Nat) : Use := b.uses.getD u {}

/-- A use of an exclusive class that has not ended. -/
def exLeft (u : Use) : Bool := u.cls < 2 && !u.ended

/-- The core of an instance of an exclusive class (12 R273). -/
def instCore (cls inst : Nat) : Nat := if cls = 0 then inst else inst / 2

/-! ### Stamps (12 R287; 17 R445) -/

/-- Draw a stamp of die `d`: 32 in a 16 ns unit, one beyond them in the next unit. -/
def drawStamp (s : State) (d : Nat) : State × Word :=
  let r := (getDie s d).reeve
  let now := ftimeNow s d / 16
  let (u, q) := if r.stampUnit < now then (now, 0) else if r.stampSeq < 32 then (r.stampUnit, r.stampSeq) else (r.stampUnit + 1, 0)
  (modDie s d fun x => { x with reeve := { x.reeve with stampUnit := u, stampSeq := q + 1 } },
    w64 (u % 2 ^ 44 * 2 ^ 20 + d % 2 ^ 15 * 2 ^ 5 + q))

/-! ### Predecessors and gates (12 R293) -/

/-- An edge's predecessor has ended: its booking is not live any more, or its use has ended. -/
def edgeDone (s : State) (e : Edge) : Bool :=
  match liveIdx (getDie s e.pdie) e.pred with
  | none => true
  | some i => (nthUse (getBk (getDie s e.pdie) i) e.puse).ended

/-- Every predecessor of a use has ended: the task's earlier exclusive uses and the bookings on its edges. -/
def predsDone (s : State) (self i u : Nat) : Bool :=
  let d := getDie s self
  let b := getBk d i
  ((b.uses.take u).all fun v => !(exLeft v)) &&
    d.reeve.edges.all fun e => !(e.succ == handleOf i b && e.use == u) || edgeDone s e

/-- What a use gate answers work tagged with a use (01 R21, R22; 12 R296; 14 R355): a violation, go on as booked work, go on as unbooked
work, or wait. -/
inductive GateAns where
  | bad | opened | unbooked | wait
deriving DecidableEq, Repr

/-- The gate of a use of booking `i` in the present slot; `held` is work accepted or past the gate when BDONE closed it. -/
def useGate (s : State) (self i u slot : Nat) (held : Bool) : GateAns :=
  let x := nthUse (getBk (getDie s self) i) u
  if x.ended then .bad
  else if (x.gate && x.slots.contains slot && !x.closing) || (x.closing && held) then .opened
  else if x.unb && !x.susp && predsDone s self i u then .unbooked
  else .wait

/-- The gate that an engine's work tagged with `use` meets: class 0 the Mill, 1 a Carter, by instance.  Work of a task that is being booked
afresh waits for its place (12 R300). -/
def gateFor (s : State) (w : Who) (use cls inst : Nat) (held : Bool) : GateAns :=
  let d := getDie s w.die
  match (getCtx s w).job with
  | none => .bad
  | some j =>
    if !j.bkd then (if use = 0 then .unbooked else .bad)
    else
      match liveIdx d j.handle with
      | none => .bad
      | some i =>
        let b := getBk d i
        let x := nthUse b use
        if !(bkHeld b) && b.on.isSome && use < b.uses.length then .wait
        else if !(bkHeld b) || use ≥ b.uses.length || x.cls ≠ cls || x.pinst ≠ inst then .bad
        else useGate s w.die i use (slotNow s w.die) held

/-- The instance of the Mill, and of Carter `k`, of a core. -/
def millInst (w : Who) : Nat := w.core

def carterInst (w : Who) (k : Nat) : Nat := 2 * w.core + k

/-! ### Calendar rows (12 R272, R274) -/

/-- The entry of slot `t` on exclusive calendar `cal` (0 to 31 the Mills, 32 to 95 the Carters). -/
def exEntry (d : Die) (cal t : Nat) : BitVec 25 := spGet 0 d.reeve.excl (cal * 4096 + t % 4096)

def exSt (e : BitVec 25) : Nat := e.toNat % 4

def exOwner (e : BitVec 25) : Nat := e.toNat / 32

def exUse (e : BitVec 25) : Nat := e.toNat / 4 % 8

/-- The calendar of an instance of an exclusive class. -/
def calOf (cls inst : Nat) : Nat := if cls = 0 then inst else 32 + inst

/-- An open slot (12 R276). -/
def openSlot (t : Nat) : Bool := t % 16 == 15

/-- Unbooked Mill work that takes `cycles` may start now: the slot's entry is free, and the work ends before the next slot with an entry
begins (01 R21). -/
def unbookedRoom (s : State) (w : Who) (cycles : Nat) : Bool :=
  let d := getDie s w.die
  let t := slotNow s w.die
  let need := cycles * cycleUnits d.power.state
  let busy := fun k => exSt (exEntry d (calOf 0 (millInst w)) (t + k)) != 0
  let n := (need + d.time.nfrac) / (320 * 18) + 2
  !(busy 0) && (List.range n).all fun k => k == 0 || !(busy k) || d.time.ftime * 18 + d.time.nfrac + need ≤ (t + k) * 320 * 18

/-- A booked use of class `cls`, instance `inst`, is current with its gate open: the context that owns it (05 R127, R128). -/
def currentOwner (s : State) (w : Who) (cls inst : Nat) : Option Nat :=
  let d := getDie s w.die
  let t := slotNow s w.die
  let e := exEntry d (calOf cls inst) t
  if exSt e < 2 then none
  else
    match liveIdx d (exOwner e) with
    | none => none
    | some i =>
      if useGate s w.die i (exUse e) t false = .opened then
        let own := fun (c : Ctx) => match c.job with
          | some j => j.bkd && j.handle == exOwner e
          | none => false
        if own (getCtx s { w with ctx := 0 }) then some 0
        else if own (getCtx s { w with ctx := 1 }) then some 1
        else none
      else none

/-! ### What an instruction that passes a gate leaves behind (12 R294) -/

/-- Something tagged with use `u` of the context's job has issued. -/
def markIssued (s : State) (w : Who) (u : Nat) : State :=
  match (getCtx s w).job with
  | none => s
  | some j =>
    if !j.bkd then s
    else
      match liveIdx (getDie s w.die) j.handle with
      | none => s
      | some i => modDie s w.die fun d =>
          let b := getBk d i
          setBk d i { b with uses := b.uses.mapIdx fun k x => if k = u then { x with issued := true } else x }

/-- Mark uses of the context's booking as ended in the present slot (12 R294). -/
def endUses (s : State) (w : Who) (p : List Use → Nat → Use → Bool) : State :=
  match (getCtx s w).job with
  | none => s
  | some j =>
    if !j.bkd then s
    else
      match liveIdx (getDie s w.die) j.handle with
      | none => s
      | some i =>
        let t := slotNow s w.die
        modDie s w.die fun d =>
          let b := getBk d i
          if bkHeld b && !(b.uses.all fun x => x.ended) then
            let f := fun (k : Nat) (x : Use) => if exLeft x && p b.uses k x then { x with ended := true, endS := t, gate := false } else x
            setBk d i { b with uses := b.uses.mapIdx f }
          else d

/-- A later use of the same instance has issued. -/
def laterIssued (us : List Use) (k : Nat) (x : Use) : Bool :=
  (us.drop (k + 1)).any fun y => y.cls == x.cls && y.pinst == x.pinst && y.issued

/-- BDONE has closed the use, and its engine holds nothing of it any more (14 R355). -/
def closedOut (c : Ctx) (n : Nat) (x : Use) : Bool :=
  x.closing && if x.cls = 0 then !(c.mill.flight.any fun f => f.f.use.val == n) else
    !((if x.pinst % 2 = 0 then c.c0 else c.c1).q.any fun q => q.use == n)

/-- The uses that BDONE has closed end with the last of their work. -/
def closedEnds (s : State) (w : Who) : State := endUses s w fun _ n x => closedOut (getCtx s w) n x

/-- A Carter use ends once a later use's command has gone to that Carter and it holds nothing of the use (12 R294). -/
def carterEnds (s : State) (w : Who) (k : Nat) : State :=
  let q := (if k = 0 then (getCtx s w).c0 else (getCtx s w).c1).q
  endUses s w fun us n x =>
    closedOut (getCtx s w) n x ||
      (x.cls == 1 && x.pinst == carterInst w k && x.issued && laterIssued us n x && !(q.any fun c => c.use == n))

/-- A Mill use ends once the stream's next instruction has a higher use index (or, `u` at 8, is MRDV or MEXIT) and nothing of it is in
flight (12 R294). -/
def millEnds (s : State) (w : Who) (u : Nat) : State :=
  let fl := (getCtx s w).mill.flight
  endUses s w fun _ n x => x.cls == 0 && x.issued && n < u && !(fl.any fun f => f.f.use.val == n)

end Sys2Proof.Machine
end

