-- ==== Sys2Proof/Machine/Carter.lean ====
section
/-!
DEFINITION. Carter commands: their issue, CWAIT, and the Carters' own steps (08 R223 to R232; 05 R128, R151; 07 R198).
-/
namespace Sys2Proof.Machine
open Sys2Proof

/-! ### Durations (08 R231; 18 R467) -/

def ceilDiv (a b : Nat) : Nat := (a + b - 1) / b

/-- Cycles of a command with `n` bytes and `rows` rows to move; `sp` is the memory of its first page. -/
def carterCycles (s : State) (d : Nat) (q : Cmd) (sp : Space) (n rows : Nat) : Nat :=
  let h := hops s d (capPeer q.cap)
  let e := extHops s d (capPeer q.cap)
  let rate := if e = 0 then 128 else 112
  let copy := match sp with
    | .hbm => 160 + ceilDiv n 128
    | .gran => 1200 + ceilDiv n 64
    | .host => 1600 + ceilDiv n 64
  match q.kind with
  | .cpy => copy
  | .cpym => copy + 4
  | .cpyg => 160 + 12 * rows + ceilDiv n 128
  | .cpys => 160 + 12 * rows + ceilDiv n 128
  | .tsend => 256 + 232 * h + 72 * e + ceilDiv n rate
  | .tget => 512 + 232 * h + 72 * e + ceilDiv n rate
  | .bndc => 600 + q.a.toNat
  | .bndr => 0

/-! ### Fields -/

def xDir (x : Word) : Bool := bit x 0

def xTag (x : Word) : Bool := bit x 1

def xPaz (x : Word) : Bool := bit x 2

def xNt (x : Word) : Bool := bit x 3

def xBar (x : Word) : Nat := bits x 8 18 * 32

def xBph (x : Word) : Nat := bits x 26 16

def xMwo (x : Word) : Nat := bits x 42 18 * 32

def lRow (l : Word) : Nat := bits l 48 8

/-- The command moves rows. -/
def cmdRows (k : CmdKind) : Bool := k == .cpyg || k == .cpys

/-- The bytes of a row; of a command without rows, all of them. -/
def rowLen (q : Cmd) : Nat := if cmdRows q.kind then lRow q.l * 32 else cmdLen q

/-- The control word breaks no rule of R224. -/
def xOk (k : CmdKind) (arv : Bool) (x : Word) : Bool :=
  bits x 60 4 == 0 && bits x 4 4 == 0 && (k == .cpym || xMwo x == 0) && (arv || bits x 8 34 == 0) &&
    (!(xDir x) || k == .cpy) && (!(xNt x) || (k == .cpy && xDir x) || k == .cpys) && (xMwo x == 0 || xMwo x + 24 ≤ spEnd)

/-- The length word breaks no rule of R225. -/
def lOk (k : CmdKind) (l : Word) : Bool :=
  let n := bits l 24 24
  bits l 56 8 == 0 && !(bit l 23) && n % 32 == 0 && 32 ≤ n && n ≤ spEnd && (!(k == .tsend || k == .tget) || n ≤ 0x1000) &&
    (if cmdRows k then 1 ≤ lRow l && lRow l ≤ 128 && n % (lRow l * 32) == 0 else lRow l == 0)

/-! ### Issue (R226) -/

def getCq (c : Ctx) (k : Nat) : CarterQ := if k = 0 then c.c0 else c.c1

def setCq (c : Ctx) (k : Nat) (q : CarterQ) : Ctx := if k = 0 then { c with c0 := q } else { c with c1 := q }

def modCq (s : State) (w : Who) (k : Nat) (f : CarterQ → CarterQ) : State := modCtx s w fun c => setCq c k (f (getCq c k))

/-- The handle and use of a gate wait, as its object (05 R152). -/
def gateObj (c : Ctx) (u : Nat) : Word := w64 ((c.job.getD {}).handle * 8 + u)

/-- Accept a command into a Carter's queue. -/
def acceptCmd (s : State) (w : Who) (k : Nat) (q : Cmd) : State :=
  let s := modDie s w.die fun d => q.pages.foldl (fun d p => tlbCount d p.1 p.2 true) d
  let n := (getCtx s w).issued
  let s := modCtx s w fun c => { c with issued := n + 1 }
  let s := modCq s w k fun cq => { cq with q := cq.q ++ [{ q with seq := cq.seq, ord := n }], seq := (cq.seq + 1) % 2 ^ 16 }
  carterEnds (markIssued s w q.use) w k

/-- Step 4: the global range of CPY and CPYM. -/
def carterPages (s : State) (w : Who) (q : Cmd) (k : State → Cmd → Res) : Res :=
  if q.kind != .cpy && q.kind != .cpym then k s q
  else if q.a.toNat % 32 ≠ 0 then .trap 0x03 q.a
  else
    let need := if xDir q.x then needStore else needLoad
    match translateRange s w.die (.core w.core) (getCtx s w).dbg.xctx q.a need (granules q.a.toNat (cmdLen q)) with
    | (_, .error (cause, va)) => rangeRes cause va
    | (s, .ok ls) => k s { q with pages := (ls.map fun l => (l.asid, l.base)).eraseDups }

/-- Steps 5 and 6: the capability of TSEND and TGET, and the permit of TSEND. -/
def carterCap (s : State) (w : Who) (q : Cmd) (k : State → Cmd → Res) : Res :=
  if q.kind != .tsend && q.kind != .tget then k s q
  else
    let cur := capCursor q.cap
    let n := cmdLen q
    if !q.cap.tag then .trap 0x06 (w64 cur)
    else if capKind q.cap ≠ 1 || !(capPerm q.cap).testBit (if q.kind = .tsend then 3 else 0) then .trap 0x08 (w64 cur)
    else if cur % 32 ≠ 0 || cur < capLo q.cap || cur + n > capHi q.cap || cur % 4096 + n > 4096 then .trap 0x07 (w64 cur)
    else if q.kind = .tget then k s q
    else if cur % 4096 ≠ 0 then .trap 0x03 (w64 cur)
    else
      match (getCtx s w).permits.find? fun p => p.die == capPeer q.cap && p.addr == w64 cur && p.addr != 0 && p.count != 0 with
      | none => .trap 0x0E (w64 cur)
      | some p => k s { q with perm := some p }

/-- A permit is used: its entry frees at 0 (05 R137). -/
def usePermit (s : State) (w : Who) (q : Cmd) : State :=
  match q.perm with
  | none => s
  | some p => modCtx s w fun c => { c with
      permits := c.permits.filterMap fun x => if x = p then (if x.count ≤ 1 then none else some { x with count := x.count - 1 }) else some x }

/-- CPYM reads its Mill word as the access core reads a scratchpad scalar. -/
def carterWord (s : State) (w : Who) (q : Cmd) (k : State → Cmd → Res) : Res :=
  if q.kind != .cpym then k s q
  else
    let o := xMwo q.x
    let y := getCore s w
    sensed s (tilesOf o 24) (rangeOnce s o 24 false
      (match (sectorsOf o 24).find? fun j => spMark y j != 0 with
       | some j => if spMark y j = 2 then .found (spDetect s w j) 0x10 (w64 o) else .trap 0x11 (w64 o)
       | none => k s { q with millw := BitVec.ofNat 192 (leNat (spRead y o 24)) }))

/-- Steps 7 and 8, and acceptance.  A command that overlaps one of its own context's queues, and waits at the Carter (05 R145). -/
def carterAccept (s : State) (w : Who) (k : Nat) (q : Cmd) : Res :=
  if (getCq (getCtx s w) k).q.length ≥ 16 then .wait 5 0 (w64 (30 + k))
  else if acqPending s w then .hold
  else
    match localClash (getCore s w) (getCtx s w) (cmdOff q) (cmdLen q) (cmdWrites q) with
    | some v => .trap 0x0C (w64 v)
    | none => carterWord s w q fun s q => .ok (acceptCmd (usePermit s w q) w k q) .seq

/-- The memory of the first page of a CPY, for its duration at the gate. -/
def firstSpace (s : State) (w : Who) (q : Cmd) : Space :=
  match (translate s w.die (.core w.core) (getCtx s w).dbg.xctx q.a).2 with
  | some l => l.sp
  | none => .hbm

/-- The checks of R226 on a command whose words have been taken. -/
def carterIssue (s : State) (w : Who) (word : Word) (k : Nat) (q : Cmd) : Res :=
  let c := getCtx s w
  if !(xOk q.kind q.arv q.x) then .trap 0x01 q.x
  else if !(lOk q.kind q.l) then .trap 0x01 q.l
  else if cmdRows q.kind && !(chEn (getChan c q.ch) && chCons (getChan c q.ch) == 3 + k) then .trap 0x01 word
  else
    match gateFor s w q.use 1 (carterInst w k) false with
    | .bad => .trap 0x1B word
    | .wait =>
      let dur := carterCycles s w.die q (firstSpace s w q) (cmdLen q) (cmdLen q / rowLen q)
      .wait 6 (gateObj c q.use) (w64 (dur * 4 + k))
    | _ =>
      let o := cmdOff q
      if o % 32 ≠ 0 then .trap 0x03 (w64 o)
      else
        match (if o + cmdLen q > spEnd then some o else badOffset c o (cmdLen q)),
            (if q.kind = .cpym then badOffset c (xMwo q.x) 24 else none).orElse fun _ => if q.arv then badOffset c (xBar q.x) 32 else none with
        | some v, _ => .trap 0x04 (w64 v)
        | none, some v => .trap 0x04 (w64 v)
        | none, none => carterPages s w q fun s q => carterCap s w q fun s q => carterAccept s w k q

/-- A Carter command: x and l are g registers, `src` a further operand. -/
def carterBody (i : Instr) (kind : CmdKind) (x l : GReg) (src : List Src) (ch : Nat) (cr : Option CapReg) (u : Fin 8) (c1 arv : Bool)
    (s : State) : Res :=
  withOps s (wordOf i) ([.g x, .g l] ++ src) [] noDst fun s vs =>
    let w := me s
    let q : Cmd :=
      { kind := kind, use := u.val, arv := arv, x := opv vs 0, l := opv vs 1, a := opv vs 2, ch := ch, iw := (encodeNat i).getD 0
        cap := match cr with | some r => readCap (getCtx s w) r | none => {} }
    capReady s cr.toList cr.toList (carterIssue s w (wordOf i) (if c1 then 1 else 0) q)

def execCpy (x a l : GReg) (u : Fin 8) (c e : Bool) (s : State) : Host.Outcome State Fault Refusal :=
  runAccess s (carterBody (.cpy x a l u c e) .cpy x l [.g a] 0 none u c e)

def execCpyg (x : GReg) (n : Fin 16) (l : GReg) (u : Fin 8) (c e : Bool) (s : State) : Host.Outcome State Fault Refusal :=
  runAccess s (carterBody (.cpyg x n l u c e) .cpyg x l [] n.val none u c e)

def execCpys (x : GReg) (n : Fin 16) (l : GReg) (u : Fin 8) (c e : Bool) (s : State) : Host.Outcome State Fault Refusal :=
  runAccess s (carterBody (.cpys x n l u c e) .cpys x l [] n.val none u c e)

def execCpym (x a l : GReg) (u : Fin 8) (c e : Bool) (s : State) : Host.Outcome State Fault Refusal :=
  runAccess s (carterBody (.cpym x a l u c e) .cpym x l [.g a] 0 none u c e)

def execTsend (x : GReg) (cr : CapReg) (l : GReg) (u : Fin 8) (c e : Bool) (s : State) : Host.Outcome State Fault Refusal :=
  runAccess s (carterBody (.tsend x cr l u c e) .tsend x l [] 0 (some cr) u c e)

def execTget (x : GReg) (cr : CapReg) (l : GReg) (u : Fin 8) (c e : Bool) (s : State) : Host.Outcome State Fault Refusal :=
  runAccess s (carterBody (.tget x cr l u c e) .tget x l [] 0 (some cr) u c e)

/-! ### CWAIT (R232) -/

def cwaitWord (c : Ctx) : Word :=
  let b := fun (x : Bool) (n : Nat) => if x then 2 ^ n else 0
  w64 (c.c0.q.length + c.c1.q.length * 2 ^ 8 + b c.c0.pz 16 + b c.c1.pz 17 + b c.c0.ps 18 + b c.c1.ps 19 + b c.c0.fail 20 + b c.c1.fail 21)

def clearCq (q : CarterQ) : CarterQ := { q with fail := false, ps := false, pz := false }

def execCwait (d a : RC) (m : BitVec 13) (s : State) : Host.Outcome State Fault Refusal :=
  runAccess s fun s => withOps s (wordOf (.cwait d a m)) [rcSrc a] [] d fun s vs =>
    let v := opv vs 0
    let n := m.toInt
    if n < 0 ∨ 16 < n ∨ v.toNat > 2 then .trap 0x01 (wordOf (.cwait d a m))
    else
      let c := getCtx s (me s)
      let ok := fun (q : CarterQ) => (q.q.length : Int) ≤ n
      if (v != 1 && !(ok c.c0)) || (v != 0 && !(ok c.c1)) then .wait 5 0 (w64 (2 * n.toNat + if v != 1 && !(ok c.c0) then 0 else 1))
      else
        let r := timingVal s (cwaitWord c)
        let s := modCtx s (me s) fun c =>
          { c with c0 := if v != 1 then clearCq c.c0 else c.c0, c1 := if v != 0 then clearCq c.c1 else c.c1 }
        putTiming s d r

/-! ### The Carter's steps (R227 to R230; 05 R128) -/

def headCmd (c : Ctx) (k : Nat) : Option Cmd := (getCq c k).q.head?

/-- Replace the command at the head of a queue. -/
def modHead (s : State) (w : Who) (k : Nat) (f : Cmd → Cmd) : State :=
  modCq s w k fun q => match q.q with
    | [] => q
    | h :: t => { q with q := f h :: t }

/-- A TLB entry by name. -/
def tlbNamed (d : Die) (p : Nat × Nat) : Option TlbEnt := d.tlb.ents.find? fun e => e.asid = p.1 && tlbName e.gen e.base e.log = p.2

/-- The page of a command that holds `va`. -/
def cmdPage (d : Die) (q : Cmd) (va : Nat) : Option TlbEnt :=
  (q.pages.filterMap (tlbNamed d)).find? fun e => va / 2 ^ e.log = e.base

/-- A watchpoint meets a sector at offset `so`, moved from or to global address `va` where it has one: the report, once in a command
(05 R151). -/
def carterWatch (s : State) (w : Who) (k : Nat) (q : Cmd) (va : Option Nat) (so : Nat) (into : Bool) : State :=
  let c := getCtx s w
  if q.seen then s
  else
    let g := va.bind fun va => watchHit c false false (if into then .read else .write) va 32
    let p := watchHit c false true (if into then .write else .read) so 32
    match (match g with | some x => some x | none => p) with
    | none => s
    | some x =>
      let left := (cmdLen q - q.done) / 32 - 1
      let skid := min (Config.carterSkid s.free % 5) left
      let s := { s with free := s.free + 1 }
      modHead (modCtx s w fun c => addReport c (2 + k) 0x14 (w64 (x / 32 % 2 ^ 48 * 2 ^ 16 + skid * 2 ^ 8 + (3 + k))) (3 + k)) w k
        fun q => { q with seen := true }

/-- Sticky status: poison as zero, or propagated (R229). -/
def stickyPoison (s : State) (w : Who) (k : Nat) (zero : Bool) : State :=
  modCq s w k fun q => if zero then { q with pz := true } else { q with ps := true }

/-- A sector arrives in the scratchpad at `so`; `bad` if its source is poisoned (R229). -/
def sectorIn (s : State) (w : Who) (k so : Nat) (data : List Byte) (bad zero : Bool) : State :=
  if !bad then modCore s w fun y => spWrite y so data
  else
    let s := stickyPoison s w k zero
    modCore s w fun y =>
      let y := if zero then spWrite y so zeros32 else spPoison (spWrite y so data) (so / 32)
      setPois y (so / 4096)

/-- Move one sector from global memory to the scratchpad. -/
def moveIn (s : State) (w : Who) (k : Nat) (q : Cmd) (e : TlbEnt) (va so : Nat) : State :=
  let sp := pteSpace e.pte
  let pa := readPa s w.die (pteBN e.pte) (ptePA e.pte + va % 2 ^ e.log) va e.log
  let s := cacheLook (physMend s w.die sp pa 32) w.die (clusterOf w) sp pa 32 (pteCA e.pte && !(pteBN e.pte))
  let m := physMark s w.die sp (pa / 32)
  let data := physRead s w.die sp pa 32
  let s := if m = 0 then s else countEv (physDetect s w sp (pa / 32) m) w 0x0C 1
  sectorIn s w k so data (m != 0) (xPaz q.x || ptePZ e.pte)

/-- Release the pages of the head command. -/
def dropPages (s : State) (w : Who) (k : Nat) (q : Cmd) : State :=
  modHead (modDie s w.die fun d => q.pages.foldl (fun d p => tlbCount d p.1 p.2 false) d) w k fun q => { q with pages := [] }

/-- Read a scratchpad sector for a copy out: its bytes, and the mark met where it is not to read as zeros. -/
def readOut (s : State) (w : Who) (k so : Nat) (paz : Bool) : State × List Byte × Nat :=
  let y := getCore s w
  match spMark y (so / 32) with
  | 0 => (s, spRead y so 32, 0)
  | m =>
    let s := countEv (if m = 2 then spDetect s w (so / 32) else s) w 0x0C 1
    if paz then (stickyPoison s w k true, zeros32, 0) else (s, spRead y so 32, m)

/-- Move one sector from the scratchpad to global memory.  A poisoned one to the host goes as zeros and fails the command (R229, R230); one
whose check fails goes with the poison indication, and 0x10 is reported (13 R332). -/
def moveOut (s : State) (w : Who) (k : Nat) (q : Cmd) (e : TlbEnt) (va so : Nat) : State :=
  let sp := pteSpace e.pte
  let pa := ptePA e.pte + va % 2 ^ e.log
  let r := readOut s w k so (xPaz q.x)
  let put := fun (s : State) (bs : List Byte) => physWrite s w.die (clusterOf w) sp pa bs (if xNt q.x || !(pteCA e.pte) then .nt else .upd)
  match r.2.2, sp with
  | 0, _ => put r.1 r.2.1
  | 2, .host => modCtx (physPoison (put r.1 r.2.1) w.die sp (pa / 32)) w fun c => addReport c (2 + k) 0x10 (w64 va) (3 + k)
  | _, .host => modHead (dropPages (put r.1 zeros32) w k q) w k fun q => { q with fail := 0x11, failVal := w64 va }
  | _, _ => physPoison (put (stickyPoison r.1 w k false) r.2.1) w.die sp (pa / 32)

/-- The command covers all of tile `j`. -/
def coversTile (q : Cmd) (j : Nat) : Bool := cmdOff q ≤ j * 4096 && (j + 1) * 4096 ≤ cmdOff q + cmdLen q

/-- After a sector that is the command's last in its tile: FULL (R227), or the DIRTY bit goes (05 R133). -/
def leaveTile (s : State) (w : Who) (k : Nat) (q : Cmd) (j : Nat) (into : Bool) : State :=
  if into then (if xTag q.x then changeFull s w j true (3 + k) else s)
  else
    modCore s w fun y =>
      if spGet false y.clean (j * 2 + k) then
        { setTag y j (setBit (tagOf y j) 2 false) with clean := spDel y.clean (j * 2 + k) }
      else y

/-- On entering a tile: its entry is read, and the second part tells whether its tag is as awaited (R227). -/
def enterTile (s : State) (w : Who) (k : Nat) (q : Cmd) (j : Nat) (into : Bool) : State × Bool :=
  let s := tagSense s w j
  if xTag q.x && tagFull (getCore s w) j == into then (s, false)
  else
    let s := if xTag q.x then tagObserved s w (3 + k) j (!into) else s
    (if !into && coversTile q j then modCore s w fun y => { y with clean := spSet false y.clean (j * 2 + k) true } else s, true)

/-- The wait for a channel entry, bounded by `chlim` (R230). -/
def carterAwait (s : State) (w : Who) (k : Nat) (q : Cmd) : State :=
  let now := cycNow s w.die
  if q.since = 0 then modHead s w k fun q => { q with since := now + 1 }
  else if now + 1 - q.since > (getCtx s w).csr.chlim.toNat then modHead s w k fun q => { q with fail := 0x0B, failVal := w64 q.ch, since := 0 }
  else s

/-- A row's address is popped and its page translated (R227, R230). -/
def carterRow (s : State) (w : Who) (k : Nat) (q : Cmd) : State :=
  match (getChan (getCtx s w) q.ch).q with
  | [] => carterAwait s w k q
  | e :: _ =>
    if !e.filled then carterAwait s w k q
    else if e.bad then modHead s w k fun q => { q with fail := 0x11, failVal := Config.lostVal s.free, since := 0 }
    else if xlWaits s w.die (.core w.core) (getCtx s w).dbg.xctx e.val then s
    else
      let s := chDrop s w (3 + k) q.ch
      let s := modHead s w k fun q => { q with a := e.val, rows := q.rows + 1, since := 0 }
      let failed := fun (s : State) (c : Nat) => modHead s w k fun q => { q with fail := c, failVal := e.val }
      if e.val.toNat % 32 ≠ 0 || e.val.toNat % 4096 + rowLen q > 4096 then failed s 0x03
      else
        match translate s w.die (.core w.core) (getCtx s w).dbg.xctx e.val with
        | (s, none) => failed s 0x04
        | (s, some l) =>
          if !((if q.kind = .cpyg then needLoad else needStore) l.pte) then failed s 0x05
          else
            modHead (modDie s w.die fun d => tlbCount d l.asid l.base true) w k fun q => { q with pages := [(l.asid, l.base)] }

/-- A sector of a TGET, whose bytes have come (R227, R229). -/
def tgetIn (s : State) (w : Who) (k : Nat) (q : Cmd) (so : Nat) : State :=
  sectorIn s w k so (q.bw.data.getD (q.done / 32) []) ((q.bw.pois.headD []).contains (q.done / 32)) (xPaz q.x)

/-- A sector moves: a TGET's from the bytes that have come, another one's while its page is mapped. -/
def moveSector (s : State) (w : Who) (k : Nat) (q : Cmd) (va so : Nat) : Option State :=
  if q.kind = .tget then some (tgetIn s w k q so)
  else (cmdPage (getDie s w.die) q (va % 2 ^ 55)).map fun e => if cmdWrites q then moveIn s w k q e va so else moveOut s w k q e va so

/-- One sector, or one row's address.  The second part tells whether the command can go on at once. -/
def carterSector (s : State) (w : Who) (k : Nat) (q : Cmd) : State × Bool :=
  let n := cmdLen q
  let into := cmdWrites q
  if q.done ≥ n then (modHead s w k fun q => { q with moved := true, wait := if q.kind = .cpym then 2 else 0 }, false)
  else if cmdRows q.kind && q.done = q.rows * rowLen q then
    let t := carterRow s w k q
    (t, (headCmd (getCtx t w) k).any fun x => x.rows != q.rows && x.fail == 0)
  else
    let so := cmdOff q + q.done
    let va := q.a.toNat + (if cmdRows q.kind then q.done - (q.rows - 1) * rowLen q else q.done)
    let j := so / 4096
    let leaves := (so + 32) % 4096 = 0 || q.done + 32 = n
    let r := if so % 4096 = 0 || q.done = 0 then enterTile s w k q j into else (s, true)
    if !r.2 then r
    else if leaves && into && xTag q.x && !(tagTurn r.1 w j true (3 + k)) then (s, false)
    else
      match moveSector r.1 w k q va so with
      | none => (s, false)
      | some s =>
        let s := carterWatch s w k q (if q.kind = .tget then none else some va) so into
        let s := countEv s w 0x04 1
        if (headCmd (getCtx s w) k).any fun x => x.fail != 0 then (s, false)
        else
          let s := modHead s w k fun q => { q with done := q.done + 32 }
          let s := if leaves then leaveTile s w k q j into else s
          if cmdRows q.kind && q.done + 32 = q.rows * rowLen q then (dropPages s w k q, true) else (s, true)

/-- A TSEND leaves: it waits for full, reads its bytes and sends the landing (R227; 17 R442). -/
def tsendStep (s : State) (w : Who) (k : Nat) (q : Cmd) : State :=
  let off := cmdOff q
  let js := tilesOf off (cmdLen q)
  let s := tagSenseAll s w js
  if xTag q.x && js.any fun j => !(tagFull (getCore s w) j) then s
  else
    let s := if xTag q.x then js.foldl (fun s j => tagObserved s w (3 + k) j true) s else s
    let r := (sectorsOf off (cmdLen q)).foldl (fun (a : State × List Byte × List Nat) j =>
      let t := readOut a.1 w k (32 * j) (xPaz q.x)
      let s := if t.2.2 ≠ 0 then stickyPoison t.1 w k false else t.1
      (carterWatch s w k q none (32 * j) false, a.2.1 ++ t.2.1, if t.2.2 ≠ 0 then a.2.2 ++ [j - off / 32] else a.2.2)) (s, [], [])
    let p := q.perm.getD { die := 0, core := 0, gtag := 0, addr := 0, launch := 0, csel := false, cctx := 0, count := 0 }
    let m : Msg :=
      { kind := .landing, src := w.die, dst := capPeer q.cap, w := w, agent := 3 + k, tag := q.seq, addr := w64 (capCursor q.cap),
        size := cmdLen q, capk := 1
        land := some { src := w, carter := k, cmd := q.seq, launch := p.launch, csel := p.csel, cctx := p.cctx, core := p.core, gtag := p.gtag,
                       bytes := r.2.1, pois := r.2.2 } }
    let s := countEv (send r.1 m) w 0x04 (cmdLen q / 32)
    modHead s w k fun q => { q with done := cmdLen q, wait := 1 }

/-- A TGET leaves: it waits until its first tile is empty, and asks for the bytes (R227). -/
def tgetStep (s : State) (w : Who) (k : Nat) (q : Cmd) : State :=
  let j := cmdOff q / 4096
  let s := tagSense s w j
  if xTag q.x && tagFull (getCore s w) j then s
  else
    let m : Msg :=
      { kind := .tget, src := w.die, dst := capPeer q.cap, w := w, agent := 3 + k, tag := q.seq, addr := w64 (capCursor q.cap),
        size := cmdLen q, capk := 1 }
    modHead (send s m) w k fun q => { q with wait := 1 }

/-! ### Bundle contexts and the start of BNDC (18 R462; 17 R447) -/

def getBd (c : Ctx) (n : Nat) : Bd := spGet {} c.bds n

def setBd (c : Ctx) (n : Nat) (b : Bd) : Ctx := { c with bds := spSet {} c.bds n b, errs := mend c (.bd n) }

def bdWord (b : Bd) (k : Nat) : Word := spGet 0 b.w k

/-- The header H. -/
def bdHdr (b : Bd) : Nat := ((List.range 4).map fun k => bits (bdWord b k) 52 12 * 2 ^ (12 * k)).sum

/-- The address of line `k`, and of the lines added. -/
def bdLine (b : Bd) (k : Nat) : Nat := bits (bdWord b k) 0 52

def bdSetLine (b : Bd) (k v : Nat) : Bd := { w := spSet 0 b.w k (w64 (bits (bdWord b k) 52 12 * 2 ^ 52 + v % 2 ^ 52)) }

def bdSetHdr (b : Bd) (h : Nat) : Bd :=
  { w := (List.range 4).foldl (fun l k => spSet 0 l k (w64 (h / 2 ^ (12 * k) % 2 ^ 12 * 2 ^ 52 + bdLine b k))) b.w }

def hdrNl (h : Nat) : Nat := h % 32

def hdrBase (h : Nat) : Nat := h / 2 ^ 5 % 2 ^ 16 * 128

def hdrState (h : Nat) : Nat := h / 2 ^ 21 % 4

def hdrCart (h : Nat) : Nat := h / 2 ^ 23 % 2

def hdrUse (h : Nat) : Nat := h / 2 ^ 24 % 8

def hdrPaz (h : Nat) : Bool := h.testBit 27

def hdrBad (h : Nat) : Bool := h.testBit 28

def hdrSetState (h st : Nat) : Nat := h - hdrState h * 2 ^ 21 + st * 2 ^ 21

def bdLines (b : Bd) : List Nat := (List.range (hdrNl (bdHdr b))).map (bdLine b)

/-- The home of a line (17 R444). -/
def lineDie (g : Nat) : Nat := g / 2 ^ 37 % 2 ^ 15

/-- Send a bundle message of a command about each of some lines. -/
def sendLines (s : State) (w : Who) (k : Nat) (q : Cmd) (kind : MKind) (ls : List Nat) : State :=
  let all := bdLines (getBd (getCtx s w) q.bd)
  ls.foldl (fun s n =>
    let g := all.getD n 0
    let m : Msg := { kind := kind, src := w.die, dst := lineDie g, w := w, agent := 3 + k, tag := q.seq, op := n, addr := w64 g, opnd := q.bw.stamp }
    send s (if kind = .prepare then
      { m with
        bytes := q.bw.data.getD n [], pois := q.bw.pois.getD n []
        words := (all.eraseIdx n).map w64 } else m)) s

/-- PREPARE goes to every line not yet acknowledged. -/
def sendPrepare (s : State) (w : Who) (k : Nat) : State :=
  match headCmd (getCtx s w) k with
  | none => s
  | some q =>
    let ls := (List.range q.bw.data.length).filter fun n => !(q.bw.acked.contains n)
    modHead (sendLines s w k q .prepare ls) w k fun q => { q with
      bw := { q.bw with phase := 1, await := ls, yield_ := false, stale := false, again := false } }

/-- A BNDC starts: it reads its lines, takes its stamp and sends PREPARE. -/
def bndcStep (s : State) (w : Who) (k : Nat) (q : Cmd) : State :=
  let off := cmdOff q
  let n := cmdLen q / 128
  let s := tagSenseAll s w (tilesOf off (cmdLen q))
  let r := (List.range n).foldl (fun (a : State × List (List Byte) × List (List Nat)) i =>
    let t := (List.range 4).foldl (fun (b : State × List Byte × List Nat) j =>
      let o := off + 128 * i + 32 * j
      let x := readOut b.1 w k o false
      let s := if x.2.2 ≠ 0 then stickyPoison x.1 w k false else x.1
      (carterWatch s w k q none o false, b.2.1 ++ x.2.1, if x.2.2 ≠ 0 then b.2.2 ++ [j] else b.2.2)) (a.1, [], [])
    (t.1, a.2.1 ++ [t.2.1], a.2.2 ++ [t.2.2])) (s, [], [])
  let (s, st) := drawStamp (countEv r.1 w 0x04 (4 * n)) w.die
  sendPrepare (modHead s w k fun q => { q with wait := 1, bw := { q.bw with stamp := st, data := r.2.1, pois := r.2.2 } }) w k

/-- The commands that move sectors, while they can and for at most `n` sectors or rows; a held order point ends the step before it. -/
def carterMove (w : Who) (k : Nat) : Nat → Bool → State → State
  | 0, _, s => s
  | n + 1, some_, s =>
    match headCmd (getCtx s w) k with
    | none => s
    | some q =>
      let r := carterSector s w k q
      if almOver r.1 w.die then (if some_ then s else r.1)
      else if r.2 then carterMove w k n true r.1 else r.1

/-- The other context's command occupies the Carter. -/
def otherRuns (s : State) (w : Who) (k : Nat) : Bool :=
  (headCmd (getCtx s (otherCtx w)) k).any fun q => q.started && !q.paused && !q.susp

/-- An earlier command of the context, on the other Carter or a BNDR, is in flight on an overlapping sector (05 R145). -/
def carterAfter (c : Ctx) (q : Cmd) : Bool :=
  (((c.c0.q ++ c.c1.q).filter fun x => cmdInFlight x && x.ord < q.ord).any fun x =>
      meets (cmdOff q) (cmdLen q) (cmdWrites q) (cmdOff x) (cmdLen x) (cmdWrites x)) ||
    (c.bndr.filter fun r => r.ord < q.ord).any fun r => meets (cmdOff q) (cmdLen q) (cmdWrites q) (bits r.len 0 23) (bits r.len 24 24) true

/-- The Carter gives the head command of a context its turn: its gate is open, no booked use of the other context is current, and the
Carter is free or its command gives way (05 R128). -/
def carterTurn (s : State) (w : Who) (k : Nat) (body : State → Cmd → State) : State :=
  match headCmd (getCtx s w) k with
  | none => s
  | some q =>
    let own := currentOwner s w 1 (carterInst w k)
    let gate := gateFor s w q.use 1 (carterInst w k) true
    if !(ctxMoves s w) || q.moved || q.fail != 0 || q.wait != 0 || carterAfter (getCtx s w) q || (gate != .opened && gate != .unbooked) then s
    else if own.any fun x => x != w.ctx then (if q.started then modHead s w k fun q => { q with paused := true } else s)
    else if otherRuns s w k && own != some w.ctx then s
    else
      let s := if otherRuns s w k then modHead s (otherCtx w) k fun q => { q with paused := true } else s
      body (modHead s w k fun q => { q with started := true, paused := false, susp := false }) q

/-- The work of a Carter command that has its turn; `n` bounds the sectors and rows of the step, 0 leaves it unbounded. -/
def carterWork (w : Who) (k n : Nat) (s : State) (q : Cmd) : State :=
  match q.kind with
  | .tsend => tsendStep s w k q
  | .tget => if q.bw.data = [] then tgetStep s w k q else carterMove w k (if n = 0 then cmdLen q / 16 + 2 else n) false s
  | .bndc => bndcStep s w k q
  | .bndr => s
  | _ => carterMove w k (if n = 0 then cmdLen q / 16 + 2 else n) false s

/-- A BNDC completes: its context is written to zero, and the stamp, or 0 where it has failed, reaches its register (18 R467). -/
def bndcDone (s : State) (w : Who) (q : Cmd) : State :=
  let s := modCtx s w fun c => setBd c q.bd {}
  match accAt (getDie s w.die) q.dest with
  | none => s
  | some a => accDone s a (if q.fail = 0 then q.bw.stamp else 0)

/-- A Carter's completion of the head command: pages released, arrival, event CPY, the queue shorter (R228). -/
def carterRetire (s : State) (w : Who) (k : Nat) (q : Cmd) : State :=
  let s := dropPages s w k q
  let s := modCtx s w fun c => raiseEv c 1
  let s := modCq s w k fun cq => { cq with q := cq.q.tail }
  let s := modDie s w.die fun d => almTick d w (3 + k)
  let s := if q.kind = .bndc then bndcDone s w q else s
  carterEnds s w k

/-- The arrival of a command may be made: nothing of another domain, and no earlier command, is in flight on the object's sector (R233;
05 R144 to R146).  It can raise no 0x0C (13 R316), and so it waits (notes/assumptions/55.md). -/
def arriveRoom (s : State) (w : Who) (q : Cmd) : Bool :=
  let c := getCtx s w
  !q.arv || ((localClash (getCore s w) c (xBar q.x) 32 true).isNone && c.acc.fly.isNone &&
    !(carterAfter c { q with l := w64 (xBar q.x + 32 * 2 ^ 24), kind := .cpyg }))

/-- The arrival of a completed command (R228, R235). -/
def carterArrive (s : State) (w : Who) (k : Nat) (q : Cmd) : State :=
  if !q.arv then s
  else
    let off := xBar q.x
    let name := w64 (off + xBph q.x * 2 ^ 32)
    let s := barSense s w off
    let b := barRead (getCore s w) off
    let rep := fun (v : Word) => modCtx s w fun c => addReport c (2 + k) 0x0D v (3 + k)
    if !(barLive b) then rep (setBit name 63 true)
    else (barArrive s w (3 + k) w.core off (if barBytes b then cmdLen q else 1) (xBph q.x) (3 + k)).getD (rep name)

/-- Discard a channel entry for each row left, as far as entries have come (R230). -/
def carterDiscard (w : Who) (k : Nat) : Nat → State → State
  | 0, s => s
  | n + 1, s =>
    match headCmd (getCtx s w) k with
    | none => s
    | some q =>
      if !(cmdRows q.kind) || q.rows * rowLen q ≥ cmdLen q then carterRetire s w k q
      else
        match (getChan (getCtx s w) q.ch).q with
        | e :: _ =>
          if e.filled then carterDiscard w k n (modHead (chDrop s w (3 + k) q.ch) w k fun q => { q with rows := q.rows + 1, since := 0 })
          else
            let t := carterAwait s w k q
            if (headCmd (getCtx t w) k).any fun x => x.fail == 0x0B then carterRetire t w k q else t
        | [] =>
          let t := carterAwait s w k q
          if (headCmd (getCtx t w) k).any fun x => x.fail == 0x0B then carterRetire t w k q else t

/-- A command that has failed: the report and FAIL once, then the rows left (R230).  A COMMIT_NACK is no failure of R230's list (18 R467). -/
def carterFailed (s : State) (w : Who) (k : Nat) (q : Cmd) : State :=
  let s :=
    if q.dis then s
    else
      let s := modCtx s w fun c => addReport c (2 + k) q.fail q.failVal (3 + k)
      modHead (modCq s w k fun cq => { cq with fail := cq.fail || q.kind != .bndc }) w k fun q => { q with dis := true, since := 0 }
  if q.fail = 0x0B || !(cmdRows q.kind) then carterRetire s w k q
  else carterDiscard w k (cmdLen q / 32 + 1) s

/-- The Carter that an event names. -/
def evCarter (s : State) : Nat := if s.ev.b then 1 else 0

/-- CARTER_COMMAND_START (R227): Carter `ev.b` of context `ev.w`; `ev.n` bounds the sectors of the step. -/
def execCarterCommandStart (s : State) : Host.Outcome State Fault Refusal :=
  let w := s.ev.w
  let k := evCarter s
  if whoOk s w && (headCmd (getCtx s w) k).any fun q => !q.paused && !q.susp then
    .next (unlessHeld s (carterTurn s w k (carterWork w k s.ev.n)) w (3 + k))
  else .next s

/-- CARTER_COMMAND_RESUME (05 R128): a paused or suspended command goes on. -/
def execCarterCommandResume (s : State) : Host.Outcome State Fault Refusal :=
  let w := s.ev.w
  let k := evCarter s
  if whoOk s w && (headCmd (getCtx s w) k).any fun q => q.paused || q.susp then
    .next (unlessHeld s (carterTurn s w k (carterWork w k s.ev.n)) w (3 + k))
  else .next s

/-- A command that can end: its context moves, or it is a BNDC, which completes before a save's end (13 R319). -/
def cmdEnds (s : State) (w : Who) (q : Cmd) : Bool :=
  ctxMoves s w || (q.kind == .bndc && (getCtx s w).saving.isSome && (getCtx s w).restoring.isNone && clockRuns (getDie s w.die).power)

/-- CARTER_COMMAND_COMPLETE (R228). -/
def execCarterCommandComplete (s : State) : Host.Outcome State Fault Refusal :=
  let w := s.ev.w
  let k := evCarter s
  match headCmd (getCtx s w) k with
  | none => .next s
  | some q =>
    if whoOk s w && cmdEnds s w q && q.moved && q.wait == 0 && q.fail == 0 && arriveRoom s w q then
      .next (unlessHeld s (carterRetire (carterArrive s w k q) w k q) w (3 + k))
    else .next s

/-- CARTER_COMMAND_FAIL (R230). -/
def execCarterCommandFail (s : State) : Host.Outcome State Fault Refusal :=
  let w := s.ev.w
  let k := evCarter s
  match headCmd (getCtx s w) k with
  | none => .next s
  | some q =>
    if whoOk s w && cmdEnds s w q && q.fail != 0 then .next (unlessHeld s (carterFailed s w k q) w (3 + k)) else .next s

/-- INJECTION_QUEUE_ENTRY (07 R198): the Mill word of a CPYM enters once there is room. -/
def execInjectionQueueEntry (s : State) : Host.Outcome State Fault Refusal :=
  let w := s.ev.w
  let k := evCarter s
  match headCmd (getCtx s w) k with
  | none => .next s
  | some q =>
    let c := getCtx s w
    if whoOk s w && ctxMoves s w && q.kind == .cpym && q.moved && q.wait == 2 && c.mill.injq.length < 4 then
      .next (modHead (modCtx s w fun c => { c with
        mill := { c.mill with injq := c.mill.injq ++ [{ word := q.millw, src := k == 1, tile := w64 (tagGtag (getCore s w) ((cmdOff q + cmdLen q - 1) / 4096)) }] } }) w k fun q => { q with wait := 0 })
    else .next s

end Sys2Proof.Machine
end

