-- ==== Sys2Proof/Machine/Fetch.lean ====
section
/-!
DEFINITION. What a stream does at an instruction boundary before it issues: reports, breakpoints, fetching and decoding (01 R33, R35, R40;
02 R43, R58; 14 R364); and how a program is placed from outside (notes/assumptions/2.md).
-/
namespace Sys2Proof.Machine
open Sys2Proof

/-- A breakpoint of the context matches the stream's program counter (14 R364). -/
def bpHit (c : Ctx) (e : Eng) : Bool :=
  c.dbg.ibp.any fun (_, v) => bits v 0 2 == engCode e + 1 && (getPc c e).toNat / 4 == v.toNat / 4

/-- A stream's own fault: the access core traps, a Loom or Mill stream stops (01 R32, R33). -/
def streamFault (s : State) (w : Who) (e : Eng) (cause : Nat) (val : Word) : State :=
  match e with
  | .access => takeTrap s w cause val 0 true
  | _ => stopStream s w e cause val

/-- The tests of a read that fetches: one bad symbol is corrected, a failed check is detected (13 R325, R330, R332); no cause of 13 R316 is a
fetch's, so the bytes go on as they stand. -/
def fetchCheck (s : State) (w : Who) (sp : Space) (pa n : Nat) : State :=
  let s := physMend s w.die sp pa n
  (physSectors pa n).foldl (fun s k => if physMark s w.die sp k = 2 then physDetect s w sp k 2 else s) s

/-- The bytes of a word at `va`, or the cause and address of the fault its fetch meets (02 R43). -/
def fetchBytes (s : State) (w : Who) (va : Word) (n : Nat) : State × Except (Nat × Word) (List Byte) :=
  let x := (getCtx s w).dbg.xctx
  match translate s w.die (.access w.core) x va with
  | (s, none) => (s, .error (4, va))
  | (s, some l) =>
    if !(pteRD l.pte) then (s, .error (5, va))
    else
      let size := 2 ^ (l.base % 64)
      let k := min n (size - va.toNat % size)
      let s := fetchCheck s w l.sp l.pa k
      let bs := physRead s w.die l.sp l.pa k
      if k = n then (s, .ok bs)
      else
        let vb := va + w64 k
        match translate s w.die (.access w.core) x vb with
        | (s, none) => (s, .error (4, vb))
        | (s, some m) =>
          if !(pteRD m.pte) then (s, .error (5, vb))
          else (fetchCheck s w m.sp m.pa (n - k), .ok (bs ++ physRead s w.die m.sp m.pa (n - k)))

/-- The Loom's instruction in flight, if the Loom is what moves: it has entered phase 2 and goes on to retire (06 R160). -/
def begunInstr (s : State) : Option Instr := if s.cur.e = .loom then (getCtx s s.cur.w).loom.fly.map LoomFly.i else none

/-- The instruction at the program counter of the stream that moves, or the one the stream has begun.  A fetch that faults is FETCH_FAULT, a word that does not decode
ILLEGAL_INSTRUCTION, with parcel 0 in `ev` (02 R43, R58). -/
def fetchInstr (s : State) : Instr × State :=
  let w := s.cur.w
  let e := s.cur.e
  let pc := getPc (getCtx s w) e
  match begunInstr s with
  | some i => (i, s)
  | none =>
    if bits pc 0 2 ≠ 0 then (.fetchFault, { s with ev := { w := w, e := e, n := 3, v := pc } })
    else
      match fetchBytes s w pc (wordBytes e) with
      | (s, .error (cause, va)) => (.fetchFault, { s with ev := { w := w, e := e, n := cause, v := va } })
      | (s, .ok bs) =>
        match decode e bs with
        | .ok (i, _) => (i, s)
        | .error _ => (.illegalInstruction, { s with ev := { w := w, e := e, v := w64 (leNat (bs.take 4)) } })

/-- The instruction that a stream's program counter names, if one decodes there. -/
def headInstr (s : State) (w : Who) (e : Eng) : Option Instr :=
  match (fetchBytes s w (getPc (getCtx s w) e) (wordBytes e)).2 with
  | .error _ => none
  | .ok bs =>
    match decode e bs with
    | .ok (i, _) => some i
    | .error _ => none

/-- The Mill stands at an instruction that has begun, or, in single step, one has not retired (07 R193, R205; 01 R41). -/
def millHeld (c : Ctx) : Bool :=
  c.mill.flight.any fun x => x.stage == .steps || x.inj || c.mill.stat.sstep

/-- What happens at the boundary in place of an instruction, if anything: an instruction in flight goes on while the clock runs, a report is delivered (01 R35), the stream does not move or its
translation waits (13 R313), or a breakpoint matches (01 R40). -/
def boundary (s : State) : Option State :=
  let w := s.cur.w
  let e := s.cur.e
  let c := getCtx s w
  if (begunInstr s).isSome then (if clockRuns (getDie s w.die).power then none else some s)
  else if !(ctxMoves s w) then some s
  else
    match (if e = .access then deliverReport s w else none) with
    | some s' => some s'
    | none =>
      if !(streamMoves c e) || (e == .mill && millHeld c) || xlWaits s w.die (.access w.core) c.dbg.xctx (getPc c e) then some s
      else if e == .mill && c.mill.pend.isSome then
        some (c.mill.pend.elim s fun p => stopStream (modCtx s w fun c => { c with mill := { c.mill with pend := none } }) w .mill p.1 p.2)
      else if bits (getPc c e) 0 2 = 0 && !(getStat c e).bps && bpHit c e then some (streamFault s w e 0x12 0)
      else none

/-- ILLEGAL_INSTRUCTION (02 R58): 0x01 with parcel 0. -/
def execIllegalInstruction (s : State) : Host.Outcome State Fault Refusal := .next (streamFault s s.ev.w s.ev.e 0x01 s.ev.v)

/-- FETCH_FAULT (02 R43): the cause and the address. -/
def execFetchFault (s : State) : Host.Outcome State Fault Refusal := .next (streamFault s s.ev.w s.ev.e s.ev.n s.ev.v)

/-- ENGINE_FAULT_DELIVERY (01 R33, R35): the access core of `ev.w` takes its next report. -/
def execEngineFaultDelivery (s : State) : Host.Outcome State Fault Refusal :=
  .next (if whoOk s s.ev.w && ctxMoves s s.ev.w then (deliverReport s s.ev.w).getD s else s)

/-- A row of the table that is an event the agenda can bring about. -/
def isEvent (i : Instr) : Bool := (engOf i).isNone && i != .illegalInstruction && i != .fetchFault

/-! ### Placing a program -/

/-- The root table, the level-2 table and the word's address that `placeWord` uses. -/
def placeRoot : Nat := 0x1F000000

def placePc : Nat := 0x20000

/-- Two entries map virtual addresses 0 to 512 MiB onto the same physical addresses, read, write, atomic and cached. -/
def placeTables (m : Mem) : Mem :=
  memWrite (memWrite m placeRoot (leBytes 8 (placeRoot + 0x10003))) (placeRoot + 0x10000) (leBytes 8 0x5D)

/-- The context whose stream `e` is ready to fetch at `placePc`. -/
def placeCtx (c : Ctx) (e : Eng) : Ctx :=
  let c := { c with
    job := some (c.job.getD {}), halted := false, saving := none, restoring := none, reports := []
    ways := 0xFF, loom := { c.loom with fly := none }, dbg := { c.dbg with ibp := [], xctx := w64 placeRoot } }
  setPc (setStat c e { getStat c e with st := .run, wkind := 0 }) e (w64 placePc)

/-- Die 0 ready for it. -/
def placeDie (x : Die) (n w : Nat) : Die :=
  { x with
    mem := { x.mem with hbm := memWrite (placeTables x.mem.hbm) placePc (leBytes n w) }
    tlb := {}, power := {}, time := { x.time with set := true } }

/-- The instruction `w` of engine `e`, placed in a job on context 0 of core 0 of die 0, that stream moving next. -/
def placeWord (s : State) (e : Eng) (w : Nat) : State :=
  let d0 : Who := ⟨0, 0, 0⟩
  let s := modDie s 0 fun x => placeDie x (wordBytes e) w
  { modCore (modCtx s d0 fun c => placeCtx c e) d0 (fun y => { y with utlb := [], ctlb := [] }) with agenda := [], cur := { w := d0, e := e } }

end Sys2Proof.Machine
end

