-- ==== Sys2Proof/Machine/Flags.lean ====
section
/-!
DEFINITION. What the part computes in place of flags: branch conditions (04 R100), and the checks of a control transfer (04 R94).
-/
namespace Sys2Proof.Machine
open Sys2Proof

/-- The branch conditions, codes 0 to 5 (04 R100, 06 R186, 07 R207). -/
inductive Cond where
  | eq | ne | lt | ge | ltu | geu
deriving DecidableEq, Repr

def condHolds (k : Cond) (a b : Word) : Bool :=
  match k with
  | .eq => a == b
  | .ne => a != b
  | .lt => a.slt b
  | .ge => !(a.slt b)
  | .ltu => a.ult b
  | .geu => !(a.ult b)

/-- The checks of a transfer to `t` (04 R94). -/
def checkTarget (t : Word) (k : Res) : Res :=
  if bits t 0 2 ≠ 0 then .trap 0x03 t
  else if !(canonical t) then .trap 0x04 t
  else k

/-- A 10-bit word offset (02 R48). -/
def off10 (i : BitVec 10) : Word := i.signExtend 64 <<< 2

/-- A 19-bit word offset (02 R48). -/
def off19 (i : BitVec 19) : Word := i.signExtend 64 <<< 2

end Sys2Proof.Machine
end

