-- ==== Sys2Proof/Machine/Num.lean ====
section
/-!
DEFINITION. Numbers and arithmetic (03): the values of encodings, `round_to`, overflow, conversions, the window sum, the total
order and the KMIX-6 generator.  A finite real is kept as a whole number of units of 2^-400, which holds every sum and product
of the part's formats exactly; a result that is no such multiple (a quotient, a root, a special function) is its floor in
those units with a sticky mark.
-/
namespace Sys2Proof.Machine
open Sys2Proof

/-- The unit of magnitudes is 2^-uexp. -/
def uexp : Nat := 400

/-- An exact result (03 R76): NaN, a signed infinity, or a signed magnitude.  `num s m false` is (-1)^s × m × 2^-400, with
m = 0 a signed zero; `num s m true` is some value strictly between m and m + 1 units. -/
inductive FNum where
  | nan
  | inf (neg : Bool)
  | num (neg : Bool) (mag : Nat) (sticky : Bool)
deriving DecidableEq, Repr

/-- Width of a format in bits (03 R69 to R75). -/
def fmtBits : Fmt → Nat
  | .fp32 | .i32 | .u32 => 32
  | .fp16 | .bf16 | .i16 | .u16 => 16
  | .hs4 => 4
  | _ => 8

/-- Exponent bits of a floating format (03 R69). -/
def expBits : Fmt → Nat
  | .fp32 | .bf16 => 8
  | .fp16 | .e5m2 => 5
  | .e4m3 => 4
  | _ => 0

/-- Fraction bits of a floating format (03 R69). -/
def fracBits : Fmt → Nat
  | .fp32 => 23 | .fp16 => 10 | .bf16 => 7 | .e4m3 => 3 | .e5m2 => 2 | _ => 0

/-- Bias of a floating format (03 R69). -/
def fmtBias : Fmt → Nat
  | .fp32 | .bf16 => 127 | .fp16 | .e5m2 => 15 | .e4m3 => 7 | _ => 0

/-- The canonical NaN of a floating format, and the result of a NaN source in the others (03 R70, R79). -/
def nanRule : Fmt → Nat
  | .fp32 => 0x7FC00000 | .fp16 => 0x7E00 | .bf16 => 0x7FC0 | .e4m3 => 0x7F | .e5m2 => 0x7E
  | .ps8 => 0x77 | .e8m0 => 0xFF
  | _ => 0

/-- The largest finite magnitude of a floating format as an encoding (03 R70). -/
def maxFiniteCode : Fmt → Nat
  | .fp32 => 0x7F7FFFFF | .fp16 => 0x7BFF | .bf16 => 0x7F7F | .e4m3 => 0x7E | .e5m2 => 0x7B | _ => 0

/-- +∞ of a floating format (03 R70). -/
def infCode : Fmt → Nat
  | .fp32 => 0x7F800000 | .fp16 => 0x7C00 | .bf16 => 0x7F80 | .e5m2 => 0x7C | _ => 0

/-- The magnitude m × 2^e in units of 2^-400, e at least -400. -/
def unitsOf (m : Nat) (e : Int) : Nat := m <<< (e + uexp).toNat

/-- The value of a floating encoding (03 R69, R70). -/
def floatValue (f : Fmt) (x : Nat) : FNum :=
  let mb := fracBits f
  let eb := expBits f
  let neg := decide (x / 2 ^ (mb + eb) % 2 = 1)
  let e := x / 2 ^ mb % 2 ^ eb
  let fr := x % 2 ^ mb
  if e = 2 ^ eb - 1 ∧ f = .e4m3 ∧ fr = 7 then .nan
  else if e = 2 ^ eb - 1 ∧ f ≠ .e4m3 then (if fr = 0 then .inf neg else .nan)
  else if e = 0 then .num neg (unitsOf fr (1 - (fmtBias f : Int) - mb)) false
  else .num neg (unitsOf (2 ^ mb + fr) ((e : Int) - fmtBias f - mb)) false

/-- A signed whole number of units as a value; zero is +0. -/
def numOfInt (v : Int) : FNum := .num (decide (v < 0)) v.natAbs false

/-- A w-bit two's-complement encoding as an integer. -/
def sintOf (w x : Nat) : Int := if x / 2 ^ (w - 1) % 2 = 1 then (x % 2 ^ w : Nat) - (2 ^ w : Nat) else (x % 2 ^ w : Nat)

/-- The integer an integer-format encoding stands for (03 R75). -/
def intValue (f : Fmt) (x : Nat) : Int := if fmtIsSigned f then sintOf (fmtBits f) x else (x % 2 ^ fmtBits f : Nat)

/-- One PS8 term in units of 2^-6 (03 R74). -/
def ps8Term (s a : Nat) : Int := if a = 7 then 0 else if s = 1 then -(2 ^ (6 - a) : Int) else 2 ^ (6 - a)

/-- A PS8 byte in units of 2^-6 (03 R74). -/
def ps8Value (x : Nat) : Int := ps8Term (x / 128 % 2) (x / 16 % 8) + ps8Term (x / 8 % 2) (x % 8)

/-- The value of an encoding of any format (03 R69 to R75). -/
def valueOf (f : Fmt) (x : Nat) : FNum :=
  match f with
  | .fp32 | .fp16 | .bf16 | .e4m3 | .e5m2 => floatValue f x
  | .e8m0 => if x % 256 = 255 then .nan else .num false (unitsOf 1 ((x % 256 : Nat) - 127)) false
  | .hs4 => numOfInt ((2 * sintOf 4 x + 1) * 2 ^ (uexp - 1))
  | .hs8 => numOfInt ((2 * sintOf 8 x + 1) * 2 ^ (uexp - 1))
  | .ps8 => numOfInt (ps8Value (x % 256) * 2 ^ (uexp - 6))
  | _ => numOfInt (intValue f x * 2 ^ uexp)

/-- Spacing of a floating format at magnitude `m` units, the exponent unbounded above (03 R76). -/
def floatGrid (f : Fmt) (m : Nat) : Nat :=
  let e : Int := (Nat.log2 m : Int) - uexp
  let emin : Int := 1 - (fmtBias f : Int)
  unitsOf 1 ((if e < emin ∨ m = 0 then emin else e) - fracBits f)

/-- The magnitudes of PS8, in units of 2^-6 and ascending (03 R74). -/
def ps8Mags : List Nat :=
  (List.range 129).filter fun v => (List.range 256).any fun x => (ps8Value x).natAbs == v

/-- The greatest member of an ascending list at or below `v`; the first when there is none. -/
def listFloor (l : List Nat) (v : Nat) : Nat := l.foldl (fun acc x => if x ≤ v then x else acc) 0

/-- The least member of an ascending list above `v`, or `v + 1` past its end. -/
def listAbove (l : List Nat) (v : Nat) : Nat := (l.find? fun x => v < x).getD (v + 1)

/-- `dn` and `up` of 03 R76 for magnitude `m` units: the members of G(f) at or below, and above. -/
def gridPair (f : Fmt) (m : Nat) : Nat × Nat :=
  match f with
  | .fp32 | .fp16 | .bf16 | .e4m3 | .e5m2 | .e8m0 =>
    let g := floatGrid f m
    (m / g * g, m / g * g + g)
  | .hs4 | .hs8 =>
    let h := 2 ^ (uexp - 1)
    let g := 2 ^ uexp
    ((m - h) / g * g + h, (m - h) / g * g + h + g)
  | .ps8 =>
    let u := 2 ^ (uexp - 6)
    let q := m / u
    if q < 128 then (listFloor ps8Mags q * u, listAbove ps8Mags q * u) else (q * u, (q + 1) * u)
  | _ =>
    let g := 2 ^ uexp
    (m / g * g, m / g * g + g)

/-- Whether the encoding of the lower candidate is even (03 R76). -/
def candEven (f : Fmt) (neg : Bool) (dn : Nat) : Bool :=
  match f with
  | .ps8 => true
  | .hs4 | .hs8 =>
    -- n is k for +(k + 1/2) and -k - 1 for -(k + 1/2)
    let k := dn / 2 ^ uexp
    if neg then k % 2 == 1 else k % 2 == 0
  | .fp32 | .fp16 | .bf16 | .e4m3 | .e5m2 | .e8m0 => dn / floatGrid f dn % 2 == 0
  | _ => dn / 2 ^ uexp % 2 == 0

/-- Encode a member of the floating grid at or below the largest finite value. -/
def encFloat (f : Fmt) (neg : Bool) (q : Nat) : Nat :=
  let mb := fracBits f
  let s := neg.toNat * 2 ^ (mb + expBits f)
  if q = 0 then s
  else
    let e : Int := (Nat.log2 q : Int) - uexp
    let g := floatGrid f q
    if e < 1 - (fmtBias f : Int) then s + q / g
    else s + (e + fmtBias f).toNat * 2 ^ mb + (q / g - 2 ^ mb)

/-- The canonical PS8 encoding of a value in units of 2^-6: smallest a, then b, then s1, then s2 (03 R74). -/
def encPs8 (v : Int) : Nat :=
  if v = 0 then 0x77
  else
    ((List.range 256).map fun k =>
      -- order a, b, s1, s2
      let a := k / 32 % 8; let b := k / 4 % 8; let s1 := k / 2 % 2; let s2 := k % 2
      s1 * 128 + a * 16 + s2 * 8 + b).find? (fun x => ps8Value x == v) |>.getD 0x77

/-- Range of an integer format (03 R75). -/
def intMin (f : Fmt) : Int := if fmtIsSigned f then -(2 ^ (fmtBits f - 1) : Int) else 0
def intMax (f : Fmt) : Int := if fmtIsSigned f then 2 ^ (fmtBits f - 1) - 1 else 2 ^ fmtBits f - 1

/-- The low bits of the two's-complement form (03 R80). -/
def wrapInt (w : Nat) (v : Int) : Nat := (v % (2 ^ w : Nat)).toNat

def clampInt (lo hi v : Int) : Int := if v < lo then lo else if hi < v then hi else v

/-- The overflow table (03 R77) for floating destinations.  `up`: under SR, that q counts as up. -/
def overflowFloat (f : Fmt) (nanOpt neg : Bool) (m : Rnd) (sat up : Bool) : Nat :=
  let s := neg.toNat * 2 ^ (fracBits f + expBits f)
  let big := s + maxFiniteCode f
  let far := if f == .e4m3 then s + 0x7F else s + infCode f
  if f == .e4m3 && !nanOpt then big
  else if sat then big
  else
    match m with
    | .rne | .rna => far
    | .rtz => big
    | .rup => if neg then big else far
    | .rdn => if neg then far else big
    | .sr => if up then far else big

/-- Encode a finite magnitude of the grid, or its nearest end of range (03 R76, R77). -/
def finishRound (f : Fmt) (nanOpt neg : Bool) (m : Rnd) (sat up : Bool) (q : Nat) : Nat :=
  match f with
  | .fp32 | .fp16 | .bf16 | .e4m3 | .e5m2 =>
    (match floatValue f (maxFiniteCode f) with
     | .num _ mx _ => if mx < q then overflowFloat f nanOpt neg m sat up else encFloat f neg q
     | _ => 0)
  | .e8m0 => 0
  | .hs4 | .hs8 =>
    let w := fmtBits f
    let k := min (q / 2 ^ uexp) (2 ^ (w - 1) - 1)
    if neg then wrapInt w (-(k : Int) - 1) else k
  | .ps8 =>
    let v := min (q / 2 ^ (uexp - 6)) 128
    encPs8 (if neg then -(v : Int) else v)
  | _ =>
    let v : Int := (q / 2 ^ uexp : Nat)
    wrapInt (fmtBits f) (clampInt (intMin f) (intMax f) (if neg then -v else v))

/-- An infinite source (03 R77, R80). -/
def roundInf (f : Fmt) (nanOpt neg : Bool) (m : Rnd) (sat : Bool) : Nat :=
  match f with
  | .fp32 | .fp16 | .bf16 | .e4m3 | .e5m2 => overflowFloat f nanOpt neg m sat true
  | .e8m0 => 0
  | .hs4 | .hs8 => if neg then 2 ^ (fmtBits f - 1) else 2 ^ (fmtBits f - 1) - 1
  | .ps8 => encPs8 (if neg then -128 else 128)
  | _ => wrapInt (fmtBits f) (if neg then intMin f else intMax f)

/-- `round_to` (03 R76), with the NaN option of E4M3 destinations (R77). -/
def roundOpt (x : FNum) (f : Fmt) (m : Rnd) (sat nanOpt : Bool) (r : Nat) : Nat :=
  match x with
  | .nan => nanRule f
  | .inf neg => roundInf f nanOpt neg m sat
  | .num neg a sticky =>
    if (f == .hs4 || f == .hs8) && a < 2 ^ (uexp - 1) then finishRound f nanOpt neg m sat true (2 ^ (uexp - 1))
    else
      let (dn, up) := gridPair f a
      if a = dn ∧ sticky = false then finishRound f nanOpt neg m sat true dn
      else
        let takeUp : Bool :=
          match m with
          | .rtz => false
          | .rup => !neg
          | .rdn => neg
          | .sr => decide (r < (a - dn) * 2 ^ 16 / (up - dn))
          | .rne | .rna =>
            if 2 * a + sticky.toNat < dn + up then false
            else if dn + up < 2 * a + sticky.toNat then true
            else if m = .rna then true
            else !(candEven f neg dn)
        finishRound f nanOpt neg m sat takeUp (if takeUp then up else dn)

/-- `round_to` with the NaN option clear. -/
def roundTo (x : FNum) (f : Fmt) (m : Rnd) (sat : Bool) (r : Nat) : Nat := roundOpt x f m sat false r

/-! ### Exact operations -/

def numNeg : FNum → FNum
  | .nan => .nan
  | .inf s => .inf (!s)
  | .num s a t => .num (!s) a t

/-- Signed units of a finite value. -/
def signedUnits (neg : Bool) (a : Nat) : Int := if neg then -(a : Int) else a

/-- Exact sum of two values with no sticky mark; `rdn` decides the sign of an exact zero of opposite signs (03 R81). -/
def numAdd (x y : FNum) (rdn : Bool) : FNum :=
  match x, y with
  | .nan, _ => .nan
  | _, .nan => .nan
  | .inf s, .inf t => if s = t then .inf s else .nan
  | .inf s, _ => .inf s
  | _, .inf t => .inf t
  | .num s a _, .num t b _ =>
    let v := signedUnits s a + signedUnits t b
    if v = 0 then .num (if a = 0 ∧ b = 0 ∧ s = t then s else rdn) 0 false
    else numOfInt v

/-- Exact product of two values with no sticky mark.  Magnitudes of the formats are multiples of 2^-160, so that the product of two
is a whole number of units of 2^-400. -/
def numMul (x y : FNum) : FNum :=
  match x, y with
  | .nan, _ => .nan
  | _, .nan => .nan
  | .inf s, .inf t => .inf (xor s t)
  | .inf s, .num t b _ => if b = 0 then .nan else .inf (xor s t)
  | .num s a _, .inf t => if a = 0 then .nan else .inf (xor s t)
  | .num s a _, .num t b _ => .num (xor s t) ((a * b) >>> uexp) false

/-- Quotient (03 R89, IEEE 754-2019 division). -/
def numDiv (x y : FNum) : FNum :=
  match x, y with
  | .nan, _ => .nan
  | _, .nan => .nan
  | .inf _, .inf _ => .nan
  | .inf s, .num t _ _ => .inf (xor s t)
  | .num s _ _, .inf t => .num (xor s t) 0 false
  | .num s a _, .num t b _ =>
    if b = 0 then (if a = 0 then .nan else .inf (xor s t))
    else .num (xor s t) ((a <<< uexp) / b) (decide ((a <<< uexp) % b ≠ 0))

/-- Integer square root by bits, `n` of them. -/
def isqrtAux : Nat → Nat → Nat → Nat
  | 0, _, r => r
  | n + 1, x, r =>
    let c := r + 2 ^ n
    if c * c ≤ x then isqrtAux n x c else isqrtAux n x r

/-- floor of the square root of a number below 2^2400. -/
def isqrt (x : Nat) : Nat := isqrtAux 1200 x 0

/-- Square root (03 R89). -/
def numSqrt (x : FNum) : FNum :=
  match x with
  | .nan => .nan
  | .inf s => if s then .nan else .inf false
  | .num s a _ =>
    if a = 0 then .num s 0 false
    else if s then .nan
    else
      let q := isqrt (a <<< uexp)
      .num false q (decide (q * q ≠ a <<< uexp))

/-- 1/x (03 R89). -/
def numRcp (x : FNum) : FNum := numDiv (.num false (2 ^ uexp) false) x

/-- 1/√x (03 R89). -/
def numRsq (x : FNum) : FNum :=
  match x with
  | .nan => .nan
  | .inf s => if s then .nan else .num false 0 false
  | .num s a _ =>
    if a = 0 then .inf s
    else if s then .nan
    else
      -- 2^400 / √(a / 2^400) = √(2^1200 / a)
      let n := 2 ^ (3 * uexp)
      let q := isqrt (n / a)
      .num false q (decide (q * q * a ≠ n))

/-! ### The window sum (03 R82) -/

/-- Truncate a magnitude toward zero to a multiple of `u` units. -/
def truncUnits (u a : Nat) : Nat := a / u * u

/-- `window_sum` (03 R82). -/
def windowSum (xs : List FNum) (f : Fmt) (m : Rnd) (sat : Bool) (r : Nat) : Nat :=
  if xs.any (fun x => x == .nan) then nanRule f
  else if xs.any (fun x => x == .inf false) && xs.any (fun x => x == .inf true) then nanRule f
  else if xs.any (fun x => x == .inf false) then roundTo (.inf false) f m sat r
  else if xs.any (fun x => x == .inf true) then roundTo (.inf true) f m sat r
  else
    let big := xs.foldl (fun acc x => match x with | .num _ a _ => max acc a | _ => acc) 0
    if big = 0 then
      roundTo (.num (xs.all fun x => match x with | .num s _ _ => s | _ => false) 0 false) f m sat r
    else
      let u := 2 ^ (Nat.log2 big - 64)
      let s : Int := xs.foldl (fun acc x => match x with | .num s a _ => acc + signedUnits s (truncUnits u a) | _ => acc) 0
      roundTo (numOfInt s) f m sat r

/-! ### The total order (03 R88) -/

/-- The key whose order is `total_less` of 03 R88; equal keys are equal values. -/
def orderKey (f : Fmt) (x : Nat) : Int :=
  let w := fmtBits f
  match f with
  | .fp32 | .fp16 | .bf16 | .e4m3 | .e5m2 =>
    if x / 2 ^ (w - 1) % 2 = 1 then ((2 ^ w - 1 - x % 2 ^ w : Nat) : Int) else ((x % 2 ^ w + 2 ^ (w - 1) : Nat) : Int)
  | .ps8 => ps8Value (x % 256)
  | .e8m0 | .u8 | .u16 | .u32 => ((x % 2 ^ w : Nat) : Int)
  | .hs4 | .hs8 | .i8 | .i16 | .i32 => sintOf w x

/-- `total_less` (03 R88). -/
def totalLess (x y : Nat) (f : Fmt) : Bool := decide (orderKey f x < orderKey f y)

/-! ### Conversions (03 R79, R80) -/

/-- A floating source to E8M0: e = floor(log2 |x|) + 127, clamped (03 R80). -/
def toE8m0 (x : FNum) (sat : Bool) : Nat :=
  match x with
  | .nan => 0xFF
  | .inf _ => if sat then 0xFE else 0xFF
  | .num _ a _ =>
    if a = 0 then 0
    else (clampInt 0 254 ((Nat.log2 a : Int) - uexp + 127)).toNat

/-- VCVT's conversion of one element (03 R79, R80). -/
def convert (src dst : Fmt) (m : Rnd) (sat nanOpt : Bool) (r x : Nat) : Nat :=
  if fmtIsInt src && fmtIsInt dst then
    let v := intValue src x
    if sat then wrapInt (fmtBits dst) (clampInt (intMin dst) (intMax dst) v) else wrapInt (fmtBits dst) v
  else if dst == .e8m0 then toE8m0 (valueOf src x) sat
  else if src == .fp32 && dst == .fp32 then (if valueOf .fp32 x == .nan then nanRule .fp32 else x)
  else roundOpt (valueOf src x) dst m sat nanOpt r

/-! ### KMIX-6 (03 R90) -/

def kmixC : List (BitVec 32) := [0x6A0D9F31, 0x3B58C2E7, 0xD41F6A05, 0x8E7613BD, 0x27C9E4A3, 0xF0B35D69]

/-- One round of KMIX-6. -/
def kmixRound (kk : BitVec 32) (x0 x1 x2 x3 : BitVec 32) : BitVec 32 × BitVec 32 × BitVec 32 × BitVec 32 :=
  let x0 := x0 + x1 + kk
  let x3 := (x3 ^^^ x0).rotateLeft 16
  let x2 := x2 + x3
  let x1 := (x1 ^^^ x2).rotateLeft 12
  let x0 := x0 + x1
  let x3 := (x3 ^^^ x0).rotateLeft 8
  let x2 := x2 + x3
  let x1 := (x1 ^^^ x2).rotateLeft 7
  (x0, x1, x2, x3)

/-- The rounds over the constants left, `even` telling the key half. -/
def kmixLoop (klo khi : BitVec 32) : List (BitVec 32) → Bool → BitVec 32 → BitVec 32 → BitVec 32 → BitVec 32 → BitVec 32
  | [], _, x0, x1, x2, x3 => (x0 + x2) ^^^ (x1 + x3 + khi)
  | c :: cs, even, x0, x1, x2, x3 =>
    let (y0, y1, y2, y3) := kmixRound ((if even then klo else khi) ^^^ c) x0 x1 x2 x3
    kmixLoop klo khi cs (!even) y0 y1 y2 y3

/-- KMIX-6 (03 R90). -/
def kmix6 (key ctr lane : BitVec 64) : BitVec 32 :=
  kmixLoop (key.extractLsb' 0 32) (key.extractLsb' 32 32) kmixC true (ctr.extractLsb' 0 32) (ctr.extractLsb' 32 32)
    (lane.extractLsb' 0 32) (lane.extractLsb' 32 32)

/-- The 16-bit random value of stochastic rounding for element `e` (03 R78). -/
def srBits (key ctr : BitVec 64) (e : Nat) : Nat := (kmix6 key ctr (BitVec.ofNat 64 (2 ^ 63 + e))).toNat % 2 ^ 16

end Sys2Proof.Machine
end

