-- ==== Sys2Proof/Machine/Special.lean ====
section
/-!
DEFINITION. The special functions of the Loom and of the Mill's epilogue (03 R89, 07 R197).  Each answers the floor of the exact
result in units of 2^-400 with the sticky mark.  The floor is computed in fixed point with 1152 fraction bits and an error below
2^-1000 (notes/assumptions/11.md).
-/
namespace Sys2Proof.Machine
open Sys2Proof

/-- Fraction bits of the fixed-point numbers of this file. -/
def fxBits : Nat := 1152

def fxOne : Int := 2 ^ fxBits

def fxMul (a b : Int) : Int := a * b / fxOne

def fxDiv (a b : Int) : Int := a * fxOne / b

/-- A magnitude in units of 2^-400 as fixed point. -/
def fxOfUnits (a : Nat) : Int := ((a <<< (fxBits - uexp) : Nat) : Int)

/-- A fixed-point result that is not a whole number of units, as a value. -/
def numOfFx (v : Int) : FNum := .num (decide (v < 0)) (v.natAbs >>> (fxBits - uexp)) true

/-- Sum of x^(2k+1)/(2k+1) for x = 1/n, the signs alternating when `alt`. -/
def atanSeries (alt : Bool) (n : Int) : Nat → Int → Int → Bool → Int
  | 0, _, _, _ => 0
  | fuel + 1, p, k, neg =>
    (if neg then -(p / k) else p / k) + atanSeries alt n fuel (p / (n * n)) (k + 2) (alt && !neg)

/-- π = 16 atan(1/5) - 4 atan(1/239). -/
def fxPi : Int := 16 * atanSeries true 5 300 (fxOne / 5) 1 false - 4 * atanSeries true 239 120 (fxOne / 239) 1 false

/-- ln 2 = 2 atanh(1/3). -/
def fxLn2 : Int := 2 * atanSeries false 3 420 (fxOne / 3) 1 false

/-- Sum of x^k/k! from term `t` = x^k/k! on. -/
def expSeries (x : Int) : Nat → Int → Int → Int
  | 0, _, _ => 0
  | fuel + 1, t, k => t + expSeries x fuel (fxMul t x / k) (k + 1)

/-- e^x for a small x. -/
def fxExpSmall (x : Int) : Int := expSeries x 260 fxOne 1

/-- e^x as (E, k) with e^x = E × 2^k in fixed point. -/
def fxExp (x : Int) : Int × Int :=
  let k := (x + fxLn2 / 2) / fxLn2
  (fxExpSmall (x - k * fxLn2), k)

/-- v × 2^k, rounded down. -/
def fxScale (v k : Int) : Int := if 0 ≤ k then v * 2 ^ k.toNat else v / 2 ^ (-k).toNat

/-- Sum of x^(2k+1)/(2k+1) for a fixed-point x. -/
def atanhSeries (x2 : Int) : Nat → Int → Int → Int
  | 0, _, _ => 0
  | fuel + 1, p, k => p / k + atanhSeries x2 fuel (fxMul p x2) (k + 2)

/-- ln m for m from 1 to 2. -/
def fxLn (m : Int) : Int :=
  let t := fxDiv (m - fxOne) (m + fxOne)
  2 * atanhSeries (fxMul t t) 420 t 1

/-- Terms of sin (from t = x, k = 1) or cos (from t = 1, k = 0): each is the one before times -x²/((k+1)(k+2)). -/
def trigSeries (x2 : Int) : Nat → Int → Int → Int
  | 0, _, _ => 0
  | fuel + 1, t, k => t + trigSeries x2 fuel (-(fxMul t x2) / ((k + 1) * (k + 2))) (k + 2)

def fxSin (x : Int) : Int := trigSeries (fxMul x x) 200 x 1

def fxCos (x : Int) : Int := trigSeries (fxMul x x) 200 fxOne 0

/-- 2^x (03 R89).  A power of two is exact.  The exponent of a huge or tiny result is held at 300 or -900: beyond the formats'
ranges only the significand bears on the rounding. -/
def numExp2 (x : FNum) : FNum :=
  match x with
  | .nan => .nan
  | .inf s => if s then .num false 0 false else .inf false
  | .num s a _ =>
    let v := signedUnits s a
    let n := v / 2 ^ uexp
    let f := (v % 2 ^ uexp).toNat
    let k := clampInt (-900) 300 n
    if f = 0 then
      (if -(uexp : Int) ≤ k then .num false (2 ^ (k + uexp).toNat) false else .num false 0 true)
    else numOfFx (fxScale (fxExpSmall (fxMul (fxOfUnits f) fxLn2)) k)

/-- log2 x (03 R89). -/
def numLog2 (x : FNum) : FNum :=
  match x with
  | .nan => .nan
  | .inf s => if s then .nan else .inf false
  | .num s a _ =>
    if a = 0 then .inf true
    else if s then .nan
    else
      let e := Nat.log2 a
      let k : Int := (e : Int) - uexp
      if a = 2 ^ e then numOfInt (k * 2 ^ uexp)
      else
        let m : Int := fxScale a ((fxBits : Int) - e)
        numOfFx (k * fxOne + fxDiv (fxLn m) fxLn2)

/-- tanh x (03 R89). -/
def numTanh (x : FNum) : FNum :=
  match x with
  | .nan => .nan
  | .inf s => .num s (2 ^ uexp) false
  | .num s a _ =>
    if a = 0 then .num s 0 false
    else if 200 * 2 ^ uexp ≤ a then .num s (2 ^ uexp - 1) true
    else
      let (e, k) := fxExp (2 * fxOfUnits a)
      let q := fxScale e k
      let v := fxDiv (q - fxOne) (q + fxOne)
      .num s (v.natAbs >>> (fxBits - uexp)) true

/-- sin(πy) and cos(πy) for y from 0 to 1/2, in units, not both ends. -/
def fxSinPi (y : Nat) : Int :=
  let q := 2 ^ (uexp - 2)
  if y ≤ q then fxSin (fxMul fxPi (fxOfUnits y)) else fxCos (fxMul fxPi (fxOfUnits (2 * q - y)))

/-- sin(πx) (03 R89): exact at whole and half numbers. -/
def numSinPi (x : FNum) : FNum :=
  match x with
  | .nan => .nan
  | .inf _ => .nan
  | .num s a _ =>
    let one := 2 ^ uexp
    let y := a % (2 * one)
    if a = 0 then .num s 0 false
    else if y % one = 0 then .num s 0 false
    else
      let neg := xor s (decide (one < y))
      let z := y % one
      let z := if one < 2 * z then one - z else z
      if 2 * z = one then .num neg one false
      else .num neg ((fxSinPi z).natAbs >>> (fxBits - uexp)) true

/-- cos(πx) (03 R89): exact at whole and half numbers. -/
def numCosPi (x : FNum) : FNum :=
  match x with
  | .nan => .nan
  | .inf _ => .nan
  | .num _ a _ =>
    let one := 2 ^ uexp
    let y := a % (2 * one)
    let z := if one < y then 2 * one - y else y
    if z = 0 then .num false one false
    else if 2 * z = one then .num false 0 false
    else if z = one then .num true one false
    else
      let neg := decide (one < 2 * z)
      let u := if neg then one - z else z
      -- cos(πu) = sin(π(1/2 - u))
      .num neg ((fxSinPi (one / 2 - u)).natAbs >>> (fxBits - uexp)) true

/-- 1 ÷ (1 + e^-t) as fixed point for |t| below 400. -/
def fxSigmoid (t : Int) : Int :=
  let (e, k) := fxExp (-t)
  fxDiv fxOne (fxOne + fxScale e k)

/-- The logistic function (07 R197). -/
def numSigmoid (x : FNum) : FNum :=
  match x with
  | .nan => .nan
  | .inf s => if s then .num false 0 false else .num false (2 ^ uexp) false
  | .num s a _ =>
    if a = 0 then .num false (2 ^ (uexp - 1)) false
    else if 400 * 2 ^ uexp ≤ a then (if s then .num false 0 true else .num false (2 ^ uexp - 1) true)
    else numOfFx (fxSigmoid (if s then -fxOfUnits a else fxOfUnits a))

/-- t ÷ (1 + e^-t) (07 R197).  At -∞ the limit is -0. -/
def numSilu (x : FNum) : FNum :=
  match x with
  | .nan => .nan
  | .inf s => if s then .num true 0 false else .inf false
  | .num s a _ =>
    if a = 0 then .num s 0 false
    else if 400 * 2 ^ uexp ≤ a then (if s then .num true 0 true else .num false (a - 1) true)
    else
      let v := (fxMul (fxOfUnits a) (fxSigmoid (if s then -fxOfUnits a else fxOfUnits a))).natAbs
      .num s (v >>> (fxBits - uexp)) true

/-- Sum of t^(2n+1)/(1·3·…·(2n+1)). -/
def phiSeries (t2 : Int) : Nat → Int → Int → Int
  | 0, _, _ => 0
  | fuel + 1, p, k => p + phiSeries t2 fuel (fxMul p t2 / (k + 2)) (k + 2)

/-- Φ(t) - 1/2 for t from 0 to 24. -/
def fxPhiHalf (t : Int) : Int :=
  let t2 := fxMul t t
  let (e, k) := fxExp (-(t2 / 2))
  let root : Int := (isqrt ((2 * fxPi * fxOne).toNat) : Nat)
  fxScale (fxMul (fxDiv (phiSeries t2 1500 t 1) root) e) k

/-- t × Φ(t) (07 R197).  At -∞ the limit is -0. -/
def numGelu (x : FNum) : FNum :=
  match x with
  | .nan => .nan
  | .inf s => if s then .num true 0 false else .inf false
  | .num s a _ =>
    if a = 0 then .num s 0 false
    else if 24 * 2 ^ uexp ≤ a then (if s then .num true 0 true else .num false (a - 1) true)
    else
      let h := fxPhiHalf (fxOfUnits a)
      let p := if s then fxOne / 2 - h else fxOne / 2 + h
      .num s ((fxMul (fxOfUnits a) p).natAbs >>> (fxBits - uexp)) true

end Sys2Proof.Machine
end

