-- ==== Sys2Proof/Machine/MillNum.lean ====
section
/-!
DEFINITION. The numbers that the Mill forms: tile steps, the prologue's weights, the epilogue (03 R84 to R87; 07 R192, R197).
-/
namespace Sys2Proof.Machine
open Sys2Proof

/-- K per step of a format pair, and whether it accumulates INT32 (03 R84; 07 R190): none for a pair that is refused. -/
def millPair (a b : Nat) (pro : Bool) : Option (Nat × Bool) :=
  let f8 := fun x : Nat => x == 3 || x == 4
  if pro then (if a == 2 && b == 6 then some (16, false) else none)
  else if f8 a && f8 b then some (32, false)
  else if (f8 a && b == 8) || (a == 8 && f8 b) then some (64, false)
  else if (a == 1 || a == 2) && a == b then some (16, false)
  else if a == 7 && b == 7 then some (32, true)
  else none

/-- Output formats of the epilogue (07 R197). -/
def millOutFmt (k : Nat) : Bool := k ≤ 4 || (7 ≤ k && k ≤ 9) || k == 0xB

/-- E of 07 R192. -/
def epiCycles (ofmt : Nat) : Nat := if ofmt == 0 || ofmt == 0xB then 256 else if ofmt == 1 || ofmt == 2 then 128 else 64

/-- The format of a code that has passed its check. -/
def fmtAt (k : Nat) : Fmt := (fmtOf k).getD .fp32

/-- An element with its scale, which is absent without block scales (03 R84). -/
def scaledVal (g : Fmt) (x : Nat) (scale : Option Nat) : FNum :=
  match scale with
  | none => valueOf g x
  | some e => numMul (valueOf .e8m0 e) (valueOf g x)

/-- A floating cell after a step: the window sum of the old accumulator and the products (03 R84). -/
def cellSum (old : Nat) (prods : List FNum) : Nat := windowSum (valueOf .fp32 old :: prods) .fp32 .rne false 0

/-- An HS8 cell after a step (03 R85). -/
def cellHs8 (old : Nat) (ab : List (Int × Int)) : Nat :=
  wrapInt 32 (clampInt (-(2 ^ 31)) (2 ^ 31 - 1) (ab.foldl (fun acc p => acc + (2 * p.1 + 1) * (2 * p.2 + 1)) (sintOf 32 old)))

/-- A weight of the prologue (03 R87): code, group scale, zero point. -/
def proWeight (code scale zp : Nat) : Nat :=
  let n := 2 * sintOf 4 code + 1 - sintOf 8 zp
  match valueOf .bf16 scale with
  | .nan => nanRule .bf16
  | .inf s => if n = 0 then nanRule .bf16 else roundTo (.inf (xor s (decide (n < 0)))) .bf16 .rne false 0
  | .num s a t =>
    if n = 0 then 0
    else roundTo (numMul (.num s a t) (.num (decide (n < 0)) (n.natAbs * 2 ^ (uexp - 1)) false)) .bf16 .rne false 0

/-- The rounding mode of the epilogue. -/
def ermOf (k : Nat) : Rnd :=
  match k with
  | 0 => .rne
  | 1 => .rtz
  | 2 => .rup
  | 3 => .rdn
  | 4 => .rna
  | _ => .sr

/-- A number is below another by value, NaN below nothing. -/
def numLt (x y : FNum) : Bool :=
  let key : FNum → Option (Int × Bool) := fun z => match z with
    | .nan => none
    | .inf s => some (if s then -(2 ^ 2000) else 2 ^ 2000, false)
    | .num s a t => some (signedUnits s a, t)
  match key x, key y with
  | some (a, _), some (b, _) => decide (a < b)
  | _, _ => false

/-- activation(act, t, EPARM) on FP32 encodings (07 R197). -/
def activation (act t eparm : Nat) : Nat :=
  let x := valueOf .fp32 t
  let p := valueOf .fp32 eparm
  let rnd := fun z : FNum => roundTo z .fp32 .rne false 0
  let zero : FNum := .num false 0 false
  if x == .nan then nanRule .fp32
  else
    match act with
    | 0 => t
    | 1 => if numLt zero x then t else 0
    | 2 => if numLt x zero then rnd (numMul p x) else t
    | 3 =>
      if p == .nan then nanRule .fp32
      else
        let m := eparm % 2 ^ 31
        if numLt (valueOf .fp32 m) x then m
        else if numLt x (valueOf .fp32 (m + 2 ^ 31)) then m + 2 ^ 31
        else t
    | 4 => rnd (numTanh x)
    | 5 => rnd (numSigmoid x)
    | 6 => if x == .inf true then (Config.actAtNegInf 6).toNat else rnd (numGelu x)
    | _ => if x == .inf true then (Config.actAtNegInf 7).toNat else rnd (numSilu x)

/-- Element `e` of the epilogue (07 R197): `int` tells how the bank is read. -/
def epiElem (f : MForm) (int : Bool) (key ctr : Word) (e v : Nat) : Nat :=
  let x : FNum := if int then .num (decide (sintOf 32 v < 0)) ((sintOf 32 v).natAbs * 2 ^ (uexp - 2)) false else valueOf .fp32 v
  let y :=
    if f.act.val = 0 ∧ f.imm1 = 0 then x
    else
      let scale : FNum := if f.imm1 = 0 then .num false (2 ^ uexp) false else valueOf .fp32 f.imm1.toNat
      valueOf .fp32 (activation f.act.val (roundTo (numMul scale x) .fp32 .rne false 0) f.imm2.toNat)
  roundTo y (fmtAt f.ofmt.val) (ermOf f.erm.val) false (srBits key ctr e)

end Sys2Proof.Machine
end

