-- ==== Sys2Proof/Machine/Walk.lean ====
section
/-!
DEFINITION. Walks through stream descriptors: the elements an instruction takes, their tags, reading and writing them (05 R138 to R142).
-/
namespace Sys2Proof.Machine
open Sys2Proof

/-- The elements that one use of a descriptor takes: its number, image, element width, element numbers and bit positions. -/
structure Walk1 where
  ix : Nat
  img : Img
  wb : Nat
  els : List (Nat × Nat)
deriving DecidableEq, Repr

/-- The descriptor faults that do not depend on the elements: a reason (R142), or the image.  `fmt` is the format required, or, for the
Mill, none. -/
def sdOpen (s : State) (c : Ctx) (n eng : Nat) (fmt : Option Fmt) (wr : Bool) : Except Nat Img :=
  match getDesc c n with
  | none => .error 1
  | some d =>
    if sdEng d ≠ eng then .error 2
    else if sdFmt d = 15 || fmt.any fun f => fmtCode f != sdFmt d then .error 3
    else if sdTotal d = 0 || sdReserved d || (!wr && sdGrant d && !(grantOk s (sdGto d))) then .error 4
    else if sdScf d > 1 || sdSblk d ≠ (if sdScf d = 1 then 32 else 0) then .error 7
    else .ok d

/-- `cnt` elements from POS on (R139): reason 6 past the end, 5 for an element outside. -/
def sdTake (c : Ctx) (d : Img) (wb cnt : Nat) : Except Nat (List (Nat × Nat)) :=
  let t := sdTotal d
  let p := if sdWrap d then sdPos d % t else sdPos d
  if !(sdWrap d) && p + cnt > t then .error 6
  else
    let ns := (List.range cnt).map fun k => (p + k) % t
    if ns.all fun n => sdInside c d wb n then .ok (ns.map fun n => (n, (sdBit d wb n).toNat)) else .error 5

/-- The scales' offsets, each in the scratchpad and in the context's ways (R126, R142).  DESIGN CHOICE: a scale outside the way mask has reason
7, as one outside the scratchpad (notes/assumptions/65.md). -/
def scaleOffs (c : Ctx) (d : Img) (els : List (Nat × Nat)) : Option (List Nat) :=
  if sdScf d = 0 then some []
  else
    let offs := els.map fun e => sdScale d e.1
    if offs.all fun o => decide (0 ≤ o) && (badOffset c o.toNat 1).isNone then some (offs.map Int.toNat) else none

/-- A walk of `cnt` elements of descriptor `n`. -/
def sdWalk (s : State) (c : Ctx) (n eng : Nat) (fmt : Option Fmt) (wr : Bool) (wb cnt : Nat) : Except Nat Walk1 :=
  match sdOpen s c n eng fmt wr with
  | .error r => .error r
  | .ok d =>
    match sdTake c d wb cnt with
    | .error r => .error r
    | .ok els => if (scaleOffs c d els).isNone then .error 7 else .ok { ix := n, img := d, wb := wb, els := els }

/-- The tiles that a walk enters (R140), each once. -/
def walkEnters (k : Walk1) : List Nat := ((k.els.filter fun e => sdEnters k.img k.wb e.1).map fun e => e.2 / 32768).eraseDups

/-- The tiles that it leaves, in order. -/
def walkLeaves (k : Walk1) : List Nat := (k.els.filter fun e => sdLeaves k.img k.wb e.1).map fun e => e.2 / 32768

/-- The sectors of some bit positions. -/
def posSectors (ps : List Nat) : List Nat := (ps.map fun p => p / 256).eraseDups

/-- Tag conditions: the tiles that must be full, and empty; the first that is not as it must be, with what is awaited. -/
def tagUnmet (y : Core) (fulls empties : List Nat) : Option (Nat × Bool) :=
  match fulls.find? fun j => !(tagFull y j) with
  | some j => some (j, false)
  | none => (empties.find? fun j => tagFull y j).map fun j => (j, true)

/-- An element at a bit position, `wb` bits wide, as its tile's owner reads it. -/
def spElem (y : Core) (p wb : Nat) : Nat :=
  if wb < 8 then (spByte y (p / 8)).toNat / 2 ^ (p % 8) % 2 ^ wb else leNat (spRead y (p / 8) (wb / 8))

/-- What a read of elements meets (R141): a fault with its cause, offset and sector, or nothing. -/
inductive Meet where
  | fine
  | fault (cause off sector : Nat)
deriving DecidableEq, Repr

/-- The test of a read without poison-as-zero: POIS at the first element in each tile, then each sector. -/
def meetPoison (y : Core) (ps : List Nat) : Meet :=
  (posSectors ps).foldl (fun (a : Meet × List Nat) k =>
    match a.1 with
    | .fault _ _ _ => a
    | .fine =>
      let j := k / 128
      if !(a.2.contains j) && tagPois y j then (.fault 0x0F (32 * k) k, a.2)
      else
        match spMark y k with
        | 0 => (.fine, j :: a.2)
        | 2 => (.fault 0x10 (32 * k) k, a.2)
        | _ => (.fault 0x11 (32 * k) k, a.2)) (.fine, []) |>.1

/-- The values of elements, those of poisoned sectors as zeros. -/
def elemVals (y : Core) (ps : List Nat) (wb : Nat) : List Nat := ps.map fun p => if spMark y (p / 256) = 0 then spElem y p wb else 0

/-- A read with poison-as-zero marks the tiles of the poisoned sectors it meets; a sector whose check it finds failed is poisoned. -/
def poisonZero (s : State) (w : Who) (ps : List Nat) : State :=
  ((posSectors ps).filter fun k => spMark (getCore s w) k != 0).foldl (fun s k =>
    let s := if spMark (getCore s w) k = 2 then spDetect s w k else s
    countEv (modCore s w fun y => setPois y (k / 128)) w 0x0C 1) s

/-- The read met a poisoned sector or a tile with POIS. -/
def metPoison (y : Core) (ps : List Nat) : Bool := (posSectors ps).any fun k => spMark y k != 0 || tagPois y (k / 128)

/-- Write elements, the later winning: half a byte leaves its other half, a sector written whole is good. -/
def elemWrite (y : Core) (wb : Nat) (l : List (Nat × Nat)) : Core :=
  let y := l.foldl (fun y (p, v) =>
    if wb < 8 then
      let b := (spByte y (p / 8)).toNat
      spWrite y (p / 8) [BitVec.ofNat 8 (if p % 8 = 0 then b / 16 * 16 + v % 16 else b % 16 + v % 16 * 16)]
    else spWrite y (p / 8) (leBytes (wb / 8) v)) y
  let whole := (posSectors (l.map Prod.fst)).filter fun k => ((l.filter fun e => e.1 / 256 = k).map Prod.fst).eraseDups.length * wb = 256
  { y with spErr := whole.foldl spDel y.spErr }

/-- The descriptor's POS after a walk, and its sticky status. -/
def walkAdvance (c : Ctx) (k : Walk1) (poisd : Bool) : Ctx :=
  let t := sdTotal k.img
  let p := (if sdWrap k.img then sdPos k.img % t else sdPos k.img) + k.els.length
  let p := if sdWrap k.img && p ≥ t then p % t else p
  setDesc c k.ix ((getDesc c k.ix).map fun d => let d := sdSetPos d p; if poisd then sdPoisd d else d)

/-- A read's walk leaves its tiles: with CONS, FULL goes, and with GRANT a permit is granted, GSKP marking one that is not (R140). -/
def leaveRead (s : State) (w : Who) (k : Walk1) (eng : Nat) : State :=
  if !(sdCons k.img) then s
  else
    (walkLeaves k).foldl (fun s j =>
      let s := changeFull s w j false eng
      if !(sdGrant k.img) then s
      else
        match grantPermit s w j (sdGto k.img) with
        | some s => s
        | none => modCtx s w fun c => setDesc c k.ix ((getDesc c k.ix).map sdGskp)) s

/-- A write's walk leaves its tiles: with PROD, FULL is set. -/
def leaveWrite (s : State) (w : Who) (k : Walk1) (eng : Nat) : State :=
  if sdProd k.img then (walkLeaves k).foldl (fun s j => changeFull s w j true eng) s else s

/-- The tiles whose FULL reads and writes change when they leave may change now (R135). -/
def leavesTurn (s : State) (w : Who) (rds wrs : List Walk1) (eng : Nat) : Bool :=
  (((rds.filter fun k => sdCons k.img).flatMap walkLeaves).all fun j => tagTurn s w j false eng) &&
    ((wrs.filter fun k => sdProd k.img).flatMap walkLeaves).all fun j => tagTurn s w j true eng

/-- The tiles that some sectors lie in. -/
def sectorTiles (ks : List Nat) : List Nat := (ks.map fun k => k / 128).eraseDups

/-- The order points of the tags that an instruction has waited for (13 R342 KIND 0x03). -/
def tagsObserved (s : State) (w : Who) (eng : Nat) (fulls empties : List Nat) : State :=
  empties.foldl (fun s j => tagObserved s w eng j false) (fulls.foldl (fun s j => tagObserved s w eng j true) s)

/-- The first watched byte of some positions in the scratchpad: the lowest. -/
def watchPos (c : Ctx) (ps : List Nat) (wb : Nat) (k : WKind) : Option Nat :=
  if c.dbg.wpb = [] then none
  else ps.foldl (fun m p =>
    match watchHit c false true k (p / 8) ((wb + 7) / 8), m with
    | some x, some y => some (min x y)
    | some x, none => some x
    | none, m => m) none

end Sys2Proof.Machine
end

