-- ==== Sys2Proof/Machine/Vector.lean ====
section
/-!
DEFINITION. The Loom: its registers, shape, operands, and the one flow that its instructions share (06 R155 to R163; 01 R33, R41).
-/
namespace Sys2Proof.Machine
open Sys2Proof

/-! ### Shape and registers (06 R155 to R158) -/

def shRows (v : Word) : Nat := bits v 0 16

def shCols (v : Word) : Nat := bits v 16 16

def shW (v : Word) : Nat := 2 ^ bits v 32 2

/-- The row length in bytes. -/
def shLen (v : Word) : Nat := shCols v * shW v

def shN (v : Word) : Nat := shRows v * shCols v

def shapeValid (v : Word) : Bool :=
  bits v 34 30 == 0 && bits v 32 2 ≤ 2 && 1 ≤ shRows v && shRows v ≤ 128 && 1 ≤ shCols v && shCols v ≤ 4096 && shLen v % 32 == 0 &&
    shRows v * shLen v ≤ 4096

def getV (c : Ctx) (k : Nat) : Nat := (spGet 0 c.loom.v k).toNat

def setV (c : Ctx) (k v : Nat) : Ctx := { c with loom := { c.loom with v := spSet 0 c.loom.v k (BitVec.ofNat 32768 v) } }

def getVg (c : Ctx) (k : Nat) : Word := spGet 0 c.loom.vg k

def setVg (c : Ctx) (k : Nat) (v : Word) : Ctx :=
  { c with loom := { c.loom with vg := spSet 0 c.loom.vg k v }, errs := mend c (.vg k) }

def setP (c : Ctx) (k v : Nat) : Ctx := { c with loom := { c.loom with p := spSet 0 c.loom.p k (BitVec.ofNat 16 v) }, errs := mend c (.p k) }

/-- Elements of `wb` bits at bit positions `ps` of a register are written: an 8-byte word written whole is in error no longer (05 R154). -/
def mendV (c : Ctx) (k wb : Nat) (ps : List Nat) : Ctx :=
  if c.errs = [] then c
  else { c with errs := c.errs.filter fun l => match l with
    | .v j x => !(j == k && (ps.eraseDups.filter fun p => p / 64 == x).length * wb == 64)
    | _ => true }

/-- `wb` bits of a register at bit `p`. -/
def vBits (v p wb : Nat) : Nat := v / 2 ^ p % 2 ^ wb

/-- The register with `wb` bits at `p` replaced. -/
def vPut (v p wb x : Nat) : Nat := v - vBits v p wb * 2 ^ p + x % 2 ^ wb * 2 ^ p

def vPutAll (v wb : Nat) : List (Nat × Nat) → Nat
  | [] => v
  | (p, x) :: t => vPutAll (vPut v p wb x) wb t

/-- Elements selected by a predicate (R157): `n` is the count of p0. -/
def predCount (c : Ctx) (p n : Nat) : Nat := if p = 0 then n else min (spGet 0 c.loom.p p).toNat n

/-- The count that an instruction reads of a predicate. -/
def predRaw (c : Ctx) (p n : Nat) : Nat := if p = 0 then n else (spGet 0 c.loom.p p).toNat

/-- The bit position of flat element `e`, `wb` bits wide, with no window (R156). -/
def flatBit (sh : Word) (wb e : Nat) : Nat := e / shCols sh * (8 * shLen sh) + e % shCols sh * wb

/-- The bit position of flat element `e` through a window (02 R52). -/
def winBit (sh : Word) (row0 step col wb e : Nat) : Nat :=
  (row0 + e / shCols sh * (step + 1)) % shRows sh * (8 * shLen sh) + (col * 256 + e % shCols sh * wb) % (8 * shLen sh)

/-! ### Retiring, stopping (01 R33, R41) -/

/-- Retire a Loom instruction; `beats` is what it counts as event 0x03. -/
def passLoom (s : State) (w : Who) (n : Nxt) (beats : Nat) : State :=
  let c := getCtx s w
  let (ls, pc') := loopNext c.loom.loops c.loom.pc 12 n
  let c := { c with loom := { c.loom with pc := pc', loops := ls, stat := { c.loom.stat with bps := false }, fly := none } }
  modDie (setCtx s w c) w.die fun d => almTick (countDie d (some (w.core, w.ctx)) 0x03 beats) w 1

/-- An instruction retires, and single step follows it (01 R41). -/
def retireLoom (s : State) (w : Who) (n : Nxt) (beats : Nat) : State :=
  let t := passLoom s w n beats
  let c := getCtx s w
  if c.loom.stat.sstep && !c.halted then stopStream t w .loom 0x15 0 else t

/-- The Loom's instruction is in flight no longer. -/
def landLoom (s : State) (w : Who) : State :=
  if (getCtx s w).loom.fly.isSome then modCtx s w fun c => { c with loom := { c.loom with fly := none } } else s

/-- The outcome of a Loom instruction takes effect.  `.found` stops the stream in the state it carries. -/
def finishLoom (s : State) (w : Who) : Res → State
  | .ok s' n => if almOver s' w.die then almHeld s s' w 1 else retireLoom (clearWait s' w .loom (waitSetBy s w .loom)) w n 0
  | .trap cause val => stopStream (landLoom s w) w .loom cause val
  | .found s' cause val => if almOver s' w.die then almHeld s s' w 1 else stopStream (landLoom s' w) w .loom cause val
  | .wait k obj aux => enterWait (landLoom s w) w .loom k obj aux
  | .chWait l => enterChWait (landLoom s w) w .loom l
  | .hold => s
  | .stay s' => if almOver s' w.die then almHeld s s' w 1 else clearWait s' w .loom (waitSetBy s w .loom)
  | .redo f => clearWait (f s) w .loom (waitSetBy s w .loom)
  | .exit s' =>
    let s' := clearWait s' w .loom (waitSetBy s w .loom)
    modDie (modCtx s' w fun c => raiseEv (setStat c .loom { getStat c .loom with st := .done, bps := false }) 5) w.die fun d => almTick d w 1

def runLoom (s : State) (body : State → Res) : Host.Outcome State Fault Refusal := .next (finishLoom s (me s) (body s))

/-- The same for an instruction that reads `shape` and its predicate. -/
def runLoomF (s : State) (f : LForm) (body : State → Res) : Host.Outcome State Fault Refusal :=
  runLoom s fun s => readsLocs s (.shape :: if f.pred.val = 0 then [] else [.p f.pred.val]) (body s)

/-- Parcel 0 of an instruction (13 R316). -/
def parcel0 (i : Instr) : Word := w64 ((encodeNat i).getD 0 % 2 ^ 32)

/-! ### Operands (06 R159, R160) -/

/-- A source: its field, how many elements it supplies, their width, and the format that a stream must have. -/
structure LIn where
  o : LOpnd
  n : Nat
  wb : Nat
  fmt : Option Fmt

/-- A destination: its field, width and format, and how many elements a stream destination takes. -/
structure LOut where
  o : LOpnd
  wb : Nat
  fmt : Option Fmt
  n : Nat

/-- What an instruction computes: for each destination the flat indices and values it writes; entries to push; further register writes
(register, width, positions and values), vg and predicate writes; what it stores in the scratchpad; whether `srcv` advances. -/
structure LRes where
  outs : List (List (Nat × Nat)) := []
  push : List Word := []
  regs : List (Nat × Nat × List (Nat × Nat)) := []
  vg : List (Nat × Word) := []
  preds : List (Nat × Nat) := []
  mem : List Nat := []
  sr : Bool := false

/-- The width of a register operand fits the shape (R156). -/
def opndFits (sh : Word) (o : LOpnd) (wb : Nat) : Bool :=
  match o with
  | .vreg _ _ _ _ => wb ≤ 8 * shW sh
  | _ => true

/-- The channel of a source, with whether it is peeked. -/
def inChan (i : LIn) : Option (Nat × Bool) :=
  match i.o with
  | .chan n p => some (n.val, p)
  | _ => none

/-- The stream of an operand. -/
def opndSd (o : LOpnd) : Option Nat :=
  match o with
  | .stream n => some n.val
  | _ => none

/-- The places that `n` elements of `wb` bits of an operand lie in. -/
def opndLocs (sh : Word) (o : LOpnd) (n wb : Nat) : List Loc :=
  match o with
  | .vreg x r st co => (((List.range n).map fun e => winBit sh r.val st.val co.val wb e / 64).eraseDups).map (Loc.v x.val)
  | .stream d => [.desc d.val]
  | .const k => [.vg k.val]
  | .chan _ _ => []

/-- The vg registers that class 3 operands name. -/
def constLocs (l : List LOpnd) : List Loc := l.filterMap fun o => match o with
  | .const k => some (.vg k.val)
  | _ => none

/-- The places that the operands of an instruction read; nothing while no place of the context is in error. -/
def flowLocs (c : Ctx) (ins : List LIn) (outs : List LOut) : List Loc :=
  if c.errs = [] then []
  else
    (ins.flatMap fun i => opndLocs c.loom.shape i.o i.n i.wb) ++ outs.filterMap fun o => match o.o with
      | .stream d => some (.desc d.val)
      | _ => none

/-- The walk of a stream operand that takes `n` elements, or a descriptor number and a reason; another operand has none. -/
def opndWalk (s : State) (c : Ctx) (o : LOpnd) (fmt : Option Fmt) (wr : Bool) (wb n : Nat) : Except (Nat × Nat) (Option Walk1) :=
  match opndSd o with
  | none => .ok none
  | some d =>
    if n = 0 then .ok none
    else
      match sdWalk s c d 1 fmt wr wb n with
      | .error e => .error (d, e)
      | .ok k => .ok (some k)

def walkOf : Except (Nat × Nat) (Option Walk1) → Option Walk1
  | .ok k => k
  | .error _ => none

/-- The first fault among walks: a descriptor number and a reason. -/
def walkFault (l : List (Except (Nat × Nat) (Option Walk1))) : Option (Nat × Nat) :=
  l.findSome? fun x => match x with
    | .ok _ => none
    | .error e => some e

/-- The channel conditions of an instruction: a trap or a wait, or go on.  The Loom waits while a channel is not configured. -/
def loomChans (c : Ctx) (word : Word) (pops : List Nat) (push : Option (Nat × Nat)) (k : Res) : Res :=
  let bad := pops.any (fun n => chEn (getChan c n) && chCons (getChan c n) != 1) ||
    push.any fun p => chEn (getChan c p.1) && chProd (getChan c p.1) != 1
  let needs := pops.map (fun n => (⟨n, false, 0⟩ : ChNeed)) ++ (push.map fun (n, m) => (⟨n, true, 16 - m⟩ : ChNeed)).toList
  if bad then .trap 0x01 word
  else
    match needUnmet c .loom needs with
    | none => if pops.any fun n => (getChan c n).q.head?.any ChEntry.bad then .trap 0x11 (Config.lostVal 0) else k
    | some x =>
      let h := getChan c x.ch
      if !(chEn h && chSelf h) then .chWait needs
      else if x.push then .trap 0x09 (w64 x.ch)
      else if h.q.isEmpty then .trap 0x0A (w64 x.ch)
      else .chWait needs

/-- The range check of the Loom's instruction `i` (05 R146; 06 R161): its reads and writes by sector against Carter commands, the Mill's
accesses, the access core's and landings.  An instruction whose turn takes it only to the start of phase 2 is then in flight; one that is in flight goes on. -/
def loomRange (s : State) (i : Instr) (sds rds wrs : List Nat) (k : Res) : Res :=
  let c := getCtx s (me s)
  if c.loom.fly.isSome then k
  else
    let y := getCore s (me s)
    let clash := fun (wr : Bool) (j : Nat) => (carterClash c (32 * j) 32 wr).orElse fun _ => (millClash c (32 * j) 32 wr).orElse fun _ =>
      clashIn (accessUses c wr ++ landUses y) (32 * j) 32
    let hit := rds.filterMap (clash false) ++ wrs.filterMap (clash true)
    match lowest (hit.map fun o => o / 32) with
    | some o => .trap 0x0C (w64 o)
    | none =>
      if s.cur.begins && (rds != [] || wrs != []) then
        .stay (modCtx s (me s) fun c => { c with loom := { c.loom with fly := some { i := i, sds := sds, rd := rds, wr := wrs } } })
      else k

/-- The values of a source (R159).  DESIGN CHOICE (03 R72 gives the Loom no block scales): a descriptor with SCF 1 is read as its raw
elements, the scales left aside (notes/assumptions/65.md). -/
def inVals (s : State) (w : Who) (sh : Word) (i : LIn) (k : Option Walk1) : List Nat :=
  let c := getCtx s w
  match i.o with
  | .vreg x r st co => let v := getV c x.val; (List.range i.n).map fun e => vBits v (winBit sh r.val st.val co.val i.wb e) i.wb
  | .stream _ => match k with | some k => elemVals (getCore s w) (k.els.map Prod.snd) k.wb | none => []
  | .chan n _ => List.replicate i.n (((getChan c n.val).q.head?.map fun e => e.val.toNat).getD 0 % 2 ^ i.wb)
  | .const n => List.replicate i.n ((getVg c n.val).toNat % 2 ^ i.wb)

/-- The poison test of the stream sources (05 R141). -/
def insMeet (y : Core) : List (Option Walk1) → Meet
  | [] => .fine
  | none :: t => insMeet y t
  | some k :: t =>
    if sdPaz k.img then insMeet y t
    else match meetPoison y (k.els.map Prod.snd) with
      | .fine => insMeet y t
      | m => m

/-- Write a destination. -/
def putOut (s : State) (w : Who) (sh : Word) (o : LOut) (k : Option Walk1) (vals : List (Nat × Nat)) : State :=
  match o.o with
  | .vreg x r st co =>
    let l := vals.map fun (e, v) => (winBit sh r.val st.val co.val o.wb e, v)
    modCtx s w fun c => mendV (setV c x.val (vPutAll (getV c x.val) o.wb l)) x.val o.wb (l.map Prod.fst)
  | .stream _ =>
    match k with
    | none => s
    | some k =>
      let s := modCore s w fun y => elemWrite y o.wb ((k.els.map Prod.snd).zip (vals.map Prod.snd))
      leaveWrite (modCtx s w fun c => walkAdvance c k false) w k 1
  | _ => s

def zipFold {α β : Type} (f : State → α → β → State) : State → List α → List β → State
  | s, a :: as, b :: bs => zipFold f (f s a b) as bs
  | s, _, _ => s

/-- Retirement of the shared flow: destinations, channels, tags, POS, `srcv` (R160 phase 3). -/
def loomCommit (s : State) (w : Who) (sh : Word) (ins : List LIn) (iks : List (Option Walk1)) (outs : List LOut)
    (oks : List (Option Walk1)) (pushTo : Option Nat) (r : LRes) : State :=
  let s := (ins.filterMap inChan).foldl (fun s (n, p) => if p then s else chDrop s w 1 n) s
  let y0 := getCore s w
  let s := zipFold (fun s o (kv : Option Walk1 × List (Nat × Nat)) => putOut s w sh o kv.1 kv.2) s outs (oks.zip r.outs)
  let s := modCtx s w fun c => r.regs.foldl (fun c (k, wb, l) => mendV (setV c k (vPutAll (getV c k) wb l)) k wb (l.map Prod.fst)) c
  let s := modCtx s w fun c => r.vg.foldl (fun c (k, v) => setVg c k v) c
  let s := modCtx s w fun c => r.preds.foldl (fun c (k, v) => setP c k v) c
  let s := match pushTo with
    | none => s
    | some n => r.push.foldl (fun s v => modCtx s w fun c => chPush c n { val := v }) s
  let s := iks.foldl (fun s k => match k with
    | none => s
    | some k =>
      let ps := k.els.map Prod.snd
      let met := metPoison y0 ps
      let s := if sdPaz k.img then poisonZero s w ps else s
      leaveRead (modCtx s w fun c => walkAdvance c k met) w k 1) s
  if r.sr then modCtx s w fun c => { c with csr := { c.csr with srcv := c.csr.srcv + 1 } } else s

/-- What an instruction reads and writes of the scratchpad beside its stream operands (R180, R181): bit positions, the element width,
poison-as-zero, and a cause and offset where one of its addresses is at fault. -/
structure LMem where
  rd : List Nat := []
  wr : List Nat := []
  wb : Nat := 8
  paz : Bool := false
  bad : Option (Nat × Nat) := none

/-- Phase 1 (R160): the instruction waits until it can take its channel operands and every tag condition holds.  Then the descriptors are
checked, and `k` goes on with the walks and the tiles awaited full and empty. -/
def loomWaits (s : State) (i : Instr) (ins : List LIn) (outs : List LOut) (push : Option (Nat × Nat))
    (k : List (Option Walk1) → List (Option Walk1) → List Nat → List Nat → Res) : Res :=
  let w := me s
  let c := getCtx s w
  let sh := c.loom.shape
  if !(ins.all (fun i => opndFits sh i.o i.wb) && outs.all fun o => opndFits sh o.o o.wb) then .trap 0x01 (parcel0 i)
  else
    readsLocs s (flowLocs c ins outs) <|
    let rs := ins.map fun i => opndWalk s c i.o i.fmt false i.wb i.n
    let ws := outs.map fun o => opndWalk s c o.o o.fmt true o.wb o.n
    loomChans c (parcel0 i) ((ins.filterMap inChan).map Prod.fst) push
      (let fulls := (((rs.filterMap walkOf).filter fun k => sdWfull k.img).flatMap walkEnters).eraseDups
       let empties := (((ws.filterMap walkOf).filter fun k => sdProd k.img).flatMap walkEnters).eraseDups
       let y := getCore s w
       sensed s (fulls ++ empties) (match (if c.loom.fly.isSome then none else tagUnmet y fulls empties) with
         | some (j, b) => tagWait y j (if b then 1 else 0)
         | none =>
           match walkFault (rs ++ ws) with
           | some (n, r) => .trap 0x17 (descVal n r)
           | none => k (rs.map walkOf) (ws.map walkOf) fulls empties))

/-- The poison test of what an instruction reads (05 R141). -/
def loomMeets (s : State) (iks : List (Option Walk1)) (m : LMem) (k : Res) : Res :=
  let w := me s
  let y := getCore s w
  let own := if m.paz then Meet.fine else meetPoison y m.rd
  match (match insMeet y iks with | .fine => own | f => f) with
  | .fault cause off k => .found (if cause = 0x10 then spDetect s w k else s) cause (w64 off)
  | .fine => k

/-- Retirement, `beats` counted, or the stop after it at a watchpoint match (05 R151). -/
def loomEnd (s s' : State) (beats : Nat) (hit : Option Nat) : Res :=
  let w := me s
  let s' := modDie s' w.die fun d => countDie d (some (w.core, w.ctx)) 0x03 beats
  match hit with
  | none => .ok s' .seq
  | some x => .found (passLoom (clearWait s' w .loom (waitSetBy s w .loom)) w .seq 0) 0x14 (w64 x)

/-- The first watched byte that walks and positions touch. -/
def walksWatch (c : Ctx) (iks oks : List (Option Walk1)) (m : LMem) : Option Nat :=
  (((iks.filterMap id).map fun k => watchPos c (k.els.map Prod.snd) k.wb .read) ++
    ((oks.filterMap id).map fun k => watchPos c (k.els.map Prod.snd) k.wb .write) ++
    [watchPos c m.rd m.wb .read, watchPos c m.wr m.wb .write]).findSome? id

/-- The shared flow of a Loom instruction (R160): waits, checks, reads, computes, retires.  `fn` takes the sources' values, followed by those
that `m` reads; `beats` counts its beats (R162). -/
def loomMem (s : State) (i : Instr) (ins : List LIn) (outs : List LOut) (push : Option (Nat × Nat)) (beats : Nat) (m : LMem)
    (fn : List (List Nat) → LRes) : Res :=
  let w := me s
  let c := getCtx s w
  let sh := c.loom.shape
  loomWaits s i ins outs push fun iks oks fulls empties =>
    let rk := iks.filterMap id
    let wk := oks.filterMap id
    match m.bad with
    | some (cause, o) => .trap cause (w64 o)
    | none =>
      let rds := posSectors ((rk.flatMap fun k => k.els.map Prod.snd) ++ m.rd)
      let wrs := posSectors ((wk.flatMap fun k => k.els.map Prod.snd) ++ m.wr)
      loomRange s i ((rk ++ wk).map Walk1.ix) rds wrs
        (sensed s (sectorTiles (rds ++ wrs)) (if !(leavesTurn s w rk wk 1) then .hold else loomMeets s iks m
          (let y := getCore s w
           let vals := (ins.zip iks).map fun (i, k) => inVals s w sh i k
           let r := fn (if m.rd = [] then vals else vals ++ [elemVals y m.rd m.wb])
           let s' := tagsObserved s w 1 fulls empties
           let s' := if m.paz then poisonZero s' w m.rd else s'
           let s' := if m.wr = [] then s' else modCore s' w fun y => elemWrite y m.wb (m.wr.zip r.mem)
           loomEnd s (loomCommit s' w sh ins iks outs oks (push.map Prod.fst) r) beats (walksWatch c iks oks m))))

/-- The same for an instruction whose operands are its fields alone. -/
def loomFlow (s : State) (i : Instr) (ins : List LIn) (outs : List LOut) (push : Option (Nat × Nat)) (beats : Nat)
    (fn : List (List Nat) → LRes) : Res := loomMem s i ins outs push beats {} fn

/-- Beats of `n` elements of at most `wb` bits (R162). -/
def beatsOf (n wb : Nat) : Nat := (n * wb + 4095) / 4096

/-- The active elements of an instruction. -/
def active (c : Ctx) (f : LForm) : Nat := predCount c f.pred.val (shN c.loom.shape)

/-- Value `e` of source `k`. -/
def lv (vs : List (List Nat)) (k e : Nat) : Nat := (vs.getD k []).getD e 0

/-- The random bits of element `e` under stochastic rounding (03 R78). -/
def loomSr (c : Ctx) (e : Nat) : Nat := srBits c.csr.srkey c.csr.srcv e

/-- The instruction rounds stochastically and computes an element. -/
def srAdvances (f : LForm) (n : Nat) : Bool := f.rnd == .sr && n != 0

/-- Element-wise: D from sources of the given formats, element by element. -/
def ewBody (i : Instr) (f : LForm) (srcs : List (LOpnd × Fmt)) (dfmt : Fmt) (sr : Bool) (fn : Nat → List Nat → Nat) (s : State) : Res :=
  let c := getCtx s (me s)
  let n := active c f
  let ins := srcs.map fun (o, g) => { o := o, n := n, wb := fmtBits g, fmt := some g : LIn }
  let wb := (srcs.map fun x => fmtBits x.2).foldl max (fmtBits dfmt)
  loomFlow s i ins [{ o := f.d, wb := fmtBits dfmt, fmt := some dfmt, n := n }] none (beatsOf n wb) fun vs =>
    { outs := [(List.range n).map fun e => (e, fn e (vs.map fun l => l.getD e 0))], sr := sr && srAdvances f n }

end Sys2Proof.Machine
end

