-- ==== Sys2Proof/Machine/Mill.lean ====
section
/-!
DEFINITION. The Mill: array instructions, tile steps, epilogue, injection, stream control (07 R188 to R207).
-/
namespace Sys2Proof.Machine
open Sys2Proof

/-! ### The stream (01 R33, R41; 07 R191) -/

def modMill (s : State) (w : Who) (f : MillSt → MillSt) : State := modCtx s w fun c => { c with mill := f c.mill }

/-- The stream goes past its instruction. -/
def millPass (s : State) (w : Who) (n : Nxt) : State :=
  let s := clearWait s w .mill (waitSetBy s w .mill)
  modCtx s w fun c =>
    let (ls, pc') := loopNext c.mill.loops c.mill.pc 24 n
    { c with mill := { c.mill with pc := pc', loops := ls, stat := { c.mill.stat with bps := false }, back := none } }

/-- The stream goes past an MSTEP whose steps are done; its place is kept while nothing else issues (01 R42, R193). -/
def millPassStep (s : State) (w : Who) : State :=
  let m := (getCtx s w).mill
  modMill (millPass s w .seq) w fun n => { n with back := some (m.pc, m.loops) }

/-- An instruction has retired: its count, and single step, unless a report stops the stream at this boundary anyway (01 R41). -/
def millRetired (s : State) (w : Who) : State :=
  let s := modDie s w.die fun d => almTick d w 2
  let c := getCtx s w
  if c.mill.stat.sstep && !c.halted && c.mill.pend.isNone && (c.mill.stat.st == .run || c.mill.stat.st == .wait) then stopStream s w .mill 0x15 0
  else s

/-- The outcome of a Mill instruction takes effect. -/
def finishMill (s : State) (w : Who) : Res → State
  | .ok s' n => if almOver s' w.die then almHeld s s' w 2 else millRetired (millPass s' w n) w
  | .trap cause val => stopStream s w .mill cause val
  | .found s' cause val => if almOver s' w.die then almHeld s s' w 2 else stopStream s' w .mill cause val
  | .wait k obj aux => enterWait s w .mill k obj aux
  | .chWait l => enterChWait s w .mill l
  | .hold => s
  | .stay s' => if almOver s' w.die then almHeld s s' w 2 else s'
  | .redo f => f s
  | .exit s' =>
    let s' := clearWait s' w .mill (waitSetBy s w .mill)
    modDie (modCtx s' w fun c => raiseEv (setStat c .mill { getStat c .mill with st := .done, bps := false }) 5) w.die fun d => almTick d w 2

def runMill (s : State) (body : State → Res) : Host.Outcome State Fault Refusal := .next (finishMill s (me s) (body s))

/-! ### Banks -/

def getBank (c : Ctx) (b : Bool) : List (Nat × BitVec 32) := if b then c.mill.acc1 else c.mill.acc0

def setBank (c : Ctx) (b : Bool) (v : List (Nat × BitVec 32)) : Ctx :=
  { c with mill := if b then { c.mill with acc1 := v } else { c.mill with acc0 := v } }

/-- Element (i, j) of a bank, as i × 256 + j. -/
def bankAt (v : List (Nat × BitVec 32)) (e : Nat) : Nat := (spGet 0 v e).toNat

/-- A bank from its 32 768 elements. -/
def bankOf (f : Nat → Nat) : List (Nat × BitVec 32) := spOfFn 0 32768 fun e => BitVec.ofNat 32 (f e)

/-- An instruction in flight reads or writes the bank (R191). -/
def bankBusy (c : Ctx) (b : Bool) : Bool := c.mill.flight.any fun x => x.op != 6 && x.f.bank == b

/-- An MPRO has not retired. -/
def mproBusy (c : Ctx) : Bool := c.mill.flight.any fun x => x.op == 6

/-- The epilogue path of the core is free: no MEPI, MSTA or epilogue of an MSTEP of either context holds it (R191). -/
def pathFree (y : Core) : Bool :=
  let idle := fun c : Ctx => c.mill.flight.all fun x => !(x.op == 4 || x.op == 7 || x.stage == .writing)
  idle y.k0 && idle y.k1

/-! ### Errors in a bank's storage (05 R154) -/

/-- A place in error that lies in bank `b`. -/
def inBank (b : Bool) : Loc → Bool
  | .acc k _ => k == b
  | _ => false

/-- The bank holds an element in error. -/
def bankLost (c : Ctx) (b : Bool) : Bool := c.errs.any (inBank b)

/-- Every element of a bank is written: none is in error. -/
def fillBank (c : Ctx) (b : Bool) (v : List (Nat × BitVec 32)) : Ctx := { setBank c b v with errs := c.errs.filter fun e => !(inBank b e) }

/-- The banks exchange their names. -/
def swapLoc : Loc → Loc
  | .acc b e => .acc (!b) e
  | l => l

/-- The stop at an element in error that an instruction reads: 0x11, its `sval` a free value (notes/assumptions/52.md). -/
def lostBank (s : State) : Nat × Word := (0x11, Config.lostVal s.free)

/-! ### Descriptors (R188 to R190, R195) -/

/-- A source of an array instruction: its walk, with the flags that are effective; how many of its elements it takes for good; whether
its tags are tested; its scales' offsets. -/
structure MSrc where
  walk : Walk1
  adv : Nat
  enter : Bool
  scales : List Nat
deriving DecidableEq, Repr

/-- A descriptor as the Mill opens it: a format that is not `code` is 0x18 (05 R142, 07 R200). -/
def millOpen (s : State) (c : Ctx) (n code : Nat) (wr : Bool) : Except (Nat × Word) Img :=
  if c.errs.contains (.desc n) then .error (0x11, Config.lostVal s.free)
  else match sdOpen s c n 2 none wr with
  | .error r => .error (if r = 3 then 0x18 else 0x17, descVal n r)
  | .ok d => if sdFmt d = code then .ok d else .error (0x18, descVal n 3)

/-- The descriptor is bound to the Mill with another format: 0x18 before the faults of 0x17 (R200). -/
def millFmtBad (c : Ctx) (n code : Nat) : Option (Nat × Word) :=
  match getDesc c n with
  | none => none
  | some d => if sdEng d = 2 && sdFmt d != code then some (0x18, descVal n 3) else none

/-- The flags effective under the word's wfull and cons (R195). -/
def effImg (f : MForm) (d : Img) : Img :=
  d ||| (if f.wfull then BitVec.ofNat 512 (2 ^ 42) else 0) ||| (if f.cons then BitVec.ofNat 512 (2 ^ 40) else 0)

/-- A source of `cnt` elements, of which it takes `adv` for good. -/
def millSrc (s : State) (c : Ctx) (f : MForm) (n code cnt adv : Nat) (enter : Bool) : Except (Nat × Word) MSrc :=
  match millOpen s c n code false with
  | .error e => .error e
  | .ok d =>
    let wb := fmtBits (fmtAt code)
    if sdScf d = 1 && !((code == 3 || code == 4 || code == 8) && sdCount d 0 % 32 == 0) then .error (0x17, descVal n 7)
    else
      match sdTake c d wb cnt with
      | .error r => .error (0x17, descVal n r)
      | .ok els =>
        match scaleOffs c d els with
        | none => .error (0x17, descVal n 7)
        | some sc => .ok { walk := { ix := n, img := effImg f d, wb := wb, els := els }, adv := adv, enter := enter, scales := sc }

/-- The walk of an output of `cnt` elements; the Mill writes no format with block scales. -/
def millOut (s : State) (c : Ctx) (n code cnt : Nat) : Except (Nat × Word) Walk1 :=
  match millOpen s c n code true with
  | .error e => .error e
  | .ok d =>
    match sdTake c d (fmtBits (fmtAt code)) cnt with
    | .error r => .error (0x17, descVal n r)
    | .ok els =>
      if (scaleOffs c d els).isNone then .error (0x17, descVal n 7)
      else .ok { ix := n, img := d, wb := fmtBits (fmtAt code), els := els }

/-- Positions that a source reads, its scales among them. -/
def srcPos (k : MSrc) : List Nat := k.walk.els.map Prod.snd ++ k.scales.map (8 * ·)

/-- The tiles that must be full before the sources are read. -/
def srcFulls (ks : List MSrc) : List Nat := ((ks.filter fun k => k.enter && sdWfull k.walk.img).flatMap fun k => walkEnters k.walk).eraseDups

/-- The lowest sector overlapping an access of another domain in flight: a Carter command, the access core's or the Loom's instruction, a
landing. -/
def outerClash (y : Core) (c : Ctx) (o n : Nat) (w : Bool) : Option Nat :=
  (carterClash c o n w).orElse fun _ => clashIn (accessUses c w ++ loomUses c w ++ landUses y) o n

/-- The range checker's test of the Mill (05 R144 to R146): own accesses in flight hold it, other domains raise 0x0C. -/
def millRange (y : Core) (c : Ctx) (rds wrs : List Nat) (k : Res) : Res :=
  if (rds.any fun j => (millUses c false).contains j) || wrs.any fun j => (millUses c true).contains j then .hold
  else
    let hit := rds.filterMap (fun j => outerClash y c (32 * j) 32 false) ++ wrs.filterMap fun j => outerClash y c (32 * j) 32 true
    match lowest (hit.map fun o => o / 32) with
    | some o => .trap 0x0C (w64 o)
    | none => k

/-- The poison test of the sources (05 R141). -/
def srcsMeet (y : Core) : List MSrc → Meet
  | [] => .fine
  | k :: t =>
    if sdPaz k.walk.img then srcsMeet y t
    else
      match meetPoison y (srcPos k) with
      | .fine => srcsMeet y t
      | m => m

/-- The elements of a source with their scales. -/
def srcVals (y : Core) (k : MSrc) : List Nat := elemVals y (k.walk.els.map Prod.snd) k.walk.wb

/-- The sources may leave their tiles now (05 R135). -/
def srcsTurn (s : State) (w : Who) (ks : List MSrc) : Bool :=
  leavesTurn s w (ks.map fun k => { k.walk with els := k.walk.els.take k.adv }) [] 2

def srcScales (y : Core) (k : MSrc) : List Nat := elemVals y (k.scales.map (8 * ·)) 8

/-- The sources are read: poison-as-zero, tiles left, POS advanced (R188, R195; 05 R140, R141). -/
def srcsTaken (s : State) (w : Who) (ks : List MSrc) : State :=
  let y0 := getCore s w
  ks.foldl (fun s k =>
    let s := if sdPaz k.walk.img then poisonZero s w (srcPos k) else s
    let t : Walk1 := { k.walk with els := k.walk.els.take k.adv }
    leaveRead (modCtx s w fun c => walkAdvance c t (metPoison y0 (srcPos k))) w t 2) s

/-- The first watched byte that the sources read. -/
def srcsWatch (c : Ctx) (ks : List MSrc) : Option Nat :=
  (ks.map fun k => (watchPos c (k.walk.els.map Prod.snd) k.walk.wb .read).orElse fun _ => watchPos c (k.scales.map (8 * ·)) 8 .read).findSome? id

/-! ### Starting an array instruction (R191; 01 R21, R22) -/

/-- Checks shared by the array instructions: 0x1B, 0x18 of the word itself, the interlocks of R191, the gate; then `body` starts it. -/
def millArray (s : State) (f : MForm) (word : Word) (fmtOk idle : Bool) (dur cycles : Nat) (body : State → Res) : Res :=
  let w := me s
  let g := gateFor s w f.use.val 0 (millInst w) false
  if g = .bad then .trap 0x1B word
  else if !fmtOk then .trap 0x18 word
  else if !idle || mproBusy (getCtx s w) then .hold
  else if g = .wait then
    .wait 6 (w64 ((((getCtx s w).job.map fun j => j.handle).getD 0) * 8 + f.use.val)) (w64 (dur * 4 + 2))
  else if g = .unbooked && !(unbookedRoom s w cycles) then .hold
  else body (markIssued s w f.use.val)

/-- What MSTEP's steps take of its descriptors at step `t` (R188, R190). -/
def stepSrcs (s : State) (c : Ctx) (f : MForm) (t : Nat) : Except (Nat × Word) (List MSrc) :=
  let K := ((millPair f.afmt.val f.bfmt.val f.pro).map Prod.fst).getD 0
  match millSrc s c f f.as.val f.afmt.val (128 * K) (128 * K) true with
  | .error e => .error e
  | .ok a =>
    match millSrc s c f f.bs.val f.bfmt.val (256 * K) (256 * K) true with
    | .error e => .error e
    | .ok b =>
      if !f.pro then .ok [a, b]
      else
        let g := if f.grp then 128 else 32
        let adv := if 16 * (t + 1) % g = 0 then 256 else 0
        let first := 16 * t % g == 0 || t == f.mrp0.toNat
        match millSrc s c f f.ss.val 2 256 adv first with
        | .error e => .error e
        | .ok ss =>
          match millSrc s c f f.zs.val 9 256 adv first with
          | .error e => .error e
          | .ok zs => .ok [a, b, ss, zs]

/-- The bank after a step: `vals` the elements of A, B and, with a prologue, scales and zero points; `scs` the block scales. -/
def stepBank (f : MForm) (old : List (Nat × BitVec 32)) (vals scs : List (List Nat)) : List (Nat × BitVec 32) :=
  match millPair f.afmt.val f.bfmt.val f.pro with
  | none => old
  | some (K, int) =>
    let av := (vals.getD 0 []).toArray
    let bv := (vals.getD 1 []).toArray
    if int then
      bankOf fun e => cellHs8 (bankAt old e) ((List.range K).map fun k =>
        (sintOf 8 (av.getD (e / 256 * K + k) 0), sintOf 8 (bv.getD (e % 256 * K + k) 0)))
    else
      let scaleAt := fun (i q : Nat) => (scs.getD i []).toArray[q]?
      let an := fun q => scaledVal (fmtAt f.afmt.val) (av.getD q 0) (scaleAt 0 q)
      let bn := fun q =>
        if f.pro then valueOf .bf16 (proWeight (bv.getD q 0) ((vals.getD 2 []).getD (q / K) 0) ((vals.getD 3 []).getD (q / K) 0))
        else scaledVal (fmtAt f.bfmt.val) (bv.getD q 0) (scaleAt 1 q)
      bankOf fun e => cellSum (bankAt old e) ((List.range K).map fun k => numMul (an (e / 256 * K + k)) (bn (e % 256 * K + k)))

/-- An epilogue with stochastic rounding counts (03 R78). -/
def epiSr (f : MForm) : Bool := f.epi && f.erm.val == 5

/-- The rounding counter that an instruction reads at issue: those in flight have each taken one (03 R78, 04 R115). -/
def issueCtr (c : Ctx) : Word := c.csr.srcm + w64 ((c.mill.flight.filter fun x => epiSr x.f).length)

/-- An instruction in flight. -/
def millFly (c : Ctx) (op : Nat) (f : MForm) (inj : Bool) (step : Nat) (stage : MillStage) (out : Option Walk1) (data : List (BitVec 32)) :
    MillFly :=
  { op := op, f := f, inj := inj, step := step, stage := stage
    out := match out with
      | none => []
      | some k => posSectors (k.els.map Prod.snd)
    img := match out with
      | none => 0
      | some k => k.img
    key := c.csr.srkey, ctr := issueCtr c, data := data, own := op == 1 }

/-- The output walk of an MSTEP that has an epilogue, with its faults (R193). -/
def stepOut (s : State) (c : Ctx) (f : MForm) : Except (Nat × Word) (Option Walk1) :=
  if f.epi then (millOut s c f.os.val f.ofmt.val 32768).map some else .ok none

/-- MSTEP's start (R193, R200).  An injected instruction does not leave its MINJ. -/
def mstepStart (f : MForm) (inj : Bool) (s : State) : Res :=
  let w := me s
  let c := getCtx s w
  match (millFmtBad c f.as.val f.afmt.val).orElse fun _ => (millFmtBad c f.bs.val f.bfmt.val).orElse fun _ =>
      (if f.pro then (millFmtBad c f.ss.val 2).orElse fun _ => millFmtBad c f.zs.val 9 else none).orElse fun _ =>
      if f.epi then millFmtBad c f.os.val f.ofmt.val else none with
  | some (cause, v) => .trap cause v
  | none =>
    match stepOut s c f with
    | .error (cause, v) => .trap cause v
    | .ok out =>
      let fresh := c.mill.flight.all fun x => !x.own
      if fresh && c.errs.contains .mrp then lostTrap s
      else millRange (getCore s w) c [] ((out.map fun k => posSectors (k.els.map Prod.snd)).getD [])
        (let here := if fresh then c.mill.mrp.toNat else 0
         let start := if here ≠ 0 then here else f.mrp0.toNat
         let n := f.steps.toNat
         let stage : MillStage := if start ≥ n then .drain else .steps
         let c := if here = 0 && f.mode.val = 1 then fillBank c f.bank [] else c
         let c := { c with mill := { c.mill with
           flight := (c.mill.flight.map fun x => { x with own := false }) ++ [millFly c 1 f inj start stage out []]
           mrp := BitVec.ofNat 16 (min start n), back := none }, errs := mend c .mrp }
         let s := setCtx s w c
         .stay (if start ≥ n && !inj then millPassStep s w else clearWait s w .mill (waitSetBy s w .mill)))

def mstepDur (f : MForm) : Nat := 32 * (f.steps.toNat - f.mrp0.toNat) + 384 + (if f.epi then epiCycles f.ofmt.val else 0)

/-- The formats of an MSTEP's word (R200). -/
def mstepFmts (f : MForm) : Bool := (millPair f.afmt.val f.bfmt.val f.pro).isSome && (!f.epi || millOutFmt f.ofmt.val)

def mstepBody (f : MForm) (inj : Bool) (word : Word) (s : State) : Res :=
  let c := getCtx s (me s)
  millArray s f word (mstepFmts f) (!(bankBusy c f.bank) && !(c.mill.flight.any fun x => x.stage == .steps)) (mstepDur f) 32
    (mstepStart f inj)

def mclrBody (f : MForm) (word : Word) (s : State) : Res :=
  millArray s f word true (!(bankBusy (getCtx s (me s)) f.bank)) 32 0 fun s => .ok (modCtx s (me s) fun c => fillBank c f.bank []) .seq

def mswapBody (f : MForm) (word : Word) (s : State) : Res :=
  let c := getCtx s (me s)
  millArray s f word true (!(bankBusy c false) && !(bankBusy c true)) 1 0 fun s =>
    .ok (modCtx s (me s) fun c => { c with mill := { c.mill with acc0 := c.mill.acc1, acc1 := c.mill.acc0 }, errs := c.errs.map swapLoc }) .seq

/-- The formats of MLDA and MSTA. -/
def rawFmt (k : Nat) : Bool := k == 0 || k == 0xB

/-- Wait until tiles are as they must be, test the ranges, and go on. -/
def millWaits (s : State) (fulls empties rds wrs : List Nat) (k : State → Res) : Res :=
  let w := me s
  let y := getCore s w
  sensed s (fulls ++ empties ++ sectorTiles (rds ++ wrs)) (match tagUnmet y fulls empties with
    | some (j, b) => tagWait y j (if b then 1 else 0)
    | none => millRange y (getCtx s w) rds wrs (k (tagsObserved s w 2 fulls empties)))

/-- The poison test stops the stream, or the instruction goes on. -/
def millMeets (s : State) (ks : List MSrc) (k : Res) : Res :=
  let w := me s
  match srcsMeet (getCore s w) ks with
  | .fault cause off j => .found (if cause = 0x10 then spDetect s w j else s) cause (w64 off)
  | .fine => k

/-- A watchpoint match is reported at the next instruction boundary (05 R151). -/
def millWatch (s : State) (w : Who) (hit : Option Nat) : State :=
  match hit with
  | none => s
  | some a => modMill s w fun m => { m with pend := some (m.pend.getD (0x14, w64 a)) }

def mldaBody (f : MForm) (word : Word) (s : State) : Res :=
  millArray s f word (rawFmt f.afmt.val) (!(bankBusy (getCtx s (me s)) f.bank)) 256 0 fun s =>
    let w := me s
    let c := getCtx s w
    match millSrc s c f f.as.val f.afmt.val 32768 32768 true with
    | .error (cause, v) => .trap cause v
    | .ok k =>
      millWaits s (srcFulls [k]) [] (posSectors (srcPos k)) [] fun s =>
        if !(srcsTurn s w [k]) then .hold else millMeets s [k]
          (let vals := (srcVals (getCore s w) k).toArray
           let s := modCtx (srcsTaken s w [k]) w fun c => fillBank c f.bank (bankOf fun e => vals.getD e 0)
           .ok (millWatch s w (srcsWatch c [k])) .seq)

/-- An output instruction starts: it stays in flight until it has written. -/
def outStart (op : Nat) (f : MForm) (inj : Bool) (k : Walk1) (data : List (BitVec 32)) (s : State) : Res :=
  let w := me s
  let s := modCtx s w fun c => { c with mill := { c.mill with flight := c.mill.flight ++ [millFly c op f inj 0 .drain (some k) data] } }
  .stay (if inj then clearWait s w .mill (waitSetBy s w .mill) else millPass s w .seq)

/-- MSTA and MEPI: wait for empty tiles once, then start (R195). -/
def mstoreBody (op : Nat) (f : MForm) (inj : Bool) (word : Word) (fmtOk : Bool) (dur : Nat) (s : State) : Res :=
  let c := getCtx s (me s)
  millArray s f word fmtOk (!(bankBusy c f.bank) && pathFree (getCore s (me s))) dur 0 fun s =>
    match millOut s c f.os.val f.ofmt.val 32768 with
    | .error (cause, v) => .trap cause v
    | .ok k =>
      if op = 4 && bankLost c f.bank then .trap (lostBank s).1 (lostBank s).2
      else millWaits s [] (if sdProd k.img then walkEnters k else []) [] (posSectors (k.els.map Prod.snd)) (outStart op f inj k [])

def mstaBody (f : MForm) (inj : Bool) (word : Word) (s : State) : Res := mstoreBody 4 f inj word (rawFmt f.ofmt.val) 256 s

def mepiBody (f : MForm) (inj : Bool) (word : Word) (s : State) : Res :=
  mstoreBody 7 f inj word (rawFmt f.afmt.val && millOutFmt f.ofmt.val) (64 + epiCycles f.ofmt.val) s

/-- The weights of an MPRO: pass by pass, column by column, along K (R188, R203). -/
def proData (f : MForm) (codes sv zv : List Nat) : List (BitVec 32) :=
  let g := if f.grp then 128 else 32
  let ca := codes.toArray
  let sa := sv.toArray
  let za := zv.toArray
  (List.range (f.steps.toNat * 4096)).map fun q =>
    let p := 256 * (16 * (q / 4096) / g) + q % 4096 / 16
    BitVec.ofNat 32 (proWeight (ca.getD q 0) (sa.getD p 0) (za.getD p 0))

def mproBody (f : MForm) (inj : Bool) (word : Word) (s : State) : Res :=
  let n := f.steps.toNat
  let g := if f.grp then 128 else 32
  millArray s f word (f.bfmt.val == 6 && f.ofmt.val == 2) (getCtx s (me s)).mill.flight.isEmpty (32 * n + 64) 0 fun s =>
    let w := me s
    let c := getCtx s w
    match millFmtBad c f.bs.val 6 |>.orElse fun _ => (millFmtBad c f.ss.val 2).orElse fun _ => (millFmtBad c f.zs.val 9).orElse fun _ =>
        millFmtBad c f.os.val 2 with
    | some (cause, v) => .trap cause v
    | none =>
      match millSrc s c f f.bs.val 6 (n * 4096) (n * 4096) true, millSrc s c f f.ss.val 2 (256 * ((16 * n + g - 1) / g)) (256 * (16 * n / g)) true,
          millSrc s c f f.zs.val 9 (256 * ((16 * n + g - 1) / g)) (256 * (16 * n / g)) true, millOut s c f.os.val 2 (n * 4096) with
      | .error (cause, v), _, _, _ => .trap cause v
      | _, .error (cause, v), _, _ => .trap cause v
      | _, _, .error (cause, v), _ => .trap cause v
      | _, _, _, .error (cause, v) => .trap cause v
      | .ok b, .ok ss, .ok zs, .ok k =>
        let ks := [b, ss, zs]
        millWaits s (srcFulls ks) (if sdProd k.img then walkEnters k else []) (posSectors (ks.flatMap srcPos))
            (posSectors (k.els.map Prod.snd)) fun s =>
          if !(srcsTurn s w ks) then .hold else millMeets s ks
            (let y := getCore s w
             let data := proData f (srcVals y b) (srcVals y ss) (srcVals y zs)
             outStart 6 f inj k data (millWatch (srcsTaken s w ks) w (srcsWatch c ks)))

/-! ### The array instructions -/

/-- An array instruction: earlier uses end, then its body (12 R294). -/
def runArray (s : State) (f : MForm) (body : State → Res) : Host.Outcome State Fault Refusal :=
  runMill (millEnds s (me s) f.use.val) body

def execMstep (f : MForm) (s : State) : Host.Outcome State Fault Refusal := runArray s f (mstepBody f false (parcel0 (.mstep f)))

def execMclr (f : MForm) (s : State) : Host.Outcome State Fault Refusal := runArray s f (mclrBody f (parcel0 (.mclr f)))

def execMswap (f : MForm) (s : State) : Host.Outcome State Fault Refusal := runArray s f (mswapBody f (parcel0 (.mswap f)))

def execMlda (f : MForm) (s : State) : Host.Outcome State Fault Refusal := runArray s f (mldaBody f (parcel0 (.mlda f)))

def execMsta (f : MForm) (s : State) : Host.Outcome State Fault Refusal := runArray s f (mstaBody f false (parcel0 (.msta f)))

def execMpro (f : MForm) (s : State) : Host.Outcome State Fault Refusal := runArray s f (mproBody f false (parcel0 (.mpro f)))

def execMepi (f : MForm) (s : State) : Host.Outcome State Fault Refusal := runArray s f (mepiBody f false (parcel0 (.mepi f)))

/-! ### MINJ (R198, R205) -/

/-- The body of an injected word, if it is one that MINJ accepts. -/
def injBody (v : BitVec 192) : Option (MForm × (State → Res)) :=
  let word := w64 (v.toNat % 2 ^ 32)
  match decodeMill v.toNat with
  | .ok (.mstep f) => if f.inj then some (f, mstepBody f true word) else none
  | .ok (.mclr f) => if f.inj then some (f, mclrBody f word) else none
  | .ok (.mswap f) => if f.inj then some (f, mswapBody f word) else none
  | .ok (.mlda f) => if f.inj then some (f, mldaBody f word) else none
  | .ok (.msta f) => if f.inj then some (f, mstaBody f true word) else none
  | .ok (.mpro f) => if f.inj then some (f, mproBody f true word) else none
  | .ok (.mepi f) => if f.inj then some (f, mepiBody f true word) else none
  | _ => none

/-- The injected word in hand goes (R205: at retirement; R198: when it is not accepted). -/
def injDone (m : MillSt) : MillSt := { m with injv := false, injw := 0 }

/-- A word that MINJ accepts (R198): inj is 1, and its opcode is an array instruction's.  Another field may yet be at fault. -/
def injTaken (v : BitVec 192) : Bool := v.getLsbD 70 && 1 ≤ fld v.toNat 0 8 && fld v.toNat 0 8 ≤ 7

/-- Execute the injected word in hand.  One that is not accepted is removed (R198); one that traps stays (R205). -/
def injRun (s : State) : State :=
  let w := me s
  let v := (getCtx s w).mill.injw
  match injBody v with
  | none => stopStream (if injTaken v then s else modMill s w injDone) w .mill 0x01 (w64 (v.toNat % 2 ^ 32))
  | some (f, body) =>
    let s := millEnds s w f.use.val
    match body s with
    | .ok s' n => finishMill s w (.ok (modMill s' w injDone) n)
    | r => finishMill s w r

/-- MINJ (R205): the head of the injection queue is taken in hand and executed. -/
def execMinj (s : State) : Host.Outcome State Fault Refusal :=
  let w := me s
  let m := (getCtx s w).mill
  if m.injv then .next (injRun s)
  else
    match m.injq with
    | [] => .next (finishMill s w (.wait 3 0 (w64 (2 ^ 63))))
    | e :: t =>
      let s := modCtx s w fun c =>
        if c.mill.stat.st = .wait then setStat c .mill { c.mill.stat with obj := e.tile } else c
      let s := clearWait s w .mill (if e.src then 4 else 3)
      .next (injRun (modMill s w fun m => { m with injq := t, injv := true, injw := e.word }))

/-! ### MRPG and stream control (R206, R207) -/

def getMg (c : Ctx) (k : Nat) : Word := spGet 0 c.mill.mg k

def setMg (s : State) (k : Nat) (v : Word) : State :=
  modCtx s (me s) fun c => { c with mill := { c.mill with mg := spSet 0 c.mill.mg k v }, errs := mend c (.mg k) }

/-- sext(imm1, 32). -/
def mImm (f : MForm) : Word := f.imm1.signExtend 64

/-- MRPG waits until every earlier instruction has retired (R191); `l` is what it reads. -/
def mrpgBody (l : List Loc) (fn : Ctx → Res) (s : State) : Res :=
  let c := getCtx s (me s)
  if c.mill.flight.isEmpty then readsLocs s l (fn c) else .hold

def execMrpgR (f : MForm) (s : State) : Host.Outcome State Fault Refusal :=
  runMill s fun s => mrpgBody [.mrp] (fun c => .ok (setMg s f.as.val (c.mill.mrp.setWidth 64)) .seq) s

def execMrpgW (f : MForm) (s : State) : Host.Outcome State Fault Refusal :=
  runMill s fun s => mrpgBody [.mg f.bs.val] (fun c =>
    if (getMg c f.bs.val).toNat > 65535 then .trap 0x01 (parcel0 (.mrpgW f))
    else .ok (modCtx s (me s) fun x =>
      { x with mill := { x.mill with mrp := (getMg c f.bs.val).setWidth 16 }, errs := mend x .mrp }) .seq) s

def execMrpgI (f : MForm) (s : State) : Host.Outcome State Fault Refusal :=
  runMill s fun s => mrpgBody [] (fun _ => .ok (setMg s f.as.val (mImm f)) .seq) s

def execMrpgA (f : MForm) (s : State) : Host.Outcome State Fault Refusal :=
  runMill s fun s => mrpgBody [.mg f.bs.val] (fun c => .ok (setMg s f.as.val (getMg c f.bs.val + mImm f)) .seq) s

def execMloop (f : MForm) (s : State) : Host.Outcome State Fault Refusal :=
  runMill s fun s =>
    let c := getCtx s (me s)
    let n := getMg c f.as.val
    let pc := c.mill.pc
    readsLocs s [.mg f.as.val] <|
    if n = 0 then .ok s (.skip (pc + mImm f * 24 + 24))
    else if c.mill.loops.length ≥ 4 then .trap 0x01 (parcel0 (.mloop f))
    else .ok (setCtx s (me s) (setLoops c .mill ({ start := pc + 24, last := pc + mImm f * 24, count := n } :: c.mill.loops))) .seq

/-- A transfer to pc + sext(imm1, 32) × 24. -/
def mjump (s : State) (f : MForm) : Res :=
  let t := (getCtx s (me s)).mill.pc + mImm f * 24
  if canonical t then .ok s (.jump t) else .trap 0x04 t

def mbrBody (k : Cond) (f : MForm) (s : State) : Res :=
  let c := getCtx s (me s)
  readsLocs s [.mg f.as.val, .mg f.bs.val] (if condHolds k (getMg c f.as.val) (getMg c f.bs.val) then mjump s f else .ok s .seq)

def execMbrEq (f : MForm) (s : State) : Host.Outcome State Fault Refusal := runMill s (mbrBody .eq f)

def execMbrNe (f : MForm) (s : State) : Host.Outcome State Fault Refusal := runMill s (mbrBody .ne f)

def execMbrLt (f : MForm) (s : State) : Host.Outcome State Fault Refusal := runMill s (mbrBody .lt f)

def execMbrGe (f : MForm) (s : State) : Host.Outcome State Fault Refusal := runMill s (mbrBody .ge f)

def execMbrLtu (f : MForm) (s : State) : Host.Outcome State Fault Refusal := runMill s (mbrBody .ltu f)

def execMbrGeu (f : MForm) (s : State) : Host.Outcome State Fault Refusal := runMill s (mbrBody .geu f)

def execMj (f : MForm) (s : State) : Host.Outcome State Fault Refusal := runMill s fun s => mjump s f

/-- MRDV and MEXIT wait until every earlier instruction has retired; then the last use ends (R191, 12 R294). -/
def runLast (s : State) (r : State → Res) : Host.Outcome State Fault Refusal :=
  let w := me s
  if (getCtx s w).mill.flight.isEmpty then
    let s := millEnds s w 8
    .next (finishMill s w (r s))
  else .next s

/-- MRDV (01 R24). -/
def execMrdv (s : State) : Host.Outcome State Fault Refusal := runLast s fun _ => .wait 7 0 0

/-- MEXIT (01 R26). -/
def execMexit (s : State) : Host.Outcome State Fault Refusal := runLast s fun s => .exit s

/-! ### Steps, epilogues and retirement as they come about -/

/-- The MSTEP that performs steps. -/
def stepEntry (c : Ctx) : Option MillFly := c.mill.flight.find? fun x => x.stage == .steps

/-- Replace the MSTEP that performs steps; none takes it out of flight. -/
def putStep (s : State) (w : Who) (x : Option MillFly) : State :=
  modMill s w fun m => { m with flight := m.flight.filterMap fun y => if y.stage == .steps then x else some y }

/-- A fault at a step boundary (01 R33): the steps before it stand, `mrp` names the step. -/
def stepStop (s : State) (w : Who) (t cause : Nat) (val : Word) : State :=
  stopStream (modMill (putStep s w none) w fun m => { m with mrp := BitVec.ofNat 16 t, susp := false }) w .mill cause val

/-- A suspension that waited for the step boundary comes about (01 R23, R194). -/
def stepSusp (c : Ctx) : Ctx :=
  if c.mill.susp then
    raiseEv { c with mill := { c.mill with susp := false, stat := { c.mill.stat with st := if c.mill.stat.st = .run then .susp else c.mill.stat.st } } } 5
  else c

/-- Step `t` is complete (R188, R193): on to the next, or the drain. -/
def stepDone (s : State) (w : Who) (x : MillFly) (hit : Option Nat) : State :=
  let t := x.step + 1
  let s := modMill s w fun m => { m with mrp := BitVec.ofNat 16 t }
  let s := modDie (clearWait s w .mill (waitSetBy s w .mill)) w.die fun d => countDie d (some (w.core, w.ctx)) 0x02 1
  if t < x.f.steps.toNat then
    match hit with
    | none => modCtx (putStep s w (some { x with step := t, rd := [] })) w stepSusp
    | some a => stepStop s w t 0x14 (w64 a)
  else
    let s := millWatch (putStep s w (some { x with step := t, stage := .drain, rd := [] })) w hit
    let s := if x.inj then s else millPassStep s w
    if (getCtx s w).halted then modCtx s w rewindMill else s

/-- One tile step (R188 to R190, R195; 03 R84 to R87).  With `begins` it only comes as far as being in flight, if it is not already. -/
def millStep (s : State) (w : Who) (x : MillFly) (begins : Bool) : State :=
  let s := if (getCtx s w).mill.left then modMill s w fun m => { m with left := false } else s
  let c := getCtx s w
  match stepSrcs s c x.f x.step with
  | .error (cause, v) => stepStop s w x.step cause v
  | .ok ks =>
    let fulls := srcFulls ks
    let y := getCore s w
    let js := fulls ++ sectorTiles (posSectors (ks.flatMap srcPos))
    if tagLost y js then tagSenseAll s w js
    else match (if x.rd = [] then tagUnmet y fulls [] else none) with
    | some (j, _) => enterWait s w .mill 3 (w64 (tagGtag y j)) (w64 (j * 4096))
    | none =>
      match (if x.rd = [] then millRange y c (posSectors (ks.flatMap srcPos)) [] (.ok s .seq) else .ok s .seq) with
      | .trap cause v => stepStop s w x.step cause v
      | .hold => s
      | _ =>
        if begins && x.rd = [] then
          putStep (clearWait s w .mill (waitSetBy s w .mill)) w (some { x with rd := posSectors (ks.flatMap srcPos) })
        else if !(srcsTurn s w ks) then s
        else if bankLost c x.f.bank then stepStop s w x.step (lostBank s).1 (lostBank s).2
        else match srcsMeet y ks with
        | .fault cause off j => stepStop (if cause = 0x10 then spDetect s w j else s) w x.step cause (w64 off)
        | .fine =>
          let bank := stepBank x.f (getBank c x.f.bank) (ks.map (srcVals y)) (ks.map (srcScales y))
          let s := tagsObserved s w 2 fulls []
          let s := modCtx (srcsTaken s w ks) w fun c => setBank c x.f.bank bank
          stepDone s w x (srcsWatch c ks)

/-- A context whose array instructions in flight go on: while it is saved, and once it is halted, what its stream has passed still
completes (R194; 01 R42). -/
def millRuns (s : State) (w : Who) : Bool :=
  let c := getCtx s w
  whoOk s w && c.job.isSome && c.restoring.isNone && clockRuns (getDie s w.die).power

/-- TILE_STEP (R193): the MSTEP of context `ev.w` performs its next step, while its gate is open (01 R21); with `ev.b` the step only begins.
One that has begun is finished whatever else holds the stream (R194; 01 R42). -/
def execTileStep (s : State) : Host.Outcome State Fault Refusal :=
  let w := s.ev.w
  let c := getCtx s w
  match stepEntry c with
  | none => .next s
  | some x =>
    if x.rd ≠ [] then
      if whoOk s w && c.job.isSome && clockRuns (getDie s w.die).power then .next (unlessHeld s (millStep s w x false) w 2) else .next s
    else if !(whoOk s w && ctxMoves s w && streamMoves c .mill) then .next s
    else
      match gateFor s w x.f.use.val 0 (millInst w) true with
      | .opened => .next (unlessHeld s (millStep s w x s.ev.b) w 2)
      | .unbooked => if unbookedRoom s w 32 then .next (unlessHeld s (millStep s w x s.ev.b) w 2) else .next s
      | _ => .next s

/-- The values that an instruction in flight writes (R197, R202, R203). -/
def flyVals (c : Ctx) (x : MillFly) : List Nat :=
  let bank := getBank c x.f.bank
  let int := if x.op = 1 then x.f.afmt.val == 7 else x.f.afmt.val == 0xB
  match x.op with
  | 4 => (List.range 32768).map (bankAt bank)
  | 6 => x.data.map fun v => v.toNat
  | _ => (List.range 32768).map fun e => epiElem x.f int x.key x.ctr e (bankAt bank e)

/-- An instruction in flight has something to write. -/
def flyWrites (x : MillFly) : Bool := x.op != 1 || x.f.epi

/-- The walk of an instruction's output. -/
def flyWalk (c : Ctx) (x : MillFly) : Walk1 :=
  let code := if x.op = 6 then 2 else x.f.ofmt.val
  let wb := fmtBits (fmtAt code)
  { ix := x.f.os.val, img := x.img, wb := wb
    els := match sdTake c x.img wb (if x.op = 6 then x.f.steps.toNat * 4096 else 32768) with
      | .ok l => l
      | .error _ => [] }

/-- MILL_EPILOGUE (R191, R195): the epilogue of instruction `ev.k` of the flight of `ev.w` begins, an MSTEP's once the path is free and its
output tiles are empty. -/
def execMillEpilogue (s : State) : Host.Outcome State Fault Refusal :=
  let w := s.ev.w
  let c := getCtx s w
  match c.mill.flight[s.ev.k]? with
  | none => .next s
  | some x =>
    if !(millRuns s w && x.stage == .drain && flyWrites x) then .next s
    else
      let k := flyWalk c x
      let empties := if x.op = 1 && sdProd k.img then walkEnters k else []
      let js := sectorTiles (posSectors (k.els.map Prod.snd))
      if tagLost (getCore s w) js then .next (tagSenseAll s w js)
      else if x.op = 1 && (!(pathFree (getCore s w)) || (tagUnmet (getCore s w) [] empties).isSome) then .next s
      else
        let s' := modMill (tagsObserved s w 2 [] empties) w fun m => { m with flight := m.flight.set s.ev.k { x with stage := .writing } }
        .next (unlessHeld s s' w 2)

/-- The output sectors that an element of the bank in error reaches are written poisoned, and the error is reported (R193). -/
def flyPoison (s : State) (w : Who) (x : MillFly) (k : Walk1) : State :=
  let c := getCtx s w
  if x.op = 6 || !(bankLost c x.f.bank) then s
  else
    let bad := ((k.els.map Prod.snd).zipIdx.filter fun e => c.errs.contains (.acc x.f.bank e.2)).map Prod.fst
    let s := modCore s w fun y => (posSectors bad).foldl spPoison y
    modMill s w fun m => { m with pend := some (m.pend.getD (lostBank s)) }

/-- The writes of an instruction, performed at its retirement (R196, R197; 05 R140): its results, its tiles left. -/
def flyWrite (s : State) (w : Who) (x : MillFly) : State :=
  let c := getCtx s w
  let k := flyWalk c x
  let s := modCore s w fun y => elemWrite y k.wb ((k.els.map Prod.snd).zip (flyVals c x))
  let s := leaveWrite (modCtx (flyPoison s w x k) w fun c => walkAdvance c k false) w k 2
  let s := if epiSr x.f then modCtx s w fun c => { c with csr := { c.csr with srcm := c.csr.srcm + 1 } } else s
  millWatch s w (watchPos c (k.els.map Prod.snd) k.wb .write)

/-- MILL_RETIRE (R191, R193, R196): instruction `ev.k` of the flight of `ev.w` performs its writes and retires. -/
def execMillRetire (s : State) : Host.Outcome State Fault Refusal :=
  let w := s.ev.w
  let c := getCtx s w
  match c.mill.flight[s.ev.k]? with
  | none => .next s
  | some x =>
    if !(millRuns s w && (x.stage == .writing || (x.stage == .drain && !(flyWrites x)))) || !(leavesTurn s w [] [flyWalk c x] 2) then .next s
    else
      let s' := if flyWrites x then flyWrite s w x else s
      let s' := modMill s' w fun m => { m with
        flight := m.flight.eraseIdx s.ev.k, mrp := if x.own then 0 else m.mrp
        back := if s.ev.k + 1 = m.flight.length then none else m.back }
      let s' := closedEnds s' w
      .next (unlessHeld s (millRetired (if x.inj then millPass (modMill s' w injDone) w .seq else s') w) w 2)

end Sys2Proof.Machine
end

