-- ==== Sys2Proof/Machine/Reeve.lean ====
section
/-!
DEFINITION. The Reeve: calendars, dependences, placement, commit, moves, the end of uses and bookings (12 R272 to R300).
-/
namespace Sys2Proof.Machine
open Sys2Proof

/-! ### Calendars (12 R272 to R276) -/

def modReeve (s : State) (d : Nat) (f : ReeveSt → ReeveSt) : State := modDie s d fun x => { x with reeve := f x.reeve }

def modBk (s : State) (d i : Nat) (f : Booking → Booking) : State := modDie s d fun x => setBk x i (f (getBk x i))

def setUses (b : Booking) (f : Nat → Use → Use) : Booking := { b with uses := b.uses.mapIdx f }

def setUse (b : Booking) (u : Nat) (f : Use → Use) : Booking := setUses b fun k x => if k = u then f x else x

/-- Instances of a class. -/
def classInsts (cls : Nat) : Nat := if cls = 0 then 32 else if cls = 1 then 64 else if cls = 2 then 8 else 6

/-- Bookable units of a capacity instance of a die. -/
def bookable (self cls inst : Nat) : Nat := if cls = 2 then 44 else if onPackage self inst then 74 else 14

/-- The capacity calendar of an instance. -/
def capCal (cls inst : Nat) (dirin : Bool) : Nat := if cls = 2 then inst else 8 + 2 * inst + dirin.toNat

def exPut (d : Die) (cal t : Nat) (v : BitVec 25) : Die :=
  { d with reeve := { d.reeve with excl := spSet 0 d.reeve.excl (cal * 4096 + t % 4096) v } }

def capAt (d : Die) (cal t : Nat) : Nat := (spGet 0 d.reeve.cap (cal * 4096 + t % 4096)).toNat

def capComm (e : Nat) : Nat := e % 128

def capTent (e : Nat) : Nat := e / 128 % 128

def capPut (d : Die) (cal t comm tent : Nat) : Die :=
  { d with reeve := { d.reeve with cap := spSet 0 d.reeve.cap (cal * 4096 + t % 4096) (BitVec.ofNat 16 (comm % 128 + tent % 128 * 128)) } }

/-- Add `n` units, committed or tentative, or take them away. -/
def capAdd (d : Die) (cal t n : Nat) (tent add : Bool) : Die :=
  let e := capAt d cal t
  let f := fun v : Nat => if add then v + n else v - n
  if tent then capPut d cal t (capComm e) (f (capTent e)) else capPut d cal t (f (capComm e)) (capTent e)

/-- The slots of the present calendar. -/
def onCal (now t : Nat) : Bool := now ≤ t && t < now + 4096

/-! ### Who holds a tentative slot (12 R290) -/

/-- A local booking, or another die's, older than `stamp`, or one whose marks stand as committed, is not displaced. -/
def rbYields (r : RBook) (stamp : Word) : Bool := !r.comm && !r.held && stamp.toNat < r.stamp.toNat

def bkYields (b : Booking) (stamp : Word) : Bool := b.st == .preparing && stamp.toNat < b.stamp.toNat

/-- A tentative entry under a younger booking's stamp. -/
def tentYounger (d : Die) (stamp : Word) (cal t : Nat) : Bool :=
  (d.reeve.bks.any fun (_, b) => bkYields b stamp &&
    b.uses.any fun u => u.cls < 2 && calOf u.cls u.pinst == cal && u.slots.contains t) ||
  d.reeve.others.any fun r => rbYields r stamp && r.marks.any fun m => m.ex && m.cal == cal && m.slots.contains t

/-- Units held tentatively under younger stamps. -/
def unitsYounger (self : Nat) (d : Die) (stamp : Word) (cal t : Nat) : Nat :=
  ((d.reeve.bks.filter fun (_, b) => bkYields b stamp).map fun (_, b) =>
      ((b.uses.filter fun u => u.cls ≥ 2 && !(u.rmt && u.rdie != self) && capCal u.cls u.pinst u.dirin == cal && u.slots.contains t).map
        fun u => u.dem).sum).sum +
    ((d.reeve.others.filter fun r => rbYields r stamp).map fun r =>
      ((r.marks.filter fun m => !m.ex && m.cal == cal && m.slots.contains t).map fun m => m.units).sum).sum

/-- A slot of an exclusive calendar is free to a stamp (R285), and before a change window (16 R412); `wound` counts younger tentative
marks as free. -/
def exFree (d : Die) (stamp : Word) (wound : Bool) (cal t : Nat) : Bool :=
  let e := exEntry d cal t
  (d.power.window = 0 || t < d.power.window) && (exSt e == 0 || (wound && exSt e == 1 && tentYounger d stamp cal t))

/-- A capacity slot has `b` unheld units. -/
def capFree (d : Die) (self : Nat) (stamp : Word) (wound : Bool) (cls inst : Nat) (dirin : Bool) (b t : Nat) : Bool :=
  let cal := capCal cls inst dirin
  let e := capAt d cal t
  let y := if wound then unitsYounger self d stamp cal t else 0
  b + capComm e + capTent e ≤ bookable self cls inst + y

/-! ### Uses -/

/-- The attached uses of exclusive use `u`, with their index, that have not ended. -/
def attsOf (b : Booking) (u : Nat) : List (Nat × Use) :=
  (b.uses.zipIdx.map fun (x, k) => (k, x)).filter fun (_, x) => x.cls ≥ 2 && x.att == u && !x.ended

/-- The end slot of a use: the slot after its last (R283). -/
def useEnd (u : Use) : Nat :=
  if u.ended then u.endS + 1
  else match u.slots.getLast? with
    | some t => t + 1
    | none => 0

/-- The first use that is placed. -/
def firstPlaced (b : Booking) : Option Use := b.uses.find? fun u => u.slots ≠ []

/-! ### Dependences (12 R283, R284) -/

def runsMeet (a b : List (Nat × Nat)) : Bool := a.any fun (x, n) => b.any fun (y, m) => x / 128 * 128 < y + m && y / 128 * 128 < x + n

/-- Regions of the use and its attached uses. -/
def useRegm (b : Booking) (u : Nat) : Nat := (attsOf b u).foldl (fun m x => m ||| x.2.regm) (nthUse b u).regm

/-- The exclusive use that a use goes with: itself, or the anchor of an attached use that has not ended on its own. -/
def anchorOf (k : Nat) (u : Use) : Nat := if u.cls < 2 || u.ended then k else u.att

/-- Whether a use ends no earlier than another: one that is unbooked has no booked end and ends last (R296). -/
def endsLater (a b : Use) : Bool := if !a.ended && a.unb then true else if !b.ended && b.unb then false else useEnd b ≤ useEnd a

/-- The use of booking `p` that touches region `r` and ends last. -/
def lastTouch (p : Booking) (r : Nat) : Nat :=
  (((p.uses.zipIdx.filter fun (u, _) => u.regm.testBit r).map fun (u, k) => anchorOf k u).foldl (fun a k =>
    if a.all fun j => endsLater (nthUse p k) (nthUse p j) then some k else a) (none : Option Nat)).getD 0

/-- Where a use of a live booking ends, 0 once it is not live. -/
def edgeEnd (s : State) (e : Edge) : Nat :=
  match liveIdx (getDie s e.pdie) e.pred with
  | none => 0
  | some j => useEnd (nthUse (getBk (getDie s e.pdie) j) e.puse)

/-- Edges onto use `u` of booking `h` of die `hd` over some runs of die `self`; `wr`: the region is written. -/
def runEdges (s : State) (self hd h u : Nat) (runs : List (Nat × Nat)) (wr : Bool) : List Edge :=
  let d := getDie s self
  (d.reeve.bks.flatMap fun (j, p) =>
    if (self = hd ∧ handleOf j p = h) ∨ !(bkHeld p) then []
    else (p.regs.zipIdx.filter fun (q, _) => !q.cap && (q.wr || wr) && runsMeet q.runs runs).map fun (_, k) =>
      { pdie := self, pred := handleOf j p, puse := lastTouch p k, succ := h, use := u : Edge }) ++
  (d.reeve.others.filter fun o => o.comm && !(o.die == hd && o.handle == h)).flatMap fun o =>
    (o.ents.filter fun e => (e.wr || wr) && runsMeet [(e.lo, e.len)] runs).map fun e =>
      { pdie := o.die, pred := o.handle, puse := e.use, succ := h, use := u : Edge }

/-- Edges onto use `u` of booking `i` of die `self` from the regions held there. -/
def depEdges (s : State) (self i : Nat) (b : Booking) (u : Nat) : List Edge :=
  (b.regs.zipIdx.filter fun (r, k) => !r.cap && (useRegm b u).testBit k).flatMap fun (r, _) =>
    runEdges s self self (handleOf i b) u r.runs r.wr

def depBound (s : State) (self i : Nat) (b : Booking) (u : Nat) : Nat := ((depEdges s self i b u).map (edgeEnd s)).foldl max 0

/-! ### Runs (12 R285) -/

/-- `n` bookable slots from `t` up. -/
def bookFrom : Nat → Nat → List Nat
  | 0, _ => []
  | n + 1, t =>
    let k := if openSlot t then t + 1 else t
    k :: bookFrom n (k + 1)

/-- The die on which a use of a booking of die `self` lies (R278). -/
def useDie (self : Nat) (u : Use) : Nat := if u.rmt then u.rdie else self

/-- Instances for the attached uses over a run, the lowest free first; those chosen before, each with its die and calendar, count.  A
placement takes a remote use as free (R289); a move, `fixed`, tests it on its own die (notes/assumptions/58.md). -/
def pickAtts (s : State) (self : Nat) (stamp : Word) (wound fixed : Bool) (run : List Nat) :
    List (Nat × Use) → List (Nat × Nat × Nat) → Option (List (Nat × Nat))
  | [], _ => some []
  | (k, u) :: t, held =>
    let die := useDie self u
    if die != self && !fixed then (pickAtts s self stamp wound fixed run t held).map ((k, u.pinst) :: ·)
    else
      let opts := if fixed then [u.pinst] else if u.bind = 2 then [u.inst] else List.range (classInsts u.cls)
      match opts.find? fun i =>
          let cal := capCal u.cls i u.dirin
          let more := ((held.filter fun x => x.1 == die && x.2.1 == cal).map fun x => x.2.2).sum
          run.all fun t => capFree (getDie s die) die stamp wound u.cls i u.dirin (u.dem + more) t with
      | none => none
      | some i => (pickAtts s self stamp wound fixed run t ((die, capCal u.cls i u.dirin, u.dem) :: held)).map ((k, i) :: ·)

/-- The earliest free run of `dur` slots from `lo` up that ends by `hz`, with the instances of the attached uses. -/
def findRun (s : State) (self : Nat) (stamp : Word) (wound fixed : Bool) (cal dur hz : Nat) (atts : List (Nat × Use)) :
    Nat → Nat → Option (List Nat × List (Nat × Nat))
  | 0, _ => none
  | n + 1, lo =>
    let run := bookFrom dur lo
    if (run.getLast?.getD 0) + 1 > hz then none
    else if openSlot lo || !(run.all (exFree (getDie s self) stamp wound cal)) then findRun s self stamp wound fixed cal dur hz atts n (lo + 1)
    else
      match pickAtts s self stamp wound fixed run atts [] with
      | some p => some (run, p)
      | none => findRun s self stamp wound fixed cal dur hz atts n (lo + 1)

/-! ### Placement (12 R281, R285, R286) -/

/-- The context in which the job of booking `i` is resident. -/
def jobAt (d : Die) (i : Nat) (b : Booking) : Option (Nat × Nat) :=
  let has := fun (c : Ctx) => c.job.any fun j => j.bkd && j.handle == handleOf i b
  if has (coreCtx (dieCore d b.core) 0) then some (b.core, 0)
  else if has (coreCtx (dieCore d b.core) 1) then some (b.core, 1)
  else none

/-- Ways that a job of `tiles` tiles needs (05 R126). -/
def waysFor (tiles : Nat) : Nat := max 1 ((tiles + 191) / 192)

def popcount8 (v : BitVec 8) : Nat := ((List.range 8).filter fun k => v.getLsbD k).length

/-- The ways that the resident contexts of a core hold. -/
def waysHeld (y : Core) : BitVec 8 := (if y.k0.job.isSome then y.k0.ways else 0) ||| if y.k1.job.isSome then y.k1.ways else 0

/-- A core can carry another bound job that needs `need` ways (R281). -/
def coreAllowed (d : Die) (need core : Nat) : Bool :=
  let bound := d.reeve.bks.filter fun (_, b) => b.bound && b.core == core
  let ahead := bound.filter fun (i, b) => (jobAt d i b).isNone && b.st != .free
  bound.length < 2 && need + (ahead.map fun (_, b) => waysFor b.tiles).sum + popcount8 (waysHeld (dieCore d core)) ≤ 8

/-- Instances of a class on a core. -/
def coreInsts (cls core : Nat) : List Nat := if cls = 0 then [core] else [2 * core, 2 * core + 1]

/-- Dies involved beside the issuing one. -/
def diesOf (self : Nat) (b : Booking) : List Nat :=
  if b.isGang then (b.gang.map Prod.fst).eraseDups
  else ((b.uses.filter fun u => u.rmt && u.rdie != self && !u.ended).map (fun u => u.rdie) ++
    (b.regs.filter fun r => r.cap && r.die != self).map fun r => r.die).eraseDups

/-- A task with a use on another die. -/
def remoteUses (self : Nat) (b : Booking) : Bool :=
  if b.isGang then b.gang.any fun p => p.1 != self else b.uses.any fun u => u.cls ≥ 2 && !u.ended && useDie self u != self

/-- Current slot + 2 for a task with only local uses, or + 4 + ceil(h ÷ 2) (R285). -/
def reachBound (s : State) (self : Nat) (b : Booking) : Nat :=
  if remoteUses self b then slotNow s self + 4 + (((diesOf self b).map fun d => hops s self d).foldl max 0 + 1) / 2
  else slotNow s self + 2

/-- A placed use: its index, instance, slots, and its attached uses' instances. -/
structure Placed where
  u : Nat
  inst : Nat
  slots : List Nat
  atts : List (Nat × Nat)
deriving DecidableEq, Repr

/-- What placement answers: a code with the restarts taken, a plan with them and the E it was made from, or a shift of the whole chain. -/
inductive Placing where
  | fail (code restarts : Nat)
  | plan (restarts e : Nat) (l : List Placed)
  | again (e : Nat)
deriving DecidableEq, Repr

/-- Slots from `a` to `b`, open ones not counted. -/
def lagBetween (a b : Nat) : Nat := ((List.range (b - a)).filter fun k => !(openSlot (a + k))).length

/-- Candidate instances of use `u` (R286); a task booked afresh on resume stays on its job's core (R300). -/
def candInsts (d : Die) (b : Booking) (u : Nat) (sofar : List Placed) : List Nat :=
  let x := nthUse b u
  match sofar with
  | [] =>
    let ok := fun (core : Nat) => if b.on.isSome then b.on == some core else coreAllowed d (waysFor b.tiles) core
    if x.bind = 2 then (if ok (instCore x.cls x.inst) then [x.inst] else [])
    else ((List.range 32).filter ok).flatMap (coreInsts x.cls)
  | p :: _ =>
    let core :=
      match (if x.bind = 1 then sofar.find? fun q => q.u == x.j else none) with
      | some q => instCore (nthUse b q.u).cls q.inst
      | none => instCore (nthUse b p.u).cls p.inst
    (coreInsts x.cls core).filter fun i => x.bind ≠ 2 || i == x.inst

/-- The earliest run over some instances, the lowest instance on equal starts. -/
def bestRun (s : State) (self : Nat) (b : Booking) (u lo hz : Nat) (insts : List Nat) : Option Placed :=
  let x := nthUse b u
  insts.foldl (fun m i =>
    match findRun s self b.stamp true false (calOf x.cls i) x.dur hz (attsOf b u) 4200 lo with
    | none => m
    | some (run, atts) =>
      match m with
      | some p => if run.headD 0 < p.slots.headD 0 then some ⟨u, i, run, atts⟩ else m
      | none => some ⟨u, i, run, atts⟩) none

/-- Place the uses `us` in order, the first of them the task's first. -/
def placeChain (s : State) (self i : Nat) (b : Booking) (hz e : Nat) : List Nat → Nat → List Placed → Placing
  | [], _, acc => .plan 0 e acc
  | u :: t, prev, acc =>
    let x := nthUse b u
    let d := getDie s self
    let lo := max prev (depBound s self i b u)
    let insts := candInsts d b u acc
    if acc = [] ∧ insts = [] then .fail 4 0
    else
      match bestRun s self b u lo hz insts with
      | none => .fail (if d.power.window = 0 then 2 else 0x0A) 0
      | some p =>
        let start := p.slots.headD 0
        let fin := (p.slots.getLast?.getD 0) + 1
        let gap := lagBetween prev start
        if b.deadl ≠ 0 ∧ fin > b.deadl then .fail 3 0
        else if acc ≠ [] ∧ x.lag ≠ 255 ∧ gap > x.lag then .again (e + (gap - x.lag))
        else placeChain s self i b hz e t fin (acc ++ [p])

/-- The placement loop: `n` restarts are left. -/
def placeLoop (s : State) (self i : Nat) (b : Booking) (hz : Nat) (us : List Nat) : Nat → Nat → Nat → Placing
  | n, e, done =>
    match placeChain s self i b hz e us e [] with
    | .plan _ e l => .plan done e l
    | .fail c _ => .fail c done
    | .again e' =>
      match n with
      | 0 => .fail 1 done
      | n + 1 => placeLoop s self i b hz us n e' (done + 1)

/-- Exclusive uses that have not ended. -/
def exUses (b : Booking) : List Nat := (b.uses.zipIdx.filter fun (u, _) => exLeft u).map Prod.snd

/-- The record of a booking in the replay log. -/
def replayRec (d : Die) (h : Nat) : Option (BitVec 256) := if d.alm.rply then d.alm.log.find? fun r => recKind r == 6 && recObj r == h else none

/-- The slot that replay gives a booking with status OK: its logged one, offset by the replay's start slot (13 R346). -/
def replaySlot (d : Die) (h : Nat) : Option Nat :=
  (replayRec d h).bind fun r => if recChoice r % 2 ^ 8 = 0 then some (recChoice r / 2 ^ 8 % 2 ^ 32 + d.alm.start) else none

/-- A plan that begins in the slot that replay gives the booking; another is not made. -/
def atReplaySlot (t : Option Nat) (p : Placing) : Placing :=
  match t, p with
  | some n, .plan r e l => if ((l.head?).map fun x => x.slots.headD 0) = some n then .plan r e l else .again e
  | _, p => p

/-- place(T) (R285), from the E that a restart has raised (R289) or a fresh one; a gang is planned at its start slot alone (R292). -/
def placeTask (s : State) (self i : Nat) : Placing :=
  let d := getDie s self
  let b := getBk d i
  let now := slotNow s self
  match exUses b with
  | [] => .plan b.restarts b.planE []
  | u :: _ =>
    let e := max (max b.rel (reachBound s self b)) (max (depBound s self i b u) (max ((replaySlot d (handleOf i b)).getD 0) b.planE))
    let hz := now + 4096
    atReplaySlot (replaySlot d (handleOf i b)) <|
    if b.isGang then
      let run := bookFrom (nthUse b u).dur e
      let fin := (run.getLast?.getD 0) + 1
      if fin > hz then .fail 2 b.restarts
      else if b.deadl ≠ 0 ∧ fin > b.deadl then .fail 3 b.restarts
      else .plan b.restarts (run.headD 0) [⟨u, 0, run, []⟩]
    else placeLoop s self i b hz (exUses b) (16 - b.restarts) e b.restarts

/-! ### Marks of a booking's own uses -/

/-- Enter a run of use `u` with ST `st` and the units of its attached uses of this die, or take it out (`st` 0). -/
def markRun (self i : Nat) (b : Booking) (u : Nat) (slots : List Nat) (st : Nat) (tent : Bool) (d : Die) : Die :=
  let x := nthUse b u
  if b.isGang then d
  else
    let w := if st = 0 then 0 else BitVec.ofNat 25 (handleOf i b * 32 + u * 4 + st)
    let d := slots.foldl (fun d t => exPut d (calOf x.cls x.pinst) t w) d
    (attsOf b u).foldl (fun d (_, a) =>
      if a.rmt && a.rdie != self then d
      else slots.foldl (fun d t => capAdd d (capCal a.cls a.pinst a.dirin) t a.dem tent (st != 0)) d) d

/-- Give or take away, with `add` false, slots of the attached uses that die `d`'s booking `i` holds on other dies (R295, R297;
notes/assumptions/58.md). -/
def markFar (s : State) (d i u : Nat) (slots : List Nat) (add : Bool) : State :=
  let b := getBk (getDie s d) i
  if b.isGang || !(bkHeld b) then s
  else
    ((attsOf b u).filter fun (_, a) => useDie d a != d).foldl (fun s (k, a) =>
      let mend := fun (m : RMk) =>
        if m.use != k then m else { m with slots := if add then m.slots ++ slots else m.slots.filter fun t => !(slots.contains t) }
      modDie s (useDie d a) fun x =>
        let y := slots.foldl (fun y t => capAdd y (capCal a.cls a.pinst a.dirin) t a.dem false add) x
        { y with reeve := { y.reeve with
            others := y.reeve.others.map fun o => if o.die == d && o.handle == handleOf i b then { o with marks := o.marks.map mend } else o } }) s

/-- Give use `u` and its attached uses new slots. -/
def giveSlots (b : Booking) (u : Nat) (slots : List Nat) : Booking :=
  let atts := (attsOf b u).map Prod.fst
  setUses b fun k x => if k = u || atts.contains k then { x with slots := slots } else x

/-- Mark a committed run of use `u`. -/
def putRun (s : State) (d i u : Nat) (slots : List Nat) : State :=
  let s := markFar (modBk s d i fun b => giveSlots b u slots) d i u slots true
  modDie s d fun x => markRun d i (getBk x i) u slots 2 false x

/-- Take slots of use `u` away: those from `from_` on. -/
def cutRun (s : State) (d i u from_ : Nat) : State :=
  let b := getBk (getDie s d) i
  let x := nthUse b u
  let gone := x.slots.filter fun t => from_ ≤ t
  let tent := b.st == .preparing || b.st == .committing
  let s := modDie (markFar s d i u gone false) d fun y => markRun d i b u gone 0 tent y
  modBk s d i fun b => giveSlots b u (x.slots.filter fun t => t < from_)

/-- Assign a plan to the booking's uses. -/
def assignPlan (b : Booking) (l : List Placed) : Booking :=
  l.foldl (fun b p =>
    let b := setUses b fun k x =>
      if k = p.u then { x with placed := true, pinst := p.inst }
      else match p.atts.find? fun a => a.1 == k with
        | some a => { x with placed := true, pinst := a.2 }
        | none => x
    giveSlots b p.u p.slots) b

/-! ### Moves (12 R297, R298) -/

/-- The present bound of use `u`: release, the task's earlier exclusive uses, its edges. -/
def boundOf (s : State) (self i u : Nat) : Nat :=
  let d := getDie s self
  let b := getBk d i
  let own := ((b.uses.take u).filter fun x => x.cls < 2).map useEnd
  let es := (d.reeve.edges.filter fun e => e.succ == handleOf i b && e.use == u).map (edgeEnd s)
  (own ++ es).foldl max b.rel

/-- Place use `u` again on its instance from `lo` up (R285: not before the task's reach bound), its old slots freed first; `earlier`: only
to an earlier start. -/
def moveUse (s : State) (d i u lo : Nat) (earlier : Bool) : State :=
  let b := getBk (getDie s d) i
  let x := nthUse b u
  let t := cutRun s d i u 0
  match findRun t d b.stamp false true (calOf x.cls x.pinst) x.dur (slotNow s d + 4096) (attsOf b u) 4200 (max lo (reachBound s d b)) with
  | some (run, _) =>
    if earlier && !(run.headD 0 < x.slots.headD 0) then s
    else
      let t := putRun t d i u run
      if b.deadl ≠ 0 ∧ (run.getLast?.getD 0) + 1 > b.deadl then modBk t d i fun b => { b with late := true } else t
  | none => if earlier then s else modBk t d i fun b => setUse b u fun x => { x with unb := true }

/-- A use that can be moved: placed, not started, not ended, not suspended. -/
def movable (u : Use) : Bool := u.cls < 2 && u.slots ≠ [] && !(u.started || u.ended || u.susp || u.unb)

/-- The movable uses of every die's held bookings, each with its die and booking, in ascending order of start, ties in ascending stamp.  The
Reeves act on one another's bookings at once (notes/assumptions/58.md). -/
def movables (s : State) : List (Nat × Nat × Nat) :=
  let l := (allDies s).flatMap fun d => (getDie s d).reeve.bks.flatMap fun (i, b) =>
    if bkHeld b && !b.isGang then
      (b.uses.zipIdx.filter fun (u, _) => movable u).map fun (u, k) => (u.slots.headD 0, b.stamp.toNat, d, i, k)
    else []
  (sortBy (fun a b => a.1 < b.1 || (a.1 == b.1 && a.2.1 ≤ b.2.1)) l).map fun (_, _, x) => x

/-- Re-place every use whose bound has passed its start (R297), `n` moves at most. -/
def ripple : Nat → State → State
  | 0, s => s
  | n + 1, s =>
    match (movables s).find? fun (d, i, u) => (nthUse (getBk (getDie s d) i) u).slots.headD 0 < boundOf s d i u with
    | none => s
    | some (d, i, u) => ripple n (moveUse s d i u (boundOf s d i u) false)

/-- The bookings, by die and handle, reached through edges from some. -/
def reached (s : State) : Nat → List (Nat × Nat) → List (Nat × Nat)
  | 0, l => l
  | n + 1, l =>
    let more := (allDies s).flatMap fun d =>
      ((getDie s d).reeve.edges.filter fun e => l.contains (e.pdie, e.pred) && !(l.contains (d, e.succ))).map fun e => (d, e.succ)
    if more = [] then l else reached s n (l ++ more.eraseDups)

/-- The bookings whose uses a pull-forward from booking `h` of die `d` may move: itself and those on its edges. -/
def reachedFrom (s : State) (d h : Nat) : List (Nat × Nat) := reached s 64 [(d, h)]

/-- Pull forward the later uses of booking `i` (from use `u` on) and the bookings on its edges, `hs` (R298). -/
def pullForward (s : State) (d i u : Nat) (hs : List (Nat × Nat)) : State :=
  (movables s).foldl (fun s (e, j, k) =>
    let b := getBk (getDie s e) j
    if hs.contains (e, handleOf j b) && (e != d || j != i || k > u) && movable (nthUse b k) then moveUse s e j k (boundOf s e j k) true
    else s) s

/-! ### Ends (12 R282, R294, R298; 14 R354) -/

/-- The completion word (R282), written under the task's translation context; an address that does not take the write loses it. -/
def doneWord (s : State) (d : Nat) (x addr v : Word) : State :=
  if addr = 0 || addr.toNat % 8 ≠ 0 then s
  else
    match translate s d .die x addr with
    | (s, none) => s
    | (s, some l) => if needStore l.pte then physWrite s d noCluster l.sp l.pa (wordBytes8 v) (if pteCA l.pte then .upd else .nt) else s

/-- Change the record of a launch's job. -/
def setLJob (s : State) (p id flat : Nat) (f : LJob → LJob) : State :=
  modPkg s p fun x => { x with launches := x.launches.map fun l =>
    if l.id = id then { l with jobs := l.jobs.map fun k => if k.flat = flat then f k else k } else l }

/-- What the front end learns of a booking it has made: `code` ends it (16 R400). -/
def feResult (s : State) (b : Booking) (code : Nat) : State :=
  match b.fe with
  | none => s
  | some (p, id, 0) =>
    let ok := code == 0x0D || code == 0
    modPkg s p fun x => { x with pkts := x.pkts.map fun k =>
      if k.id = id && k.ended.isNone then { k with ended := some (if ok then 0 else 0x0C, 0, if ok then 0 else code) } else k }
  | some (p, id, j + 1) =>
    if code = 0x0D then s
    else modPkg s p fun x => { x with launches := x.launches.map fun l =>
      if l.id = id then { l with jobs := l.jobs.map fun k => if k.flat = j && k.st = 0 then { k with st := 4 + code } else k } else l }

/-- The completion word's value. -/
def doneVal (h code fin : Nat) : Word := w64 (code + h * 2 ^ 8 + fin % 2 ^ 32 * 2 ^ 32)

/-- A booking's record goes once its job has retired, or at once where it has none: its completion word is written. -/
def settleBk (s : State) (d i : Nat) : State :=
  let b := getBk (getDie s d) i
  let h := i * 64 + b.gen
  let s := doneWord s d b.job.xctx b.done (doneVal h b.endCode b.endSlot)
  modDie s d fun x => setBk x i {}

/-- Tell the other dies of a booking that it has ended. -/
def abortParts (s : State) (d i : Nat) (b : Booking) : State :=
  b.parts.foldl (fun s p => send s { kind := .bkAbort, src := d, dst := p.die, tag := handleOf i b, opnd := b.stamp }) s

/-- A word for a waiting instruction of die `d`. -/
def addResult (s : State) (d id : Nat) (book : Bool) (v : Word) : State :=
  modReeve s d fun r => { r with results := r.results ++ [(id, book, v)] }

/-- Instructions that wait for a booking that ends first find it not live (14 R354, R355). -/
def flushPend (s : State) (d i : Nat) : State :=
  (getBk (getDie s d) i).pend.foldl (fun s (_, w, id) => addResult s w.die id false 2) s

/-- A booking ends (R294): its handle's generation advances, its entries, edges (those onto it and those from it, on every die) and page
counts go.  Its record stays until its job's retirement; where the job is not resident it goes at once. -/
def finishBk (s : State) (d i code : Nat) : State :=
  let b := getBk (getDie s d) i
  let stays := b.bound && (jobAt (getDie s d) i b).isSome
  let h := handleOf i b
  let now := slotNow s d
  let s := (b.uses.zipIdx.filter fun (u, _) => u.cls < 2).foldl (fun s (_, k) => cutRun s d i k (now + 1)) s
  let s := if bkHeld b then modDie s d fun x => (b.regs.flatMap fun r => r.pages).foldl (fun x p => tlbCount x p.1 p.2 false) x else s
  let s := modReeve s d fun r => { r with
    gens := spSet 1 r.gens i (if b.gen = 63 then 1 else b.gen + 1)
    edges := r.edges.filter fun e => e.succ != h
    held := r.held.filter fun p => !(p.die == d && p.handle == h) }
  let s := (allDies s).foldl (fun s x => modReeve s x fun r => { r with edges := r.edges.filter fun e => !(e.pdie == d && e.pred == h) }) s
  let fin := if code = 0x0D then (b.uses.map useEnd).foldl max 0 else now + 1
  let s := flushPend (feResult (abortParts s d i b) b code) d i
  let s := match b.who with
    | some (w, id) => addResult s w.die id true (w64 code)
    | none => s
  let s := modBk s d i fun b => { b with st := .free, who := none, pend := [], parts := [], endCode := code, endSlot := fin }
  if stays then s else settleBk s d i

/-- Mark use `u` and its attached uses as ended in slot `t`. -/
def setEnded (b : Booking) (u t : Nat) : Booking :=
  let atts := (attsOf b u).map Prod.fst
  setUses b fun k x =>
    if k = u || atts.contains k then
      { x with ended := true, endS := t, gate := false, susp := false, tail := false, closing := false, cut := false, swept := true }
    else x

/-- Free what is left after slot `t` of an ended use: on this die, and its remote units. -/
def freeRest (s : State) (d i u t : Nat) : State :=
  let b := getBk (getDie s d) i
  let s := (attsOf b u).foldl (fun s (k, a) =>
    if a.rmt && a.rdie != d then
      send s { kind := .bkAbort, src := d, dst := a.rdie, tag := handleOf i b, opnd := b.stamp, op := k + 1 }
    else s) s
  cutRun s d i u (t + 1)

/-- Consequences of a use that has ended: `early`, its slots are freed and others pulled forward; the last one ends the booking. -/
def useGone (s : State) (d i u : Nat) (early : Bool) : State :=
  let b := getBk (getDie s d) i
  let hs := reachedFrom s d (handleOf i b)
  if b.uses.all fun x => x.ended || (x.cls ≥ 2 && x.slots = []) then
    let s := finishBk s d i b.code
    if early then pullForward s d i 8 hs else s
  else if early then pullForward s d i u hs
  else s

/-- A use ends now: at its booked end (`early` false) in its last slot, otherwise in the present one. -/
def endUse (s : State) (d i u : Nat) (early : Bool) : State :=
  let b := getBk (getDie s d) i
  let x := nthUse b u
  if x.ended || !(bkHeld b) then s
  else
    let now := slotNow s d
    let t := if early then now else (x.slots.getLast?).getD now
    let s := freeRest s d i u now
    useGone (modBk s d i fun b => setEnded b u t) d i u early

/-! ### What an engine holds of a use (12 R294, R295) -/

/-- The use and the duration of an array instruction (07 R192). -/
def arrayWork : Instr → Option (Nat × Nat)
  | .mstep f => some (f.use.val, mstepDur f)
  | .mclr f => some (f.use.val, 32)
  | .mlda f => some (f.use.val, 256)
  | .msta f => some (f.use.val, 256)
  | .mswap f => some (f.use.val, 1)
  | .mpro f => some (f.use.val, 32 * f.steps.toNat + 64)
  | .mepi f => some (f.use.val, 64 + epiCycles f.ofmt.val)
  | _ => none

/-- The array instruction that the Mill stream has come to and not started, at its gate or held by 07 R191: its use and its duration
(07 R194). -/
def headArray (s : State) (w : Who) : Option (Nat × Nat) :=
  let m := (getCtx s w).mill
  if !(m.stat.st == .run || m.stat.st == .wait) || m.flight.any (fun x => x.stage == .steps || x.inj) then none
  else
    match headInstr s w .mill with
    | some .minj =>
      if !m.injv then none
      else
        match decodeMill m.injw.toNat with
        | .ok i => arrayWork i
        | .error _ => none
    | some i => arrayWork i
    | none => none

/-- The tile steps that an MSTEP has still to start. -/
def stepsLeft (f : MillFly) : Nat := f.f.steps.toNat - f.step - (if f.rd = [] then 0 else 1)

/-- The cycles that a Mill use has still to start (07 R194): of the MSTEP in flight, or of the array instruction that has not started. -/
def millLeft (s : State) (w : Who) (u : Nat) : Option Nat :=
  match (getCtx s w).mill.flight.find? fun f => f.stage == .steps && stepsLeft f != 0 && f.f.use.val == u with
  | some f => some (32 * stepsLeft f + 384 + if f.f.epi then epiCycles f.f.ofmt.val else 0)
  | none =>
    match headArray s w with
    | some (v, n) => if v = u then some n else none
    | none => none

/-- An array instruction or command of use `u` in flight; `gate` counts one that has not started. -/
def useBusy (s : State) (d i u : Nat) (gate : Bool) : Bool :=
  let b := getBk (getDie s d) i
  let x := nthUse b u
  match jobAt (getDie s d) i b with
  | none => false
  | some (core, k) =>
    let w : Who := ⟨d, core, k⟩
    let c := getCtx s w
    if x.cls = 0 then (c.mill.flight.any fun f => f.f.use.val == u) || (gate && (millLeft s w u).isSome)
    else if x.cls = 1 then
      ((getCq c (x.pinst % 2)).q.any fun q => q.use == u) ||
        (gate && c.acc.stat.st == .wait && c.acc.stat.wkind == 6 && c.acc.stat.obj == w64 (handleOf i b * 8 + u) &&
          bits c.acc.stat.aux 0 2 == x.pinst % 2)
    else false

/-- The remaining cycles of a Carter use: the commands it holds, or the one that waits. -/
def carterLeft (s : State) (d : Nat) (w : Who) (k u : Nat) : Nat :=
  let c := getCtx s w
  match (getCq c k).q.filter fun q => q.use == u with
  | [] => bits c.acc.stat.aux 2 62
  | l => (l.map fun q =>
      let n := cmdLen q - q.done
      carterCycles s d q (match q.pages.head? with
        | some p => ((tlbNamed (getDie s d) p).map fun e => pteSpace e.pte).getD .hbm
        | none => .hbm) n (ceilDiv n (max 1 (rowLen q)))).sum

/-- Give a suspended use's remainder of `cycles` a run on the same instance (R295, R296). -/
def placeRest (s : State) (d i u cycles : Nat) : State :=
  let s := cutRun s d i u (slotNow s d)
  let b := getBk (getDie s d) i
  let x := nthUse b u
  let n := max 1 (ceilDiv cycles 576)
  match findRun s d b.stamp false true (calOf x.cls x.pinst) n (slotNow s d + 4096) (attsOf b u) 4200 (slotNow s d + 1) with
  | none => modBk s d i fun b => setUse (giveSlots b u []) u fun x => { x with unb := true, gate := false }
  | some (run, _) =>
    let s := putRun (modBk s d i fun b => setUse b u fun x => { x with gate := false }) d i u run
    if b.deadl ≠ 0 ∧ (run.getLast?.getD 0) + 1 > b.deadl then modBk s d i fun b => { b with late := true } else s

/-- The Mill stream of a context suspends (01 R23): with the end of the step in flight, or at once. -/
def suspendMill (s : State) (w : Who) : State :=
  let s := abandonWait s w .mill
  modCtx s w fun c =>
    if c.mill.stat.st != .run then c
    else if c.mill.flight.any fun f => f.stage == .steps && f.rd != [] then { c with mill := { c.mill with susp := true } }
    else raiseEv (setStat c .mill { c.mill.stat with st := .susp }) 5

/-- A suspended Mill stream runs again. -/
def resumeMill (s : State) (w : Who) : State :=
  modCtx s w fun c =>
    let c := { c with mill := { c.mill with susp := false } }
    if c.mill.stat.st == .susp then setStat c .mill { c.mill.stat with st := .run } else c

/-- The slip rule's second case (R295): the engine suspends the use and reports its remainder; a Mill use with only drain and epilogue left
is not suspended (07 R194). -/
def suspendUse (s : State) (d i u : Nat) : State :=
  let x := getDie s d
  let b := getBk x i
  let v := nthUse b u
  match jobAt x i b with
  | none => s
  | some (core, k) =>
    let w : Who := ⟨d, core, k⟩
    if v.cls = 0 then
      match millLeft s w u with
      | none => modBk s d i fun b => setUse b u fun y => { y with tail := true, gate := false }
      | some n =>
        let s := modBk s d i fun b => setUse b u fun y => { y with tail := false }
        let s := placeRest (suspendMill s w) d i u n
        ripple 4096 (if (nthUse (getBk (getDie s d) i) u).unb then resumeMill s w else s)
    else
      let cycles := carterLeft s d w (v.pinst % 2) u
      let s := modCq s w (v.pinst % 2) fun q => { q with q := match q.q with
        | h :: t => (if h.use = u && h.started then { h with susp := true } else h) :: t
        | [] => [] }
      ripple 4096 (placeRest s d i u cycles)

/-- The slip rule for a use whose booked end has come (R295). -/
def slipUse (s : State) (d i u : Nat) : State :=
  let x := getDie s d
  let b := getBk x i
  let v := nthUse b u
  let n := slotNow s d
  if v.cut || !(useBusy s d i u (!v.closing)) then endUse s d i u false
  else
    let free := !(openSlot n) && exFree x b.stamp false (calOf v.cls v.pinst) n && (pickAtts s d b.stamp false true [n] (attsOf b u) []).isSome
    if v.closing && !free then s
    else if free then
      let s := modBk s d i fun b =>
        setUse (giveSlots b u (v.slots ++ [n])) u fun y => { y with ovr := true, tail := false }
      let s := modDie (markFar s d i u [n] true) d fun y => markRun d i (getBk y i) u [n] 3 false y
      let s := modDie s d fun y => countDie y (some (instCore v.cls v.pinst, ((jobAt x i b).getD (0, 0)).2)) 0x11 1
      ripple 4096 s
    else suspendUse s d i u

end Sys2Proof.Machine
end

