-- ==== Sys2Proof/Machine/Trace.lean ====
section
/-!
DEFINITION. The trace unit: markers, samples, watch records, snapshots; replay's order points (04 R122, R123; 13 R333 to R338, R346; 14 R367).
-/
namespace Sys2Proof.Machine
open Sys2Proof

/-! ### Records -/

/-- WHO with the context in bit 20 (13 R335, R336). -/
def whoCtx (w : Who) : Nat := whoBits w + w.ctx % 2 * 2 ^ 20

/-- A marker record (13 R335). -/
def markerRecord (s : State) (w : Who) (pc v : Word) : List Byte :=
  leBytes 8 (ftimeNow s w.die) ++ wordBytes8 v ++ wordBytes8 pc ++ leBytes 4 (whoCtx w) ++ leBytes 4 0

/-- The code of a stream state (01 R12). -/
def stateCode : RunState → Nat
  | .absent => 0
  | .idle => 1
  | .run => 2
  | .wait => 3
  | .susp => 4
  | .stop => 5
  | .done => 6

/-- Residual sectors of a command: those that its bytes not yet moved touch. -/
def residSectors (q : Cmd) : Nat := (sectorsOf (cmdOff q + q.done) (cmdLen q - q.done)).length

/-- The CQ field of a sample record (13 R336). -/
def sampleCq (q : CarterQ) : Nat :=
  match q.q with
  | [] => 0
  | c :: _ => c.seq % 2 ^ 16 + q.q.length * 2 ^ 16 + residSectors c % 2 ^ 18 * 2 ^ 24

/-- Channel counts, 5 bits each. -/
def sampleChc (c : Ctx) : Nat := (List.range 16).foldl (fun v k => v + (spGet {} c.chans k : Chan).q.length * 2 ^ (5 * k)) 0

/-- A sample record (13 R336). -/
def sampleRecord (s : State) (w : Who) : List Byte :=
  let c := getCtx s w
  leBytes 2 0 ++ leBytes 10 (sampleChc c) ++ leBytes 6 (sampleCq c.c0) ++ leBytes 6 (sampleCq c.c1) ++ leBytes 2 c.mill.mrp.toNat ++
    leBytes 2 (stateCode c.acc.stat.st + 16 * stateCode c.loom.stat.st + 256 * stateCode c.mill.stat.st) ++
    leBytes 4 (whoCtx w) ++ wordBytes8 c.mill.pc ++ wordBytes8 c.loom.pc ++ wordBytes8 c.acc.pc ++ leBytes 8 (ftimeNow s w.die)

/-- A watch record (13 R337): kind 1 read, 2 write, 3 atomic. -/
def watchRecord (s : State) (w : Who) (addr srcDie srcEng kind : Nat) : List Byte :=
  leBytes 8 (ftimeNow s w.die) ++ leBytes 8 addr ++ leBytes 4 (srcDie % 2 ^ 15 + srcEng % 8 * 2 ^ 15) ++ leBytes 4 (whoBits w) ++
    leBytes 1 kind ++ leBytes 7 0

/-- SAMPLE_RECORD (13 R336): one record for each resident context of die `ev.w.die`, every `smpper` cycles. -/
def execSampleRecord (s : State) : Host.Outcome State Fault Refusal :=
  let d := s.ev.w.die
  let t := (getDie s d).trace
  let n := bits t.smpper 0 32
  let now := cycNow s d
  if n = 0 || now < t.smpAt + n then .next s
  else
    let s := modDie s d fun x => { x with trace := { x.trace with smpAt := t.smpAt + (now - t.smpAt) / n * n } }
    .next ((getDie s d).cores.foldl (fun t (k, y) =>
      let one := fun (t : State) (c : Ctx) (x : Nat) =>
        if c.job.isSome then modDie t d fun z => ringAppend z 2 (sampleRecord s ⟨d, k, x⟩) else t
      one (one t y.k0 0) y.k1 1) s)

/-- TRCM (04 R122). -/
def execTrcm (a : Src) (s : State) : Host.Outcome State Fault Refusal :=
  runAccess s fun s =>
    let w := me s
    let pc := (getCtx s w).acc.pc
    withOps s (wordOf (.trcm a)) [a] [] noDst fun s vs =>
      .ok (modDie s w.die fun d => ringAppend d 0 (markerRecord s w pc (opv vs 0))) .seq

/-! ### Snapshots (04 R123, 14 R367) -/

/-- The trigger time that SNAP uses: at least 256 ns ahead, a multiple of 16. -/
def snapTime (now v : Nat) : Nat := (max v (now + 256) + 15) / 16 * 16

/-- Set a trigger at `t`, unless one is pending. -/
def snapSet (d : Die) (t : Word) : Die :=
  if d.trace.snapPend then d else { d with trace := { d.trace with snapPend := true, snapT := t } }

/-- SNAP (04 R123): privileged in job mode unless `sctl`.SNJ is 1. -/
def execSnap (d : RC) (a : Src) (s : State) : Host.Outcome State Fault Refusal :=
  runAccess s fun s =>
    let w := me s
    let c := getCtx s w
    withPriv (c.acc.sys || c.csr.snj) (fun _ => false) s (wordOf (.snap d a)) [a] [] d fun s vs =>
        let s := modDie s w.die fun x => snapSet x (w64 (snapTime (ftimeNow s w.die) (opv vs 0).toNat))
        .ok (putDst s d (getDie s w.die).trace.snapT) .seq

/-- The key of a snapshot word: block and word, the core in block 0. -/
def snapKey (blk core word : Nat) : Nat := (if blk = 0 then 16 + core else blk) * 2 ^ 16 + word

/-- The snapshot words of a die as they stand (14 R367). -/
def snapWordsOf (s : State) (d : Nat) : List (Nat × Word) :=
  let x := getDie s d
  let sample := fun (w : Who) =>
    if (getCtx s w).job.isSome then
      let r := sampleRecord s w
      (List.range 8).map fun k => (snapKey 0 w.core (8 * w.ctx + k), w64 (leNat ((r.drop (8 * k)).take 8)))
    else []
  let cores := x.cores.flatMap fun (k, _) => sample ⟨d, k, 0⟩ ++ sample ⟨d, k, 1⟩
  let live := (x.reeve.bks.filter fun (_, b) => bkLive b).length
  let intake := (x.reeve.bks.filter fun (_, b) => b.st == .queued || b.st == .placing).length
  let marks := (x.reeve.others.filter fun m => !m.comm).flatMap fun m => m.marks.flatMap fun k => k.slots
  cores ++ [(snapKey 1 0 0, w64 (slotNow s d)), (snapKey 1 0 1, w64 live), (snapKey 1 0 2, w64 intake),
    (snapKey 1 0 3, w64 marks.length)] ++
    (List.range 6).flatMap (fun p =>
      let q : PortSt := spGet {} x.fab.ports p
      [(snapKey 2 0 p, w64 q.outF), (snapKey 2 0 (6 + p), w64 q.inF)]) ++
    (List.range 6).map (fun k => (snapKey 3 0 k, spGet 0 x.trace.rgwrp k)) ++
    (List.range 16).map (fun k => (snapKey 4 0 k, spGet 0 x.trace.evcnt k))

/-- SNAP_TRIGGER (14 R367): at the trigger's time every block of die `ev.w.die` latches its words. -/
def execSnapTrigger (s : State) : Host.Outcome State Fault Refusal :=
  let d := s.ev.w.die
  let x := getDie s d
  if x.trace.snapPend && x.trace.snapT.toNat ≤ x.time.ftime then
    .next (modDie s d fun y => { y with trace := { y.trace with
      snapPend := false, snapValid := true, snapWords := spSetMany 0 [] (snapWordsOf s d) } })
  else .next s

/-- The `snapt` register. -/
def snaptWord (d : Die) : Word :=
  (d.trace.snapT &&& ~~~(0xF : Word)) ||| (if d.trace.snapPend then 1 else 0) ||| (if d.trace.snapValid then 2 else 0)

/-- The word that `snapsel` selects. -/
def snapdatWord (d : Die) (core : Nat) (sel : Word) : Word := spGet 0 d.trace.snapWords (snapKey (bits sel 16 4) core (bits sel 0 16))

/-! ### Replay (13 R346) -/

/-- The fabric time and the die of a record (13 R343). -/
def recTime (r : BitVec 256) : Nat := r.toNat % 2 ^ 64

def recDie (r : BitVec 256) : Nat := r.toNat / 2 ^ 64 % 2 ^ 15

/-- Order points of one object: of one kind, or both performed at an address (atomics, remote operations, splits). -/
def sameObj (r q : BitVec 256) : Bool :=
  let addr := fun (x : BitVec 256) => [1, 5, 8].contains (recKind x)
  recObj r == recObj q && (recKind r == recKind q || (addr r && addr q))

/-- A record stands before another in the order of fabric time and die (13 R345). -/
def recBefore (r q : BitVec 256) : Bool := recTime r < recTime q || (recTime r == recTime q && recDie r < recDie q)

/-- Another die has an earlier record of the same object still to replay (13 R345). -/
def recWaits (s : State) (d : Nat) (r : BitVec 256) : Bool :=
  (allDies s).any fun e => e != d && (getDie s e).alm.rply && (getDie s e).alm.log.any fun q => sameObj q r && recBefore q r

/-- REPLAY_ORDER_POINT: the agent of the record at the head of the log (context `ev.w`, engine number `ev.k`) is let past the order
point that ends its chunk: every earlier record of the die has been replayed, and of another die every earlier one of the same object. -/
def execReplayOrderPoint (s : State) : Host.Outcome State Fault Refusal :=
  let w := s.ev.w
  let k := agentKey w s.ev.k
  let a := (getDie s w.die).alm
  match a.log with
  | [] => .next s
  | r :: _ =>
    if a.rply && recAgent r == k && !(a.go.contains k) && !(recWaits s w.die r) then
      .next (modDie s w.die fun d => { d with alm := { d.alm with go := k :: d.alm.go } })
    else .next s

end Sys2Proof.Machine
end

