-- ==== Sys2Proof/Machine/Remote.lean ====
section
/-!
DEFINITION. Remote operations: their issue, what their homes do, replies, combining; landings (17 R429 to R442; 18 R455 to R460;
05 R137; 13 R320).
-/
namespace Sys2Proof.Machine
open Sys2Proof

/-! ### Issue (18 R455 to R459) -/

/-- The egress check over [x, x + size), then alignment (R455). -/
def egressAt (c : Cap) (x : Word) (kinds : List Nat) (perm size : Nat) (k : Res) : Res :=
  if !c.tag then .trap 0x06 x
  else if !(kinds.contains (capKind c)) || !(capPerm c).testBit perm then .trap 0x08 x
  else if x.toNat < capLo c || x.toNat + size > capHi c then .trap 0x07 x
  else if x.toNat % size ≠ 0 then .trap 0x03 x
  else k

/-- The operands of a remote instruction: word errors, interlocks, the capability checks, then the channels. -/
def withRemote (s : State) (word : Word) (cr : CapReg) (regs : List GReg) (srcs : List Src) (dst : RC) (chk : Res → Res)
    (k : State → List Word → Res) : Res :=
  let w := me s
  let c := getCtx s w
  if !(srcs.all (srcLegal c) && dstLegal c dst) then .trap 0x01 word
  else if srcs.any (srcPending s w) || regs.any (pendingG s w) || dstPending s w dst then regWait s srcs regs dst
  else if srcs.any (srcLost c) || regs.any (lostG c) then lostTrap s
  else if acqPending s w then .hold
  else
    capReady s [cr] [cr]
      (match chk (.ok s .seq) with
       | .ok _ _ => takeOps s w srcs dst fun s vs => k s vs
       | r => r)

/-- The kind codes of remote operations in a message: load, store, compare-and-swap, atomics from 16. -/
def opLoad : Nat := 0

def opStore : Nat := 1

def opCas : Nat := 2

def opAtom (k : Nat) : Nat := 16 + k

/-- The message of a remote operation that has just been entered as an access, with its launch. -/
def sendRemote (s : State) (w : Who) (c : Cap) (x : Word) (n op : Nat) (b e : Word) (cmb : Bool) : State :=
  send s
    { kind := .remote, src := w.die, dst := capPeer c, w := w, tag := (getDie s w.die).nextId, op := op, size := n, addr := x, opnd := b,
      opnd2 := e, capk := capKind c, cmb := cmb, words := [w64 ((ctxLaunch (getCtx s w)).getD 0)] }

/-- The window of an operation, if the check of R432 passes: kind and permission admitted, the range inside. -/
def windowFor (s : State) (d : Nat) (x : Word) (kind perm size : Nat) : Option Win :=
  let v := windowAt s d (expWindow x.toNat)
  if v.v && v.kind == kind && v.pmax.testBit perm && expOffset x.toNat + size ≤ v.len then some v else none

/-- Issue a remote operation: the access and its message. -/
def issueRemote (s : State) (d : RC) (kind : AccKind) (c : Cap) (x : Word) (n op sb : Nat) (b e : Word) (cmb : Bool) : State :=
  let w := me s
  let a : Access := { id := 0, w := w, kind := kind, va := x, size := n, val := b, exp := e, sb := sb, capv := c, cmb := cmb }
  sendRemote (issueTo s d a) w c x n op b e cmb

def remAddr (c : Cap) (o : BitVec 6) (n : Nat) : Word := amAddr (w64 (capCursor c)) o n

def rloadBody (i : Instr) (d : RC) (cr : CapReg) (o : BitVec 6) (k : Fin 8) (z : Size) (s : State) : Res :=
  let c := readCap (getCtx s (me s)) cr
  let n := szBytes z
  withRemote s (wordOf i) cr [] [] d (fun r => sbRoom s k.val (egressAt c (remAddr c o n) [0, 3, 4] 0 n r)) fun s _ =>
    .ok (issueRemote s d .rload c (remAddr c o n) n opLoad k.val 0 0 false) .seq

def execRld (d : GReg) (c : CapReg) (o : BitVec 6) (k : Fin 8) (z : Size) (s : State) : Host.Outcome State Fault Refusal :=
  runAccess s (rloadBody (.rld d c o k z) (.g d) c o k z)

def execRldq (n : Fin 16) (c : CapReg) (o : BitVec 6) (k : Fin 8) (z : Size) (s : State) : Host.Outcome State Fault Refusal :=
  runAccess s (rloadBody (.rldq n c o k z) (.ch n) c o k z)

def execRst (x : RC) (cr : CapReg) (o : BitVec 6) (k : Fin 8) (z : Size) (s : State) : Host.Outcome State Fault Refusal :=
  runAccess s fun s =>
    let c := readCap (getCtx s (me s)) cr
    let n := szBytes z
    withRemote s (wordOf (.rst x cr o k z)) cr [] [rcSrc x] noDst (fun r => sbRoom s k.val (egressAt c (remAddr c o n) [0, 3, 4] 1 n r)) fun s vs =>
      .ok (issueRemote s noDst .rstore c (remAddr c o n) n opStore k.val (opv vs 0) 0 false) .seq

/-- RATOM (R458, R459): a remote arrival is a release of everything before it. -/
def ratomBody (i : Instr) (op : Nat) (d : RC) (cr : CapReg) (b : Src) (cmb z : Bool) (s : State) : Res :=
  let w := me s
  let c := readCap (getCtx s w) cr
  let n := atomSize z
  let bar := capKind c == 2
  let x := w64 (capCursor c)
  let chk := fun r =>
    if c.tag && bar && (op != 0 || !z || cmb) then .trap 0x08 x else egressAt c x [0, 2] 2 n r
  withRemote s (wordOf i) cr [] [b] d chk fun s vs =>
    if bar && accPending s w then .hold
    else
      let s := if bar then scopeRelease s w 6 else s
      .ok (issueRemote s d (.ratom op) c x n (opAtom op) 0 (opv vs 0) 0 cmb) .seq

def execRatomAdd (d : RC) (c : CapReg) (b : Src) (cmb z : Bool) (s : State) : Host.Outcome State Fault Refusal :=
  runAccess s (ratomBody (.ratomAdd d c b cmb z) 0 d c b cmb z)

def execRatomSub (d : RC) (c : CapReg) (b : Src) (z : Bool) (s : State) : Host.Outcome State Fault Refusal :=
  runAccess s (ratomBody (.ratomSub d c b z) 1 d c b false z)

def execRatomAnd (d : RC) (c : CapReg) (b : Src) (z : Bool) (s : State) : Host.Outcome State Fault Refusal :=
  runAccess s (ratomBody (.ratomAnd d c b z) 2 d c b false z)

def execRatomOr (d : RC) (c : CapReg) (b : Src) (z : Bool) (s : State) : Host.Outcome State Fault Refusal :=
  runAccess s (ratomBody (.ratomOr d c b z) 3 d c b false z)

def execRatomXor (d : RC) (c : CapReg) (b : Src) (z : Bool) (s : State) : Host.Outcome State Fault Refusal :=
  runAccess s (ratomBody (.ratomXor d c b z) 4 d c b false z)

def execRatomMin (d : RC) (c : CapReg) (b : Src) (z : Bool) (s : State) : Host.Outcome State Fault Refusal :=
  runAccess s (ratomBody (.ratomMin d c b z) 5 d c b false z)

def execRatomMax (d : RC) (c : CapReg) (b : Src) (z : Bool) (s : State) : Host.Outcome State Fault Refusal :=
  runAccess s (ratomBody (.ratomMax d c b z) 6 d c b false z)

def execRatomMinu (d : RC) (c : CapReg) (b : Src) (z : Bool) (s : State) : Host.Outcome State Fault Refusal :=
  runAccess s (ratomBody (.ratomMinu d c b z) 7 d c b false z)

def execRatomMaxu (d : RC) (c : CapReg) (b : Src) (z : Bool) (s : State) : Host.Outcome State Fault Refusal :=
  runAccess s (ratomBody (.ratomMaxu d c b z) 8 d c b false z)

def execRatomXchg (d : RC) (c : CapReg) (b : Src) (z : Bool) (s : State) : Host.Outcome State Fault Refusal :=
  runAccess s (ratomBody (.ratomXchg d c b z) 9 d c b false z)

def execRcas (d : GReg) (cr : CapReg) (b : Src) (z : Bool) (s : State) : Host.Outcome State Fault Refusal :=
  runAccess s fun s =>
    let c := readCap (getCtx s (me s)) cr
    let n := atomSize z
    let x := w64 (capCursor c)
    let e := readG (getCtx s (me s)) d
    withRemote s (wordOf (.rcas d cr b z)) cr [d] [b] (.g d) (egressAt c x [0] 2 n) fun s vs =>
      .ok (issueRemote s (.g d) .rcas c x n opCas 0 (opv vs 0) e false) .seq

/-! ### Reasons (17 R435; 18 R456) -/

/-- The cause a reason gives at the requester. -/
def reasonCause (r : Nat) : Nat := if r = 6 then 0x0F else if r = 7 then 0x11 else 0x19

/-- The remote fault value. -/
def remoteVal (r : Nat) (x : Word) : Word := w64 (r * 2 ^ 60 + bits x 54 10 * 2 ^ 50 + bits x 0 50)

/-! ### The home (17 R431 to R434) -/

/-- An agent of a die for its router and home side. -/
def homeWho (d : Nat) : Who := ⟨d, 0, 0⟩

/-- The watchpoints of a die with REM set meet a remote operation: reports to the jobs of the contexts that watch, with
`seng` 0 (05 R151; 14 R365; 19 R478). -/
def watchRemote (s : State) (d : Nat) (core? : Option Nat) (kind : WKind) (a n src eng : Nat) : State :=
  let kd := match kind with
    | .read => 1
    | .write => 2
    | .atomic => 3
  (getDie s d).cores.foldl (fun s (k, y) =>
    if core?.any fun c => c != k then s
    else
      [0, 1].foldl (fun s i =>
        let w : Who := ⟨d, k, i⟩
        if (coreCtx y i).job.isNone then s
        else
          match watchHit (coreCtx y i) true core?.isSome kind a n with
          | none => s
          | some x =>
            let s := modDie s d fun z => ringAppend z 3 (watchRecord s w x src eng kd)
            modCtx s w fun c => addReport c 4 0x14 (w64 (src % 2 ^ 15 + eng % 8 * 2 ^ 15)) 0) s) s

/-- A remote read at the home: bytes, or a reason. -/
def homeRead (s : State) (d : Nat) (v : Win) (off n : Nat) (zeros : Bool) : State × Except Nat (List Byte) :=
  let sp := kindSpace v.kind
  let pa := if v.bn then bnAddr (getDie s d).mem.hbm v.base v.len off else v.base + off
  let s := cacheLook (physMend s d sp pa n) d noCluster sp pa n false
  match physErr s d sp pa n with
  | none => (s, .ok (physRead s d sp pa n))
  | some (m, k) =>
    let s := countEv (physDetect s (homeWho d) sp k m) (homeWho d) 0x0C 1
    if zeros && v.pz then (s, .ok (List.replicate n 0)) else (s, .error 6)

/-- The answer to a request: value and reason. -/
def answer (s : State) (m : Msg) (v : Word) (r : Nat) : State :=
  send s { kind := .reply, src := m.dst, dst := m.src, w := m.w, agent := m.agent, tag := m.tag, op := r, addr := m.addr, opnd := v,
           size := m.size }

/-- A request that routers combine. -/
def combinable (m : Msg) : Bool := m.kind == .remote && m.cmb && m.op == opAtom 0 && m.capk == 0

/-- In replay no router combines: the record of the split that answered a request, in the log of a die of its route (13 R347). -/
def splitRec (s : State) (m : Msg) : Option (Nat × BitVec 256) :=
  if !(combinable m) then none
  else
    (((route s m.src m.dst).map Prod.fst).filter fun r => (getDie s r).alm.rply).findSome? fun r =>
      ((getDie s r).alm.log.find? fun q =>
        recKind q == 8 && recObj q == m.addr.toNat && recAgent q == agentKey { m.w with die := r } 6).map fun q => (r, q)

/-- The records of the split that answered a request, and of those that its combined request was a member of further on: the requester of each
is the router before it (13 R347; 17 R436). -/
def splitPath (s : State) (m : Msg) : List (Nat × BitVec 256) :=
  match splitRec s m with
  | none => []
  | some (r, q) =>
    let on := ((route s m.src m.dst).map Prod.fst).dropWhile fun d => d != r
    (r, q) :: (on.drop 1).filterMap fun e =>
      if !((getDie s e).alm.rply) then none
      else ((getDie s e).alm.log.find? fun x => recKind x == 8 && recObj x == m.addr.toNat && recAgent x == agentKey (homeWho e) 6).map fun x => (e, x)

/-- The records that the requester of a split takes with it: its own, and while it is the last of its router, its router's further on. -/
def splitTakes (s : State) : List (Nat × BitVec 256) → List (Nat × BitVec 256)
  | [] => []
  | (r, q) :: t =>
    let next := ((getDie s r).alm.log.erase q).find? fun x => recKind x == 8 && recObj x == recObj q
    (r, q) :: if next.all fun x => recChoice x == 0 then splitTakes s t else []

/-- A request waits at its home in replay: a requester of its split comes before it, or another operation in the logged order (13 R346,
R347). -/
def homeLater (s : State) (m : Msg) : Bool :=
  let a := (getDie s m.dst).alm
  let sp := splitPath s m
  let mine := fun (r : BitVec 256) => recAgent r == agentKey (homeWho m.dst) 6 && recKind r == 5
  let turn := (a.log.find? mine).all fun r => recObj r == m.addr.toNat || !(a.log.any fun q => mine q && recObj q == m.addr.toNat)
  a.rply && match sp with
    | _ :: _ => (sp.any fun q => ((getDie s q.1).alm.log.find? fun x => recKind x == 8 && recObj x == m.addr.toNat) != some q.2) || ((sp.all fun q => recChoice q.2 == 0) && !turn)
    | [] => !turn

/-- The order point of an operation performed at its home (13 R342 KIND 0x05): its place in the order of arrival.  In replay the requesters of
a split stand at the split's one order point, and take their records with them (R347). -/
def homePoint (s : State) (d : Nat) (m : Msg) (performed : Bool) : State :=
  let pos := (getDie s d).fab.rpos
  let s := modDie s d fun y => { y with fab := { y.fab with rpos := pos + 1 } }
  let at_ := fun (s : State) => orderPoint s (homeWho d) 6 5 m.addr.toNat (pos + if performed then 2 ^ 63 else 0)
  match (if (getDie s d).alm.rply then splitPath s m else []) with
  | [] => at_ s
  | l =>
    let t := if l.all fun q => recChoice q.2 == 0 then at_ s else s
    (splitTakes s l).foldl (fun t q => modDie t q.1 fun y => { y with alm := { y.alm with log := y.alm.log.erase q.2 } }) t

/-- A remote arrival (R434). -/
def homeArrive (s : State) (m : Msg) (v : Win) : State :=
  let d := m.dst
  let w : Who := ⟨d, winCore v, 0⟩
  let off := winOff v + expOffset m.addr.toNat
  let s := barSense s w off
  let b := barRead (getCore s w) off
  let u := bits m.opnd 0 32
  let bad := !(barLive b) || !(barOpen b) || u == 0 || bits m.opnd 48 16 != 0
  match (if bad then none else barArrive s w 6 w.core off u (bits m.opnd 32 16) 6) with
  | none => answer (homePoint s d m false) m 0 8
  | some s => answer (homePoint s d m true) m (w64 (barRead (getCore s w) off).phase) 0

/-- A read-modify-write at the home; `fails` says that its write-back meets an uncorrectable error (R438).  One that the replay's log has as not
performed fails (13 R347). -/
def homeAtom (s : State) (m : Msg) (v : Win) (fails : Bool) : State :=
  let d := m.dst
  let off := expOffset m.addr.toNat
  let s := watchRemote s d none .atomic (v.base + off) m.size m.src m.agent
  if (replayChoice s (homeWho d) 6).any fun c => (splitRec s m).isNone && !(c.testBit 63) then
    answer (homePoint { s with free := s.free + 1 } d m false) m 0 (Config.replayReason s.free)
  else
  match homeRead s d v off m.size false with
  | (s, .error r) => answer (homePoint s d m false) m 0 r
  | (s, .ok bs) =>
    let old := leNat bs
    let b := m.opnd.toNat % 2 ^ (8 * m.size)
    let new? := if m.op = opCas then (if old = m.opnd2.toNat % 2 ^ (8 * m.size) then some b else none)
      else some (atomNew (m.op - 16) m.size old b)
    if fails && new?.isSome then
      let s := physPoison s d .hbm ((v.base + off) / 32)
      answer (homePoint (machineCheck s (homeWho d) 3 6 true (v.base + off) 0) d m false) m 0 7
    else
      let s := match new? with
        | some x => physWrite s d noCluster .hbm (v.base + off) (leBytes m.size x) .upd
        | none => s
      answer (homePoint s d m true) m (w64 old) 0

/-- A remote operation at its home. -/
def homePerform (s : State) (m : Msg) (fails : Bool) : State :=
  let d := m.dst
  let off := expOffset m.addr.toNat
  let perm := if m.op = opLoad then 0 else if m.op = opStore then 1 else 2
  match windowFor s d m.addr m.capk perm m.size with
  | none => answer s m 0 1
  | some v =>
    if v.kind = 2 then (if m.op = opAtom 0 then homeArrive s m v else answer s m 0 5)
    else if v.kind = 1 || v.kind > 4 || (m.op ≠ opLoad && v.bn) || (perm = 2 && v.kind ≠ 0) then answer s m 0 5
    else
    let key := (v.base + off) / 128 * 4 + spaceCode (kindSpace v.kind)
    let s := match atomPos s d key 64 with
      | some p => atomNote s d key 64 p
      | none => s
    if m.op = opLoad then
      let s := watchRemote s d none .read (v.base + off) m.size m.src m.agent
      match homeRead s d v off m.size true with
      | (s, .error r) => answer (homePoint s d m false) m 0 r
      | (s, .ok bs) => answer (homePoint s d m true) m (leWord bs) 0
    else if m.op = opStore then
      let s := watchRemote s d none .write (v.base + off) m.size m.src m.agent
      answer (homePoint (physWrite s d noCluster (kindSpace v.kind) (v.base + off) (leBytes m.size m.opnd.toNat) .upd) d m true) m 0 0
    else homeAtom s m v fails

/-- A TGET at the home of the tile: its sectors, poisoned ones marked; the tile's tag is ignored (08 R227).  DEDUCED (14 R365 names only
landings): its read of the scratchpad meets a REM watchpoint with SPC 1 (notes/assumptions/66.md). -/
def homeTget (s : State) (m : Msg) : State :=
  let back := fun (s : State) (r : Nat) (bs : List Byte) (ps : List Nat) =>
    send s { kind := .tgetAck, src := m.dst, dst := m.src, w := m.w, agent := m.agent, tag := m.tag, op := r, addr := m.addr, bytes := bs,
             pois := ps }
  match windowFor s m.dst m.addr 1 0 m.size with
  | none => back s 1 [] []
  | some v =>
    let w : Who := ⟨m.dst, winCore v, 0⟩
    let o := winOff v + expOffset m.addr.toNat
    let s := watchRemote s m.dst (some w.core) .read o m.size m.src m.agent
    let ks := sectorsOf o m.size
    let bad := ks.filter fun k => spMark (getCore s w) k != 0
    let s := bad.foldl (fun s k => if spMark (getCore s w) k = 2 then spDetect s w k else s) s
    back (homePoint s m.dst m true) 0 (spRead (getCore s w) o m.size) (bad.map fun k => k - o / 32)

/-! ### Traffic held at the ingress (13 R320, R340) -/

/-- The core and the slot of a scratchpad that a remote arrival or a TGET is addressed to. -/
def opTarget (s : State) (m : Msg) : Option (Nat × Nat) :=
  let v := windowAt s m.dst (expWindow m.addr.toNat)
  if v.v && v.kind == m.capk && (m.kind == .tget || m.capk == 2) then some (winCore v, (winOff v + expOffset m.addr.toNat) / 4096) else none

/-- The context of a core, stopped, that owns a slot. -/
def stoppedOwner (y : Core) (j : Nat) : Option Nat :=
  [0, 1].find? fun i => (coreCtx y i).job.isSome && (coreCtx y i).halted && ownsSlot (coreCtx y i) j

/-- A remote arrival is addressed to a context of its launch that is saved, or is being saved or restored, and no other runs there. -/
def savedOwner (s : State) (m : Msg) (k j : Nat) : Bool :=
  let y := getCore s ⟨m.dst, k, 0⟩
  let l := (m.words.headD 0).toNat
  let own := fun (i : Nat) => ctxLaunch (coreCtx y i) == some l && ownsSlot (coreCtx y i) j
  let busy := fun (i : Nat) => (coreCtx y i).saving.isSome || (coreCtx y i).restoring.isSome
  m.kind == .remote && !([0, 1].any fun i => own i && !(busy i)) &&
    (([0, 1].any fun i => own i && busy i) || (getDie s m.dst).saved.any fun v => v.core == k && v.launch == l && ownsSlot v.ctx j)

/-- A remote operation waits at the ingress: for a stopped context, for a saved one, or behind one that waits for the same slot; a combined
request at a stopped die (17 R452). -/
def opHeld (s : State) (m : Msg) (before : List Msg) : Bool :=
  m.agent == 1 && (getDie s m.dst).stopped ||
  match opTarget s m with
  | none => false
  | some (k, j) =>
    (stoppedOwner (getCore s ⟨m.dst, k, 0⟩) j).isSome || savedOwner s m k j || before.any fun x => opTarget s x == some (k, j)

/-- A held operation joins the ingress; one for a stopped core or die is reported as in flight. -/
def holdOp (s : State) (m : Msg) : State :=
  let s := modDie s m.dst fun d => { d with fab := { d.fab with held := d.fab.held ++ [m] } }
  match (opTarget s m).bind fun t => (stoppedOwner (getCore s ⟨m.dst, t.1, 0⟩) t.2).map fun i => (t.1, i) with
  | some (k, i) => tellMoot s { kind := 5, w := ⟨m.dst, k, i⟩, val := m.addr }
  | none => if m.agent = 1 && (getDie s m.dst).stopped then tellMoot s { kind := 5, w := homeWho m.dst, val := m.addr } else s

/-- A remote operation or a TGET at its home, or held at an order point; `t` is the state without its message. -/
def opAtHome (s t : State) (m : Msg) (fails : Bool) : State :=
  if m.kind = .tget then unlessHeld s (homeTget t m) (homeWho m.dst) 6
  else if homeLater s m then s
  else unlessHeld s (homePerform t m fails) (homeWho m.dst) 6

/-- An operation held at the ingress of die `d`, the `n`-th, is performed once nothing holds it, in arrival order. -/
def heldOp (s : State) (d n : Nat) : State :=
  let l := (getDie s d).fab.held
  match l[n]? with
  | none => s
  | some m =>
    if opHeld s m (l.take n) then s
    else opAtHome s (modDie s d fun x => { x with fab := { x.fab with held := x.fab.held.eraseIdx n } }) m s.ev.b

/-- REMOTE_OPERATION (17 R433): message `ev.k` is performed at its home, or with `ev.n` 1 the operation that stands `ev.k`-th at the ingress of die
`ev.w.die`; `ev.b` says that an atomic's write-back fails.  A request that must cross a link that is down ends with reason LINK (R420). -/
def execRemoteOperation (s : State) : Host.Outcome State Fault Refusal :=
  let arrive := fun (m : Msg) =>
    let t := dropMsg s s.ev.k
    if opHeld s m (getDie s m.dst).fab.held then holdOp t m else opAtHome s t m s.ev.b
  if s.ev.n = 1 then .next (heldOp s s.ev.w.die s.ev.k)
  else
  match msgOf s s.ev.k .remote, msgOf s s.ev.k .tget with
  | some m, _ => .next (arrive m)
  | none, some m => .next (arrive m)
  | none, none =>
    match msgCut s s.ev.k .remote, msgCut s s.ev.k .tget with
    | some m, _ =>
      .next (send (dropMsg s s.ev.k) { kind := .reply, src := m.dst, dst := m.src, w := m.w, agent := m.agent, tag := m.tag, op := 2,
                                       addr := m.addr, size := m.size, port := 1 })
    | none, some m =>
      .next (send (dropMsg s s.ev.k) { kind := .tgetAck, src := m.dst, dst := m.src, w := m.w, agent := m.agent, tag := m.tag, op := 2,
                                       addr := m.addr, port := 1 })
    | none, none => .next s

/-! ### Replies at the requester (18 R456) -/

/-- A remote access completes with a value or a reason. -/
def remoteDone (s : State) (a : Access) (v : Word) (r : Nat) : State :=
  let s := modCtx s a.w fun c => raiseEv c 4
  if r = 0 then accDone s a v
  else
    let x := a.va
    let s := modCtx (dropResult s a) a.w fun c => addFailure c a.id (reasonCause r) (if reasonCause r = 0x19 then remoteVal r x else x) 0
    modDie s a.w.die fun d => accDrop d a

/-- The command of a Carter queue that an answer is for: the one at the head, by its number. -/
def waitingCmd (s : State) (w : Who) (k seq : Nat) : Option Cmd :=
  (headCmd (getCtx s w) k).bind fun q => if q.seq = seq && q.wait = 1 then some q else none

/-- The bytes of a TGET arrive: its Carter then writes them (08 R227, R229). -/
def tgetDone (s : State) (m : Msg) : State :=
  let k := m.agent - 3
  match waitingCmd s m.w k m.tag with
  | none => s
  | some _ =>
    if m.op ≠ 0 then modHead s m.w k fun q => { q with wait := 0, fail := 0x19, failVal := remoteVal m.op m.addr }
    else
      modHead s m.w k fun q => { q with
        wait := 0, bw := { q.bw with data := (List.range (cmdLen q / 32)).map fun i => (m.bytes.drop (32 * i)).take 32, pois := [m.pois] } }

/-- A context that takes the answers it awaits: not halted, or about to be saved, and not being restored (13 R318 step 4; 14 R361). -/
def ctxAnswers (s : State) (w : Who) : Bool :=
  let c := getCtx s w
  (!c.halted || c.saving.isSome) && c.restoring.isNone

/-- A context whose traffic takes effect: not halted, no save or restore under way (14 R361). -/
def ctxTakes (s : State) (w : Who) : Bool :=
  let c := getCtx s w
  !c.halted && c.saving.isNone && c.restoring.isNone

/-- REMOTE_REPLY (18 R456): message `ev.k`, an answer to an access or to a TGET; one that a down link stops brings reason LINK. -/
def execRemoteReply (s : State) : Host.Outcome State Fault Refusal :=
  let done := fun (m : Msg) (v : Word) (r : Nat) =>
    match accAt (getDie s m.w.die) m.tag with
    | none => dropMsg s s.ev.k
    | some a => remoteDone (dropMsg s s.ev.k) a v r
  match msgOf s s.ev.k .reply, msgOf s s.ev.k .tgetAck with
  | some m, _ => .next (if m.agent = 1 || !(ctxAnswers s m.w) then s else done m m.opnd m.op)
  | none, some m => .next (if ctxAnswers s m.w then tgetDone (dropMsg s s.ev.k) m else s)
  | none, none =>
    match msgCut s s.ev.k .reply, msgCut s s.ev.k .tgetAck with
    | some m, _ => .next (if m.agent = 1 || !(ctxAnswers s m.w) then s else done m 0 2)
    | none, some m => .next (if ctxAnswers s m.w then tgetDone (dropMsg s s.ev.k) { m with op := 2 } else s)
    | none, none => .next s

/-! ### Combining (17 R436 to R440) -/

/-- The output port of die `r` on the route of a message, if the route passes it. -/
def portAt (s : State) (r : Nat) (m : Msg) : Option Nat := ((route s m.src m.dst).find? fun l => l.1 = r).map fun l => l.2

def memberOf (m : Msg) : Member := { w := m.w, agent := m.agent, src := m.src, tag := m.tag, opnd := m.opnd }

def setSplits (s : State) (r : Nat) (l : List Split) : State := modDie s r fun d => { d with fab := { d.fab with splits := l } }

/-- Requests that wait in an output queue, by their messages' numbers, in order. -/
def requestsAt (s : State) (r p : Nat) : List Nat := ((getPort (getDie s r) p).outq.filter fun f => f.vc == 0).map fun f => f.msg

/-- Request `b` joins a queue in which `a` is among the last 16 flits and has not begun to leave (R436). -/
def joins (s : State) (r p : Nat) (a b : Msg) : Bool :=
  let l := requestsAt s r p
  let i := l.idxOf a.num
  let j := l.idxOf b.num
  i < j && j < l.length && j ≤ i + 16

/-- The flit of a combined request leaves the queue; that of the request it joins is formed anew. -/
def mergeFlits (s : State) (r p : Nat) (a b : Nat) : State :=
  let gone := (getPort (getDie s r) p).outq.filter fun f => f.msg == b
  let s := modPort s r p fun x => { x with
    outq := (x.outq.filter fun f => f.msg != b).map fun f => if f.msg = a then { f with body := [] } else f }
  gone.foldl (fun s f => freeSlot s r f.inp) s

/-- COMBINING (R436): at the router of die `ev.w.die`, request `ev.n` merges into request `ev.k`, behind which it joins the queue of an output
port.  In replay no router combines (R439). -/
def execCombining (s : State) : Host.Outcome State Fault Refusal :=
  let r := s.ev.w.die
  match s.net[s.ev.k]?, s.net[s.ev.n]? with
  | some a, some b =>
    let sp := (getDie s r).fab.splits
    let mine := a.agent == 1 && a.src == r
    let rec? := sp.find? fun x => x.idx == a.tag
    let sum := w64 ((a.opnd.toNat + b.opnd.toNat) % 2 ^ (8 * a.size))
    if s.ev.k = s.ev.n || !(combinable a && combinable b) || a.dst ≠ b.dst || a.addr ≠ b.addr || a.size ≠ b.size || (getDie s r).alm.rply
        || portAt s r a ≠ portAt s r b || !((portAt s r a).any fun p => joins s r p a b) then .next s
    else if mine then
      match rec? with
      | some x =>
        if x.members.length ≥ 16 then .next s
        else
          let s := setSplits s r (sp.map fun y => if y.idx = x.idx then { y with members := y.members ++ [memberOf b] } else y)
          .next (mergeFlits { s with net := (s.net.set s.ev.k { a with opnd := sum }).eraseIdx s.ev.n } r ((portAt s r a).getD 0) a.num b.num)
      | none => .next s
    else
      match (List.range 64).find? fun i => !(sp.any fun x => x.idx == i) with
      | none => .next s
      | some i =>
        let x : Split := { idx := i, members := [memberOf a, memberOf b], size := a.size, addr := a.addr, since := ftimeNow s r }
        let s := setSplits s r (sp ++ [x])
        .next (mergeFlits { s with net := (s.net.set s.ev.k { a with src := r, w := homeWho r, agent := 1, tag := i, opnd := sum }).eraseIdx s.ev.n } r
          ((portAt s r a).getD 0) a.num b.num)
  | _, _ => .next s

/-- Answer the members of a record: member k gets `v` plus the operands before it, or all get a reason (R437, R438).  A member's position is
an order point, its record in the router's die (13 R342 KIND 0x08). -/
def splitReplies (s : State) (r : Nat) (x : Split) (v : Nat) (reason : Nat) : State :=
  ((List.range x.members.length).zip x.members).foldl (fun s (k, mb) =>
    let val := (v + ((x.members.take k).map fun y => y.opnd.toNat).sum) % 2 ^ (8 * x.size)
    let s := if reason = 0 then orderPoint s { mb.w with die := r } 6 8 x.addr.toNat k else s
    send s { kind := .reply, src := r, dst := mb.src, w := mb.w, agent := mb.agent, tag := mb.tag, op := reason, addr := x.addr,
             opnd := if reason = 0 then w64 val else 0, size := x.size }) s

/-- COMBINED_REPLY (R437): message `ev.k` answers a combined request at its router. -/
def execCombinedReply (s : State) : Host.Outcome State Fault Refusal :=
  match msgOf s s.ev.k .reply with
  | none => .next s
  | some m =>
    if m.agent ≠ 1 then .next s
    else
      let r := m.dst
      let sp := (getDie s r).fab.splits
      let t := dropMsg s s.ev.k
      match sp.find? fun x => x.idx == m.tag with
      | none => .next t
      | some x =>
        .next (unlessHeld s (splitReplies (setSplits t r (sp.filter fun y => y.idx != x.idx)) r x m.opnd.toNat m.op) (homeWho r) 6)

/-- SPLIT_RECORD_TIMEOUT (R440): record `ev.k` of die `ev.w.die` has had no reply for 1 ms. -/
def execSplitRecordTimeout (s : State) : Host.Outcome State Fault Refusal :=
  let r := s.ev.w.die
  let sp := (getDie s r).fab.splits
  match sp.find? fun x => x.idx == s.ev.k with
  | none => .next s
  | some x =>
    if ftimeNow s r < x.since + 1000000 then .next s
    else .next (splitReplies (setSplits s r (sp.filter fun y => y.idx != x.idx)) r x 0 2)

/-! ### Landings (17 R442; 05 R137; 13 R320) -/

/-- The acknowledgement of a landing. -/
def landAnswer (s : State) (d : Nat) (l : Landing) (x : Word) (r : Nat) (byRouter : Bool) : State :=
  send s { kind := .landAck, src := d, dst := l.src.die, w := l.src, agent := 3 + l.carter, tag := l.cmd, op := r, addr := x,
           port := if byRouter then 1 else 0 }

/-- The resident context that a landing is for. -/
def landCtx (y : Core) (l : Landing) : Option Nat :=
  let runs := fun i => ctxLaunch (coreCtx y i) == some l.launch && (coreCtx y i).saving.isNone && (coreCtx y i).restoring.isNone
  if l.csel then (if runs l.cctx then some l.cctx else none)
  else if runs 0 && ownsSlot y.k0 l.slot then some 0
  else if runs 1 && ownsSlot y.k1 l.slot then some 1
  else none

/-- A saved context of the landing's launch is registered for its core, or one is being saved or restored there. -/
def landSaved (s : State) (d : Nat) (l : Landing) : Bool :=
  (getDie s d).saved.any (fun x => x.core == l.core && x.launch == l.launch) ||
    [0, 1].any fun i =>
      let c := getCtx s ⟨d, l.core, i⟩
      ctxLaunch c == some l.launch && (c.saving.isSome || c.restoring.isSome)

/-- The entry still holds the permit's tile, and grants are outstanding. -/
def landGood (y : Core) (l : Landing) : Bool := w64 (tagGtag y l.slot) == l.gtag.setWidth 64 && tagPcnt y l.slot != 0

/-- A landing at its core: queued, stored, or discarded (reasons STALE 4, FULL 3); one for a stopped context is reported as in flight (13
R340).  One that arrives (`fresh`) stays behind those that the store already holds for its slot (13 R320). -/
def landEnter (s : State) (d : Nat) (l : Landing) (x : Word) (fresh : Bool) : State :=
  let w : Who := ⟨d, l.core, 0⟩
  let y := getCore s w
  let store := (getDie s d).fab.store
  let behind := fresh && store.any fun z => z.core == l.core && z.slot == l.slot
  let keep := fun (_ : Unit) =>
    if store.length ≥ 256 then landAnswer s d l x 3 false
    else modDie s d fun z => { z with fab := { z.fab with store := z.fab.store ++ [l] } }
  match landCtx y l with
  | some i =>
    let s := if (coreCtx y i).halted then tellMoot s { kind := 5, w := ⟨d, l.core, i⟩, val := x } else s
    if !(landGood y l) then landAnswer s d l x 4 false
    else if y.landq.length < 8 && !behind then modCore s w fun y => { y with landq := y.landq ++ [l] }
    else keep ()
  | none => if landSaved s d l then keep () else landAnswer s d l x 4 false

/-- LANDING_ARRIVAL (17 R442): message `ev.k` reaches its die and resolves its window. -/
def execLandingArrival (s : State) : Host.Outcome State Fault Refusal :=
  match msgOf s s.ev.k .landing with
  | some m =>
    let l := m.land.getD {}
    let t := dropMsg s s.ev.k
    match windowFor s m.dst m.addr 1 3 m.size with
    | none => .next (landAnswer t m.dst l m.addr 1 false)
    | some v =>
      let o := winOff v + expOffset m.addr.toNat
      let t := watchRemote t m.dst (some (winCore v)) .write o m.size m.src m.agent
      .next (landEnter t m.dst { l with core := winCore v, slot := o / 4096, off := o % 4096 } m.addr true)
  | none =>
    match msgCut s s.ev.k .landing with
    | some m => .next (landAnswer (dropMsg s s.ev.k) m.dst (m.land.getD {}) m.addr 2 true)
    | none => .next s

/-- A local access in flight overlaps the landing's sectors (05 R146). -/
def landBlocked (c : Ctx) (l : Landing) : Bool :=
  let o := l.slot * 4096 + l.off
  carterBusy c o l.bytes.length true || (engineClash c o l.bytes.length true).isSome ||
    (clashIn (accessUses c true) o l.bytes.length).isSome

/-- A landing begins: PCNT falls (05 R137). -/
def landBegin (y : Core) (l : Landing) : Core := if l.begun then y else setPcnt y l.slot (tagPcnt y l.slot - 1)

/-- Write a landing: it begins, if it has not, its sectors land, FULL is set (05 R137). -/
def landWrite (s : State) (w : Who) (l : Landing) : State :=
  let o := l.slot * 4096 + l.off
  let s := tagObserved s w 5 l.slot false
  let s := modCore s w fun y =>
    let y := spWrite (landBegin y l) o l.bytes
    l.pois.foldl (fun y k => setPois (spPoison y (o / 32 + k)) l.slot) y
  changeFull s w l.slot true 5

/-- The export address that an answer about a landing names: the tile address of its slot. -/
def landAddr (s : State) (d : Nat) (l : Landing) : Word := w64 (tileAddr s ⟨d, l.core, 0⟩ l.slot)

/-- LANDING_WRITE (05 R137): landing `ev.k` of the queue of core `ev.w`, which with `ev.n` 1 only begins (R144); with `ev.b`, landing `ev.k`
of the die's landing store comes forward.  One that has begun is written whatever becomes of its context (R153). -/
def execLandingWrite (s : State) : Host.Outcome State Fault Refusal :=
  let d := s.ev.w.die
  if s.ev.b then
    match (getDie s d).fab.store[s.ev.k]? with
    | none => .next s
    | some l =>
      let y := getCore s ⟨d, l.core, 0⟩
      let first := !(((getDie s d).fab.store.take s.ev.k).any fun x => x.core == l.core && x.slot == l.slot)
      if !first || ((landCtx y l).isSome && y.landq.length ≥ 8) || ((landCtx y l).isNone && landSaved s d l) then .next s
      else .next (landEnter (modDie s d fun z => { z with fab := { z.fab with store := z.fab.store.eraseIdx s.ev.k } }) d l (landAddr s d l) false)
  else
    let w : Who := { s.ev.w with ctx := 0 }
    let y := getCore s w
    match y.landq[s.ev.k]? with
    | none => .next s
    | some l =>
      let first := !((y.landq.take s.ev.k).any fun x => x.slot == l.slot)
      let out := setCore s w { y with landq := y.landq.eraseIdx s.ev.k }
      match (if l.begun then (slotOwner s w l.slot).map Who.ctx else landCtx y l) with
      | none =>
        if !first || landSaved s d l then .next s else .next (landAnswer out d l (landAddr s d l) 4 false)
      | some i =>
        let w := { w with ctx := i }
        if !first || !(ctxTakes s w || l.begun) then .next s
        else if tagLost y [l.slot] then .next (tagSense s w l.slot)
        else if !l.begun && !(landGood y l) then .next (landAnswer out d l (landAddr s d l) 4 false)
        else if tagFull y l.slot || (!l.begun && landBlocked (getCtx s w) l) then .next s
        else if s.ev.n = 1 && !l.begun then
          .next (setCore s w (landBegin { y with landq := y.landq.set s.ev.k { l with begun := true } } l))
        else if !(tagTurn s w l.slot true 5) then .next s
        else .next (unlessHeld s (landAnswer (landWrite out w l) d l (landAddr s d l) 0 false) w 5)

/-- LANDING_ACK (17 R442): message `ev.k` completes its TSEND, or fails it. -/
def execLandingAck (s : State) : Host.Outcome State Fault Refusal :=
  let done := fun (m : Msg) (r : Nat) =>
    let t := dropMsg s s.ev.k
    let k := m.agent - 3
    match waitingCmd s m.w k m.tag with
    | none => t
    | some q =>
      if r = 0 then modHead t m.w k fun q => { q with wait := 0, moved := true }
      else modHead t m.w k fun x => { x with wait := 0, fail := 0x19, failVal := remoteVal r (w64 (capCursor q.cap)) }
  match msgOf s s.ev.k .landAck with
  | some m => .next (if ctxAnswers s m.w then done m m.op else s)
  | none =>
    match msgCut s s.ev.k .landAck with
    | some m => .next (if ctxAnswers s m.w then done m 2 else s)
    | none => .next s

end Sys2Proof.Machine
end

