-- ==== Sys2Proof/Machine/Booking.lean ====
section
/-!
DEFINITION. Task descriptors and intake, the two-phase commit, wound-wait (12 R277 to R281, R287 to R292, R299, R301; 14 R351, R352).
-/
namespace Sys2Proof.Machine
open Sys2Proof

/-! ### Task descriptors (12 R277 to R280, R292) -/

/-- Bits `lo` to `lo + n - 1` of a number. -/
def natBits (v lo n : Nat) : Nat := v / 2 ^ lo % 2 ^ n

/-- The use record `k` as a number. -/
def useRec (b : List Byte) (k : Nat) : Nat := leAt b (64 + 16 * k) 16

/-- A use as its record gives it (R278). -/
def useOf (r : Nat) : Use :=
  { cls := natBits r 0 3, dirin := r.testBit 3, bind := natBits r 8 2, j := natBits r 10 3, inst := natBits r 16 7, dur := natBits r 32 12,
    dem := natBits r 48 8, lag := natBits r 56 8, regm := natBits r 64 8, att := natBits r 72 3, rmt := r.testBit 95,
    rdie := natBits r 80 15 }

/-- The units of a capacity use that its record may name: those of a fixed instance, or the most that its class has (R275, R280). -/
def mostUnits (self : Nat) (u : Use) : Nat :=
  if u.cls = 2 then 44 else if u.bind = 2 then bookable (if u.rmt then u.rdie else self) 3 u.inst else 74

/-- Use `k` breaks no rule of R278 and R280; `us` are the uses of lower index.  A gang's INST is ignored (R292). -/
def useOk (self nreg : Nat) (gang : Bool) (k r : Nat) (us : List Use) : Bool :=
  let u := useOf r
  let anchor := us.getD u.att {}
  natBits r 4 4 == 0 && natBits r 13 3 == 0 && natBits r 23 9 == 0 && natBits r 44 4 == 0 && natBits r 75 5 == 0 && natBits r 96 32 == 0 &&
    u.cls ≤ 3 && (!u.dirin || u.cls == 3) && u.bind ≤ 2 && 1 ≤ u.dur && u.regm < 2 ^ nreg &&
    (gang || u.bind != 2 || u.inst < classInsts u.cls) && (u.rmt || u.rdie == 0) &&
    if u.cls < 2 then
      u.dem == 0 && !u.rmt && u.rdie == 0 && (u.bind != 1 || (u.j < k && (us.getD u.j {}).cls < 2))
    else
      k != 0 && u.bind != 1 && u.att < k && anchor.cls < 2 && u.dur == anchor.dur && u.dem ≤ mostUnits self u

/-- The uses of a descriptor, if each is good. -/
def usesOf (self nreg : Nat) (gang : Bool) (b : List Byte) : Nat → Option (List Use)
  | 0 => some []
  | n + 1 => (usesOf self nreg gang b n).bind fun us =>
      if useOk self nreg gang n (useRec b n) us then some (us ++ [useOf (useRec b n)]) else none

/-- The region record `k` as a number (R279). -/
def regRec (b : List Byte) (k : Nat) : Nat := leAt b (192 + 16 * k) 16

def regLen (r : Nat) : Nat := natBits r 64 32

def regOk (r : Nat) : Bool :=
  natBits r 112 16 == 0 && natBits r 108 4 == 0 && natBits r 99 5 == 0 && natBits r 96 2 != 0 && regLen r % 128 == 0 && regLen r ≥ 128 &&
    if r.testBit 98 then natBits r 0 64 == 0 else natBits r 0 64 % 128 == 0 && natBits r 104 4 == 0

/-- The task of a descriptor, its regions yet without runs; none is BAD_DESC (R280). -/
def taskOf (self : Nat) (b : List Byte) : Option Booking :=
  let hdr := leAt b 0 4
  let nuse := natBits hdr 8 4
  let nreg := natBits hdr 12 4
  let tiles := leAt b 4 4
  let rel := leAt b 8 8
  let deadl := leAt b 16 8
  let gang := hdr.testBit 20
  match usesOf self nreg gang b nuse with
  | none => none
  | some us =>
    let u := us.headD {}
    if natBits hdr 0 8 ≠ 1 || natBits hdr 21 11 ≠ 0 || nuse = 0 || nuse > 8 || nreg > 8 || tiles > 1536 || leAt b 24 8 = 0
        || (deadl ≠ 0 && deadl ≤ rel) || leAt b 328 184 ≠ 0 || (!gang && leAt b 320 8 ≠ 0)
        || (gang && (nuse ≠ 1 || u.cls ≠ 0 || u.bind ≠ 2)) || !((List.range nreg).all fun k => regOk (regRec b k)) then none
    else some
      { prio := natBits hdr 16 3, queue := hdr.testBit 19, isGang := gang, tiles := tiles, rel := rel, deadl := deadl, done := w64 (leAt b 56 8),
        uses := us, level := natBits hdr 16 3
        regs := (List.range nreg).map fun k => { rd := (regRec b k).testBit 96, wr := (regRec b k).testBit 97, cap := (regRec b k).testBit 98 }
        job := { ents := w64 (leAt b 24 8), entv := w64 (leAt b 32 8), entm := w64 (leAt b 40 8), pa := true, pv := leAt b 32 8 ≠ 0,
                 pm := leAt b 40 8 ≠ 0, prio := natBits hdr 16 3, bkd := true, tiles := tiles, arg := w64 (leAt b 48 8) } }

/-- The list of a gang (R292): die and core of each part. -/
def gangOf (b : List Byte) (n : Nat) : Option (List (Nat × Nat)) :=
  let l := (List.range n).map fun k => leAt b (8 + 8 * k) 8
  if l.all fun v => v < 2 ^ 20 then some (l.map fun v => (natBits v 0 15, natBits v 15 5)) else none

/-! ### Reading them (14 R351) -/

/-- Runs of physical bytes of some pieces, each a virtual address, a length and its translation. -/
def runsOf (ps : List ((Nat × Nat) × Xl)) : List (Nat × Nat) :=
  ps.foldl (fun l p =>
    let sp := match p.2.sp with
      | .hbm => 0
      | .gran => 1
      | .host => 2
    let a := sp * 2 ^ 60 + p.2.pa
    match l.getLast? with
    | some (b, n) => if b + n = a then l.dropLast ++ [(b, n + p.1.2)] else l ++ [(a, p.1.2)]
    | none => [(a, p.1.2)]) []

/-- The synchronous read of `n` bytes at `a`, over any pages: the state, and the bytes, a trap with its address, or none while an earlier
store or acquire is under way. -/
def readTask (s : State) (a : Word) (n : Nat) (k : State → List Byte → Res) : Res :=
  let w := me s
  match translateRange s w.die (.access w.core) (getCtx s w).dbg.xctx a pteRD (granules a.toNat n) with
  | (_, .error (cause, va)) => rangeRes cause va
  | (s, .ok ls) =>
    let ps := (pieces a.toNat n (granules a.toNat n)).zip ls
    if (ps.any fun p => ownStorePending s w p.2.sp p.2.pa p.1.2) || acqPending s w then .hold
    else
      let s := ps.foldl (fun s p => cacheLook (physMend s w.die p.2.sp p.2.pa p.1.2) w.die (clusterOf w) p.2.sp p.2.pa p.1.2
        (pteCA p.2.pte && !(pteBN p.2.pte))) s
      match ps.findSome? fun p => (physErr s w.die p.2.sp p.2.pa p.1.2).map fun e => (p, e) with
      | some (p, (m, j)) => .found (physDetect s w p.2.sp j m) (markCause m) (w64 (max a.toNat (p.1.1 + (j * 32 - p.2.pa))))
      | none => k s (ps.flatMap fun p => physRead s w.die p.2.sp p.2.pa p.1.2)

/-- The check of a CAP 1 region (R226 step 5): cause and address, or none. -/
def capRegion (c : Cap) (n : Nat) (rd wr : Bool) : Option (Nat × Word) :=
  let cur := capCursor c
  if !c.tag then some (6, w64 cur)
  else if !([0, 3, 4].contains (capKind c)) || (rd && !((capPerm c).testBit 0)) || (wr && !((capPerm c).testBit 1)) then some (8, w64 cur)
  else if cur < capLo c || cur + n > capHi c then some (7, w64 cur)
  else none

/-- The physical run that an export address names at its home: memory × 2^60 + address. -/
def exportRun (s : State) (d x n : Nat) : List (Nat × Nat) :=
  let v := windowAt s d (expWindow x)
  let sp := if v.kind = 3 then 1 else if v.kind = 4 then 2 else 0
  if v.v && (v.kind == 0 || v.kind == 3 || v.kind == 4) && expOffset x + n ≤ v.len then [(sp * 2 ^ 60 + v.base + expOffset x, n)] else []

/-- Check and translate the regions `k` on of a task (R351 step 3). -/
def bookRegions (w : Who) (b : List Byte) (go : State → List Region → Res) : List Region → Nat → List Region → State → Res
  | [], _, acc, s => go s acc
  | r :: t, k, acc, s =>
    let v := regRec b k
    let n := regLen v
    if r.cap then
      let cr : CapReg := ⟨natBits v 104 4, Nat.mod_lt _ (by decide)⟩
      let c := readCap (getCtx s w) cr
      capReady s [cr] [cr]
        (match capRegion c n r.rd r.wr with
         | some (cause, x) => .trap cause x
         | none =>
           let here := capPeer c == w.die
           let r' := { r with cap := !here, die := capPeer c, runs := if here then exportRun s w.die (capCursor c) n else [(capCursor c, n)] }
           bookRegions w b go t (k + 1) (acc ++ [r']) s)
    else
      let a := w64 (natBits v 0 64)
      let need := fun e => (!r.rd || pteRD e) && (!r.wr || pteWR e)
      match translateRange s w.die (.access w.core) (getCtx s w).dbg.xctx a need (granules a.toNat n) with
      | (_, .error (cause, va)) => rangeRes cause va
      | (s, .ok ls) =>
        let r' := { r with
          die := w.die, runs := runsOf ((pieces a.toNat n (granules a.toNat n)).zip ls)
          pages := (ls.map fun l => (l.asid, l.base)).eraseDups }
        bookRegions w b go t (k + 1) (acc ++ [r']) s

/-! ### Into the table (12 R274, R282, R301, R306) -/

/-- The lowest free index of a booking table (notes/assumptions/14.md). -/
def freeBk (d : Die) : Option Nat := (List.range 16384).find? fun i => getBk d i = {}

def inIntake (b : Booking) : Bool := b.st == .queued || b.st == .placing

def intakeCount (d : Die) : Nat := (d.reeve.bks.filter fun (_, b) => inIntake b).length

/-- Region entries that a die holds. -/
def regionCount (d : Die) : Nat :=
  ((d.reeve.bks.filter fun (_, b) => bkHeld b).map fun (_, b) => ((b.regs.filter fun r => !r.cap).map fun r => r.runs.length).sum).sum +
    (d.reeve.others.map fun o => o.ents.length).sum

/-- A die takes bookings: it is in P0 and its fabric time is set (R305; 17 R425). -/
def calendarsRun (d : Die) : Bool := d.power.state == 0 && d.time.set

/-- The die's intake is stopped: a drain is under way (16 R412). -/
def intakeStops (d : Die) : Bool := d.power.drain && d.power.target.isSome

/-- A task enters die `d`'s table: QUEUED, or the code that refuses it. -/
def enterTask (s : State) (d : Nat) (b : Booking) : State × Except Nat Nat :=
  let x := getDie s d
  if !(calendarsRun x) || intakeStops x then (s, .error 0x0A)
  else
    match freeBk x with
    | none => (s, .error 7)
    | some i =>
      if intakeCount x ≥ 256 then (s, .error 8)
      else
        let n := x.reeve.order
        let b := { b with st := .queued, gen := spGet 1 x.reeve.gens i, since := x.time.ftime, order := n }
        (modDie (modReeve s d fun r => { r with order := n + 1 }) d fun x => setBk x i b, .ok i)

/-- Step 4 of R351: the task is the Reeve's, its result on the way to `d`. -/
def handOver (s : State) (d : GReg) (b : Booking) : State :=
  let w := me s
  let s := issueTo s (.g d) { id := 0, w := w, kind := .result, size := 0 }
  let id := (getDie s w.die).nextId
  match enterTask s w.die { b with who := some (w, id) } with
  | (s, .ok _) => s
  | (s, .error c) => addResult s w.die id true (w64 c)

/-- The job of a booked task (R351): it belongs to the issuing job's launch.  DESIGN CHOICE (01 R11 says no more): its flat index, `lix`,
`lcnt` and `ldom` are the issuing job's, so two jobs of a launch may share a flat index (notes/assumptions/64.md). -/
def taskJob (c : Ctx) (j : Job) : Job :=
  let p := c.job.getD {}
  { p with
    ents := j.ents, entv := j.entv, entm := j.entm, pa := j.pa, pv := j.pv, pm := j.pm, prio := j.prio, bkd := true, handle := 0, gang := false,
    gstart := 0, tiles := j.tiles, arg := j.arg, svec := c.csr.svec, xctx := c.dbg.xctx }

def bookBody (d a : GReg) (s : State) : Res :=
  withOps s (wordOf (.book d a)) [.g a] [] (.g d) fun s vs =>
    let w := me s
    let x := opv vs 0
    if x.toNat % 64 ≠ 0 then .trap 0x03 x
    else
      readTask s x 512 fun s bs =>
        let bad := fun (code : Nat) => Res.ok (putDst s (.g d) (w64 code)) .seq
        match taskOf w.die bs with
        | none => bad 5
        | some b =>
          let c := getCtx s w
          let go := fun (s : State) (g : List (Nat × Nat)) =>
            if b.prio = 7 && !c.acc.sys then Res.ok (putDst s (.g d) (w64 6)) .seq
            else
              bookRegions w bs (fun s rs =>
                .ok (handOver s d { b with regs := rs, gang := g, job := taskJob c b.job, sys := c.acc.sys }) .seq) b.regs 0 [] s
          if !b.isGang then go s []
          else
            let p := w64 (leAt bs 320 8)
            readTask s p 8 fun s h =>
              let n := leNat h
              if n = 0 || n > 1048576 then bad 5
              else
                readTask s p (8 + 8 * n) fun s l =>
                  match gangOf l n with
                  | none => bad 5
                  | some g => go s g

/-- BOOK (14 R351). -/
def execBook (d a : GReg) (s : State) : Host.Outcome State Fault Refusal := runAccess s (bookBody d a)

/-- BOOK_RESULT (14 R352): word `ev.k` among those on their way on die `ev.w.die` reaches its register.  A booking's result is an order
point, and in replay the logged one is returned (13 R347). -/
def execBookResult (s : State) : Host.Outcome State Fault Refusal :=
  let d := s.ev.w.die
  match (getDie s d).reeve.results[s.ev.k]? with
  | none => .next s
  | some (id, book, v) =>
    let t := modReeve s d fun r => { r with results := r.results.eraseIdx s.ev.k }
    match accAt (getDie s d) id with
    | none => .next (if id = 0 && book then unlessHeld s (orderPoint t (homeWho d) 7 6 (bits v 8 20) (bits v 0 8 + bits v 32 32 * 2 ^ 8)) (homeWho d) 7 else t)
    | some a =>
      if !book then .next (accDone t a v)
      else
        let ch := bits v 0 8 + bits v 32 32 * 2 ^ 8
        let c := (replayChoice s (homeWho d) 7).getD ch
        let h := bits v 8 20
        let v := w64 (c % 2 ^ 8 + (if c % 2 ^ 8 = 0 || c % 2 ^ 8 = 9 then h else 0) * 2 ^ 8 + c / 2 ^ 8 % 2 ^ 32 * 2 ^ 32)
        .next (unlessHeld s (accDone (orderPoint t (homeWho d) 7 6 h c) a v) (homeWho d) 7)

/-! ### Conflicts with tentative marks (12 R290) -/

/-- The exclusive and capacity slots that a booking's uses hold, or would, on its own die. -/
def ownSlots (self : Nat) (b : Booking) : List (Bool × Nat × Nat) :=
  if b.isGang then []
  else b.uses.flatMap fun u =>
    if u.cls < 2 then u.slots.map fun t => (true, calOf u.cls u.pinst, t)
    else if u.rmt && u.rdie != self then []
    else u.slots.map fun t => (false, capCal u.cls u.pinst u.dirin, t)

/-- What another die's booking holds here. -/
def markSlots (r : RBook) : List (Bool × Nat × Nat) := r.marks.flatMap fun m => m.slots.map fun t => (m.ex, m.cal, t)

def slotsMeet (a b : List (Bool × Nat × Nat)) : Bool := a.any fun x => b.contains x

/-- Local PREPARING bookings younger than `stamp` that hold one of the slots. -/
def youngLocal (self : Nat) (d : Die) (stamp : Word) (l : List (Bool × Nat × Nat)) : List Nat :=
  (d.reeve.bks.filter fun (_, b) => bkYields b stamp && slotsMeet (ownSlots self b) l).map Prod.fst

/-- The same of other dies' bookings. -/
def youngOther (d : Die) (stamp : Word) (l : List (Bool × Nat × Nat)) : List RBook :=
  d.reeve.others.filter fun r => rbYields r stamp && slotsMeet (markSlots r) l

/-! ### The attempt of a coordinator ends (12 R289 to R291) -/

/-- The booking's uses lose their places and marks. -/
def unplaceBk (s : State) (d i : Nat) : State :=
  let b := getBk (getDie s d) i
  let s := (b.uses.zipIdx.filter fun (u, _) => u.cls < 2).foldl (fun s (_, k) => cutRun s d i k 0) s
  let s := modReeve s d fun r => { r with edges := r.edges.filter fun e => e.succ != handleOf i b }
  modBk s d i fun b => setUses b fun _ u => if u.ended then u else { u with slots := [], placed := false }

/-- BOOK's result word (14 R352). -/
def bookWord (h code first : Nat) : Word := w64 (code + h * 2 ^ 8 + first % 2 ^ 32 * 2 ^ 32)

/-- A task that gets no place: its status is returned and no booking has been (R303); one that has reported QUEUED, or a front end's, ends
as a booking does. -/
def refuseBk (s : State) (d i code : Nat) : State :=
  let b := getBk (getDie s d) i
  match b.who with
  | none => finishBk s d i code
  | some (w, id) =>
    let s := flushPend (abortParts (unplaceBk s d i) d i b) d i
    modDie (addResult s w.die id true (w64 code)) d fun x => setBk x i {}

/-- A task stays in, or comes to, intake: QUEUED, its status reported once (R282, R303). -/
def leaveInIntake (s : State) (d i : Nat) : State :=
  let b := getBk (getDie s d) i
  let s := modBk s d i fun b => { b with st := .queued, tried := true, left := true, who := none }
  match b.who with
  | some (w, id) => addResult s w.die id true (bookWord (handleOf i b) 9 0)
  | none => s

/-- A task that has found no place, with its code (R282, R303): with QUEUE 1 it stays in intake for want of restarts, horizon or context, and
for a deadline too once it has been left there before: then only the passing of DEADL ends it. -/
def noPlace (s : State) (d i code : Nat) : State :=
  let b := getBk (getDie s d) i
  if b.queue && (code = 1 || code = 2 || code = 4 || (code = 3 && b.left)) then leaveInIntake s d i else refuseBk s d i code

/-- The attempt ends: ABORT to the dies asked, the marks freed, the task back in placing.  A restart counts and raises E by `shift` (R289);
after a wound the task is placed afresh (R290). -/
def abortAttempt (s : State) (d i shift : Nat) (restart : Bool) : State :=
  let b := getBk (getDie s d) i
  let s := unplaceBk (abortParts s d i b) d i
  let s := modBk s d i fun b => { b with
    st := .placing, tried := false, parts := [], planE := if restart then b.planE + shift else 0, restarts := b.restarts + restart.toNat }
  if restart && b.restarts ≥ 16 then noPlace s d i 1 else s

/-! ### Marks of other dies (12 R289, R306) -/

/-- Enter or take away the marks of another die's booking; exclusive ones with ST `st`, 0 to free. -/
def putMarks (handle : Nat) (ms : List RMk) (st : Nat) (tent add : Bool) (d : Die) : Die :=
  ms.foldl (fun d m => m.slots.foldl (fun d t =>
    if !(onCal (d.reeve.slot) t) && !add then d
    else if m.ex then exPut d m.cal t (if add then BitVec.ofNat 25 (handle * 32 + m.use * 4 + st) else 0)
    else capAdd d m.cal t m.units tent add) d) d

/-- Free what another die's booking holds here: all of it, or one use. -/
def dropOther (s : State) (self : Nat) (o : RBook) (use : Option Nat) : State :=
  let hit := fun (m : RMk) => use.all fun u => m.use == u
  let s := modDie s self fun x => putMarks o.handle (o.marks.filter hit) 0 (!o.comm) false x
  modReeve s self fun r =>
    match use with
    | none => { r with others := r.others.filter fun x => !(x.die == o.die && x.handle == o.handle) }
    | some _ => { r with others := r.others.map fun x =>
        if x.die == o.die && x.handle == o.handle then { x with marks := x.marks.filter fun m => !(hit m) } else x }

/-- The record of another die's booking here. -/
def otherOf (d : Die) (die handle : Nat) : Option RBook := d.reeve.others.find? fun o => o.die == die && o.handle == handle

/-- Instances that a part may take, with the marks; `held` those of the parts before. -/
def grantParts (self : Nat) (d : Die) (stamp : Word) (wound : Bool) (k : Nat) : List RPart → List RMk → Option (List RMk)
  | [], acc => some acc
  | p :: t, acc =>
    let run := if k = 0 then p.slots else bookFrom p.slots.length (p.slots.headD 0 + k)
    let ok := fun (i : Nat) =>
      if p.cls < 2 then run.all fun s => !(openSlot s) && exFree d stamp wound (calOf p.cls i) s
      else
        let cal := capCal p.cls i p.dirin
        let more := ((acc.filter fun m => !m.ex && m.cal == cal).map fun m => m.units).sum
        run.all fun s => capFree d self stamp wound p.cls i p.dirin (p.dem + more) s
    match (if p.any then List.range (classInsts p.cls) else [p.inst]).find? ok with
    | none => none
    | some i =>
      let m : RMk := { use := p.use, ex := p.cls < 2, cal := if p.cls < 2 then calOf p.cls i else capCal p.cls i p.dirin, slots := run, units := p.dem }
      grantParts self d stamp wound k t (acc ++ [m])

/-- The edges onto a region asked for, with the bound they give. -/
def askedEdges (s : State) (self : Nat) (e : RegEnt) : List Edge :=
  runEdges s self e.die e.handle e.use (exportRun s self e.lo e.len) e.wr

/-- Every region's bound lies at or before the start it is asked for, `k` slots later. -/
def askedBounds (s : State) (self k : Nat) (ents : List RegEnt) : Bool :=
  ents.all fun e => ((askedEdges s self e).map (edgeEnd s)).foldl max 0 ≤ e.beg + k

/-- The marks of other dies that are tentative. -/
def tentMarks (d : Die) : Nat := (((d.reeve.others.filter fun o => !o.comm).flatMap fun o => o.marks).map fun m => m.slots.length).sum

def nackMsg (self : Nat) (p : HeldPrep) (shift code : Nat) : Msg :=
  { kind := .bkNack, src := self, dst := p.die, tag := p.handle, opnd := p.stamp, op := shift, opnd2 := w64 code }

/-- The cores of a gang's part can each bind its job. -/
def gangBinds (d : Die) (p : HeldPrep) : Bool :=
  match p.task with
  | none => true
  | some b => p.parts.all fun q => coreAllowed d (waysFor b.tiles) q.inst

/-- A PREP or a gang proposal at a die (R289 step 3, R290, R292, R306). -/
def askPrep (s : State) (self : Nat) (p : HeldPrep) : State :=
  let d := getDie s self
  let n := (p.parts.map fun q => q.slots.length).sum
  if !(calendarsRun d) || intakeStops d then send s (nackMsg self p 0 0x0A)
  else if d.time.off160 || (d.alm.rply && (replayRec (getDie s p.die) p.handle).isNone) then send s (nackMsg self p 1 0)
  else if regionCount d + p.ents.length > 32768 || (p.task.isSome && (freeBk d).isNone) then send s (nackMsg self p 0 7)
  else if tentMarks d + n > 1024 then send s (nackMsg self p 1 0)
  else if !(gangBinds d p) then send s (nackMsg self p 0 4)
  else
    match (if askedBounds s self 0 p.ents then grantParts self d p.stamp true 0 p.parts [] else none) with
    | none =>
      let fits := fun k => askedBounds s self k p.ents && (grantParts self d p.stamp false k p.parts []).isSome
      send s (nackMsg self p (((List.range 4096).map (· + 1)).find? fits |>.getD 4096) 0)
    | some ms =>
      let l := ms.flatMap fun m => m.slots.map fun t => (m.ex, m.cal, t)
      let s := (youngLocal self d p.stamp l).foldl (fun s i => abortAttempt s self i 0 false) s
      let ys := youngOther (getDie s self) p.stamp l
      if ys ≠ [] then
        let s := (ys.filter fun o => !o.wounded).foldl (fun s o =>
          send s { kind := .wound, src := self, dst := o.die, tag := o.handle, opnd := o.stamp }) s
        modReeve s self fun r => { r with
          others := r.others.map fun o => if ys.any fun y => y.die == o.die && y.handle == o.handle then { o with wounded := true } else o
          held := if r.held.contains p then r.held else r.held ++ [p] }
      else
        let es := p.ents.flatMap fun e => (exportRun s self e.lo e.len).map fun (a, m) => { e with lo := a, len := m }
        let edges : List RegEnt := (p.ents.flatMap (askedEdges s self)).map fun e => { die := e.pdie, handle := e.pred, use := e.puse, lo := e.use }
        let o : RBook := { die := p.die, handle := p.handle, stamp := p.stamp, since := slotNow s self, marks := ms, ents := es, task := p.task }
        let s := modDie s self fun x => putMarks p.handle ms 1 true true x
        let s := modReeve s self fun r => { r with others := r.others ++ [o], held := r.held.filter fun q => q != p }
        let insts := ms.map fun m => { use := m.use, cls := 2, dirin := false, any := false, inst := if m.cal < 8 then m.cal else (m.cal - 8) / 2, dem := 0, slots := [] : RPart }
        send s { kind := .bkAck, src := self, dst := p.die, tag := p.handle, opnd := p.stamp, ents := edges, parts := insts }

/-- The PREPs held at a die are tried again. -/
def retryHeld (s : State) (self : Nat) : State :=
  let l := (getDie s self).reeve.held
  let s := modReeve s self fun r => { r with held := [] }
  l.foldl (fun s p => askPrep s self p) s

/-! ### Commit (12 R281, R288) -/

/-- The Almanac records or replays: the result of a booking of the front end is an order point too, and stands among the words on their way
as number 0. -/
def almOn (d : Die) : Bool := d.alm.logging || d.alm.rply

/-- Enter a booking's marks as committed, its edges, its counts of die TLB entries (13 R313), its core and job; `tent`: its local marks
stand as tentative. -/
def commitBk (s : State) (d i : Nat) (tent : Bool) : State :=
  let b := getBk (getDie s d) i
  let us := (b.uses.zipIdx.filter fun (u, _) => exLeft u).map Prod.snd
  let s := us.foldl (fun s k => modDie s d fun x =>
    let b := getBk x i
    let l := (nthUse b k).slots
    markRun d i b k l 2 false (if tent then markRun d i b k l 0 true x else x)) s
  let h := handleOf i b
  let es := us.flatMap fun k => depEdges s d i b k
  let first := (firstPlaced b).getD {}
  let s := modReeve s d fun r => { r with edges := r.edges ++ es }
  let s := modDie s d fun x => (b.regs.flatMap fun r => r.pages).foldl (fun x p => tlbCount x p.1 p.2 true) x
  let s := modBk s d i fun b => { b with
    st := .booked, bound := !b.isGang, core := instCore first.cls first.pinst, job := { b.job with handle := h }, who := none,
    parts := b.parts.map fun p => { p with commit := true } }
  match b.who with
  | some (w, id) => addResult s w.die id true (bookWord h 0 (first.slots.headD 0))
  | none => if b.fe.isSome && almOn (getDie s d) then addResult s d 0 true (bookWord h 0 (first.slots.headD 0)) else s

/-- The region entries of a booking fit the table. -/
def regionsFit (d : Die) (b : Booking) : Bool :=
  regionCount d + ((b.regs.filter fun r => !r.cap).map fun r => r.runs.length).sum ≤ 32768

/-- The parts of a task on die `to`: remote uses and CAP 1 regions, with the slots of their anchors; of a gang, its cores there. -/
def partsFor (self i : Nat) (b : Booking) (dst : Nat) : List RPart × List RegEnt :=
  if b.isGang then
    let u := nthUse b 0
    ((b.gang.filter fun p => p.1 == dst).map fun p =>
      { use := 0, cls := 0, dirin := false, any := false, inst := p.2, dem := 0, slots := u.slots }, [])
  else
    ((b.uses.zipIdx.filter fun (u, _) => u.cls ≥ 2 && u.rmt && u.rdie == dst && u.rdie != self && !u.ended).map fun (u, k) =>
      { use := k, cls := u.cls, dirin := u.dirin, any := u.bind != 2, inst := u.inst, dem := u.dem, slots := u.slots },
     (b.regs.zipIdx.filter fun (r, _) => r.cap && r.die == dst).flatMap fun (r, k) =>
       (b.uses.zipIdx.filter fun (u, n) => u.cls < 2 && !u.ended && (useRegm b n).testBit k).flatMap fun (u, n) =>
         r.runs.map fun (a, m) =>
           { die := self, handle := handleOf i b, use := n, lo := a, len := m, rd := r.rd, wr := r.wr, beg := u.slots.headD 0 })

/-- The two-phase commit begins (R289 steps 1 and 2). -/
def prepareBk (s : State) (d i : Nat) : State :=
  let b := getBk (getDie s d) i
  let h := handleOf i b
  let dies := diesOf d b
  let s := ((b.uses.zipIdx.filter fun (u, _) => exLeft u).map Prod.snd).foldl (fun s k => modDie s d fun x =>
    markRun d i (getBk x i) k (nthUse (getBk x i) k).slots 1 true x) s
  let s := modBk s d i fun b => { b with st := .preparing, sentAt := slotNow s d, parts := dies.map fun x => { die := x } }
  dies.foldl (fun s x =>
    let p := partsFor d i b x
    send s { kind := if b.isGang then .gang else .prep, src := d, dst := x, tag := h, opnd := b.stamp, parts := p.1, ents := p.2,
             task := if b.isGang then some { uses := b.uses, tiles := b.tiles, prio := b.prio, job := b.job } else none }) s

/-! ### Intake (12 R299, R301, R303) -/

/-- Tasks in intake in the order they are served. -/
def intakeOrder (d : Die) : List Nat :=
  let l := (d.reeve.bks.filter fun (_, b) => inIntake b).map fun (i, b) => (b.level, b.order, i)
  (sortBy (fun a b => a.1 > b.1 || (a.1 == b.1 && a.2.1 ≤ b.2.1)) l).map fun x => x.2.2

/-- In replay a Reeve books what its log has, and nothing else (13 R346). -/
def unlogged (d : Die) (h : Nat) : Bool := d.alm.rply && (replayRec d h).isNone

/-- Take a task from intake: stamp, placement, commit or two-phase commit, or what becomes of it without a place (R285 to R291, R303). -/
def serveBk (s : State) (d i : Nat) : State :=
  if (getDie s d).time.off160 then s
  else
    let b := getBk (getDie s d) i
    let (s, stamp) := if b.stamp = 0 then drawStamp s d else (s, b.stamp)
    let fresh := b.st == .queued
    let s := modBk s d i fun b => { b with
      stamp := stamp, st := .placing, tried := true, restarts := if fresh then 0 else b.restarts, planE := if fresh then 0 else b.planE }
    if !(calendarsRun (getDie s d)) then refuseBk s d i 0x0A
    else if unlogged (getDie s d) (handleOf i b) then refuseBk s d i 2
    else
      match placeTask s d i with
      | .again _ => s
      | .fail c r => noPlace (modBk s d i fun b => { b with restarts := r }) d i c
      | .plan r e l =>
        let b1 := { assignPlan (getBk (getDie s d) i) l with restarts := r, planE := e }
        let own := ownSlots d b1
        let s := (youngLocal d (getDie s d) stamp own).foldl (fun s j => abortAttempt s d j 0 false) s
        let ys := youngOther (getDie s d) stamp own
        if ys ≠ [] then
          let s := (ys.filter fun o => !o.wounded).foldl (fun s o =>
            send s { kind := .wound, src := d, dst := o.die, tag := o.handle, opnd := o.stamp }) s
          let s := modReeve s d fun q => { q with
            others := q.others.map fun o => if ys.any fun y => y.die == o.die && y.handle == o.handle then { o with wounded := true } else o }
          modBk s d i fun b => { b with tried := false }
        else if !(regionsFit (getDie s d) b1) then refuseBk s d i 7
        else
          let s := modDie s d fun x => setBk x i b1
          if diesOf d b1 = [] then commitBk s d i false else prepareBk s d i

/-- Serve every task that has not been tried. -/
def serveIntake (s : State) (d : Nat) : State :=
  (intakeOrder (getDie s d)).foldl (fun s i =>
    let b := getBk (getDie s d) i
    if inIntake b && !b.tried then serveBk s d i else s) s

/-- Backfill (R299): at most `n` tasks of the intake in their order. -/
def backfill (s : State) (d n : Nat) : State :=
  ((intakeOrder (getDie s d)).take n).foldl (fun s i => if inIntake (getBk (getDie s d) i) then serveBk s d i else s) s

/-- INTAKE_AGEING (R301, R302): task `ev.k` of die `ev.w.die` has waited its level's ageing time and moves to the back of the next. -/
def execIntakeAgeing (s : State) : Host.Outcome State Fault Refusal :=
  let d := s.ev.w.die
  let x := getDie s d
  let b := getBk x s.ev.k
  let age := bits (spGet 1000 x.reeve.rvage b.level) 0 32 * 1000
  if inIntake b && b.level < 6 && age ≠ 0 && b.since + age ≤ x.time.ftime then
    .next (modReeve (modBk s d s.ev.k fun b => { b with level := b.level + 1, since := b.since + age, order := x.reeve.order }) d
      fun r => { r with order := r.order + 1 })
  else .next s

end Sys2Proof.Machine
end

