-- ==== Sys2Proof/Machine/Bundle.lean ====
section
/-!
DEFINITION. Bundles: contexts, lines at their homes, the writer and reader procedures (17 R443 to R450; 18 R462 to R470).
-/
namespace Sys2Proof.Machine
open Sys2Proof

/-! ### Instructions (18 R462 to R469) -/

/-- A BNDS of context `n` is in flight. -/
def bndsBusy (s : State) (w : Who) (n : Nat) : Bool :=
  (getDie s w.die).acc.any fun a => a.w == w && match a.kind with
    | .bnds bd _ => bd == n
    | _ => false

/-- A precise bundle fault whose `sval` the spec does not state. -/
def bundleFault (s : State) : Res := .found { s with free := s.free + 1 } 0x1A (Config.bundleVal s.free)

/-- The bytes of the area of a context opened with a MODE (R463). -/
def areaLen (mode : Nat) : Nat := if mode = 1 then 2048 else 2176

/-- BNDO (R465). -/
def execBndo (n : Fin 4) (a : GReg) (s : State) : Host.Outcome State Fault Refusal :=
  runAccess s fun s =>
    let w := me s
    withOps s (wordOf (.bndo n a)) [.g a] [] noDst fun s vs =>
      let v := opv vs 0
      let mode := bits v 23 2
      let off := bits v 0 23
      let h := bdHdr (getBd (getCtx s w) n.val)
      if v.toNat ≥ 2 ^ 30 || mode = 3 || (bit v 29 && mode ≠ 2) then .trap 0x01 (wordOf (.bndo n a))
      else readsLocs s [.bd n.val] <| if bndsBusy s w n.val then .hold
      else if mode = 0 then
        if hdrState h = 3 then .hold else .ok (modCtx s w fun c => setBd c n.val {}) .seq
      else if hdrState h ≠ 0 then .trap 0x1A v
      else if off % 128 ≠ 0 then .trap 0x03 (w64 off)
      else
        match (if off + areaLen mode > spEnd then some off else badOffset (getCtx s w) off (areaLen mode)) with
        | some x => .trap 0x04 (w64 x)
        | none =>
          let h := off / 128 * 2 ^ 5 + mode * 2 ^ 21 + bits v 25 1 * 2 ^ 23 + bits v 26 3 * 2 ^ 24 + bits v 29 1 * 2 ^ 27
          .ok (modCtx s w fun c => setBd c n.val (bdSetHdr {} h)) .seq

/-- BNDS (R466). -/
def execBnds (n : Fin 4) (cr : CapReg) (s : State) : Host.Outcome State Fault Refusal :=
  runAccess s fun s =>
    let w := me s
    let c := readCap (getCtx s w) cr
    let x := w64 (capCursor c)
    withRemote s (wordOf (.bnds n cr)) cr [] [] noDst (egressAt c x [0] 4 128) fun s _ =>
      let b := getBd (getCtx s w) n.val
      let h := bdHdr b
      readsLocs s [.bd n.val] <|
      if bndsBusy s w n.val then .hold
      else if !(hdrState h == 1 || hdrState h == 2) || hdrNl h ≥ 16 || hdrBad h then bundleFault s
      else
        let s := modCtx s w fun c => setBd c n.val (bdSetHdr b (h + 1))
        let s := issueAcc s { id := 0, w := w, kind := .bnds n.val (hdrNl h), va := x, size := 128, capv := c }
        .ok (send s { kind := .bndsReq, src := w.die, dst := capPeer c, w := w, tag := (getDie s w.die).nextId, addr := x, size := 128 }) .seq

/-- A context ready to be committed or read: not BAD, with lines, in the STATE wanted. -/
def bundleReady (h st : Nat) : Bool := !(hdrBad h) && hdrNl h != 0 && hdrState h == st

/-- The part of a BNDC's duration that its homes add (R467): the farthest one's hops and external links. -/
def bndcHops (s : State) (d : Nat) (b : Bd) : Nat :=
  ((bdLines b).map fun g => 464 * hops s d (lineDie g) + 144 * extHops s d (lineDie g)).foldl max 0

/-- The command of a BNDC of context `n`. -/
def bndcCmd (s : State) (w : Who) (n iw : Nat) : Cmd :=
  let b := getBd (getCtx s w) n
  let h := bdHdr b
  { kind := .bndc, use := hdrUse h, l := w64 (hdrBase h + 128 * hdrNl h * 2 ^ 24), a := w64 (bndcHops s w.die b), bd := n, iw := iw }

/-- BNDC (R467): its checks, and its command to the Carter. -/
def execBndc (d : GReg) (n : Fin 4) (s : State) : Host.Outcome State Fault Refusal :=
  runAccess s fun s =>
    let w := me s
    let i : Instr := .bndc d n
    withOps s (wordOf i) [] [] (.g d) fun s _ =>
      let h := bdHdr (getBd (getCtx s w) n.val)
      let k := hdrCart h
      let q := bndcCmd s w n.val ((encodeNat i).getD 0)
      readsLocs s [.bd n.val] <|
      if bndsBusy s w n.val then .hold
      else if !(bundleReady h 1) then bundleFault s
      else
        match gateFor s w q.use 1 (carterInst w k) false with
        | .bad => .trap 0x1B (wordOf i)
        | .wait => .wait 6 (gateObj (getCtx s w) q.use) (w64 (carterCycles s w.die q .hbm 0 0 * 4 + k))
        | _ =>
          if (getCq (getCtx s w) k).q.length ≥ 16 then .wait 5 0 (w64 (30 + k))
          else
            rangeOnce s (cmdOff q) (cmdLen q) false
              (let s := issueTo s (.g d) { id := 0, w := w, kind := .result, size := 0 }
               let s := modCtx s w fun c => setBd c n.val (bdSetHdr (getBd c n.val) (hdrSetState h 3))
               .ok (acceptCmd s w k { q with dest := (getDie s w.die).nextId }) .seq)

/-- Ask the homes of some lines for a version: current, or with `exact` the ones of given stamps. -/
def sendReads (s : State) (w : Who) (r : BndRd) (all : List Nat) (ls : List (Nat × Word)) (exact : Bool) : State :=
  ls.foldl (fun s (n, st) =>
    let g := all.getD n 0
    send s { kind := if exact then .readExact else .readCur, src := w.die, dst := lineDie g, w := w, tag := r.id, op := n, addr := w64 g,
             opnd := st, agent := r.attempt * 2 + r.round }) s

/-- A BNDR begins an attempt: round 1 (17 R449). -/
def bndrAttempt (s : State) (w : Who) (r : BndRd) : State :=
  let all := bdLines (getBd (getCtx s w) r.bd)
  let r := { r with round := 1, lines := [], super := false, await := List.range all.length }
  let s := modCtx s w fun c => { c with bndr := (c.bndr.filter fun x => x.id != r.id) ++ [r] }
  sendReads s w r all ((List.range all.length).map fun n => (n, 0)) false

/-- BNDR (R468): its checks; the reader procedure begins. -/
def execBndr (d : GReg) (n : Fin 4) (s : State) : Host.Outcome State Fault Refusal :=
  runAccess s fun s =>
    let w := me s
    withOps s (wordOf (.bndr d n)) [] [] (.g d) fun s _ =>
      let h := bdHdr (getBd (getCtx s w) n.val)
      readsLocs s [.bd n.val] <|
      if bndsBusy s w n.val then .hold
      else if !(bundleReady h 2) then bundleFault s
      else
        rangeOnce s (hdrBase h) 2176 true
          (let s := issueTo s (.g d) { id := 0, w := w, kind := .result, size := 0 }
           let s := modCtx s w fun c => setBd c n.val (bdSetHdr (getBd c n.val) (hdrSetState h 3))
           let ord := (getCtx s w).issued
           let s := modCtx s w fun c => { c with issued := ord + 1 }
           .ok (bndrAttempt s w { bd := n.val, id := (getDie s w.die).nextId, len := w64 (hdrBase h + 2176 * 2 ^ 24), ord := ord }) .seq)

/-- BNDQ (R469). -/
def execBndq (d : RC) (n : Fin 4) (b : Src) (s : State) : Host.Outcome State Fault Refusal :=
  runAccess s fun s =>
    let w := me s
    let i : Instr := .bndq d n b
    withOps s (wordOf i) [b] [] d fun s vs =>
      let v := (opv vs 0).toNat
      let x := getBd (getCtx s w) n.val
      if v > 16 then .trap 0x01 (wordOf i) else readsLocs s [.bd n.val] <| .ok (putDst s d (if v = 16 then w64 (bdHdr x) else bdWord x v)) .seq

/-! ### BNDS at the home and back (18 R466) -/

/-- BNDS_LINE_REQUEST: message `ev.k` at its home; the window must be a bundle window that admits BUNDLE. -/
def execBndsLineRequest (s : State) : Host.Outcome State Fault Refusal :=
  let back := fun (s : State) (m : Msg) (r : Nat) (g : Word) (cut : Bool) =>
    send s { kind := .bndsAns, src := m.dst, dst := m.src, w := m.w, tag := m.tag, op := r, addr := m.addr, opnd := g, port := cut.toNat }
  match msgOf s s.ev.k .bndsReq with
  | some m =>
    let t := dropMsg s s.ev.k
    match windowFor s m.dst m.addr 0 4 m.size with
    | some v =>
      if v.bn then
        let p := v.base + expOffset m.addr.toNat / 128 * 128
        .next (back t m 0 (w64 (m.dst % 2 ^ 15 * 2 ^ 37 + p / 2 ^ 7 % 2 ^ 37)) false)
      else .next (back t m 1 0 false)
    | none => .next (back t m 1 0 false)
  | none =>
    match msgCut s s.ev.k .bndsReq with
    | some m => .next (back (dropMsg s s.ev.k) m 2 0 true)
    | none => .next s

/-- A BNDS completes with a line address, or fails. -/
def bndsDone (s : State) (a : Access) (bd k : Nat) (g : Word) (r : Nat) : State :=
  let b := getBd (getCtx s a.w) bd
  let twice := (List.range 16).any fun n => n != k && bdLine b n == g.toNat % 2 ^ 52 && n < hdrNl (bdHdr b)
  let s :=
    if r = 0 && !twice then modCtx s a.w fun c => setBd c bd (bdSetLine b k g.toNat)
    else
      let h := bdHdr b
      modCtx s a.w fun c => addFailure (setBd c bd (bdSetHdr b (if hdrBad h then h else h + 2 ^ 28))) a.id 0x1A (remoteVal r a.va) 0
  modDie s a.w.die fun d => accDrop d a

/-- BNDS_COMPLETE: message `ev.k` brings the line's address, or a reason. -/
def execBndsComplete (s : State) : Host.Outcome State Fault Refusal :=
  let done := fun (m : Msg) (r : Nat) =>
    if !(ctxAnswers s m.w) then s
    else
      let t := dropMsg s s.ev.k
      match accAt (getDie t m.w.die) m.tag with
      | some a =>
        match a.kind with
        | .bnds bd k => bndsDone t a bd k m.opnd r
        | _ => t
      | none => t
  match msgOf s s.ev.k .bndsAns with
  | some m => .next (done m m.op)
  | none =>
    match msgCut s s.ev.k .bndsAns with
    | some m => .next (done m 2)
    | none => .next s

/-! ### Lines at their homes (17 R444, R446) -/

/-- A line at its home: the address of its data slot 0, the page's size, the slot that is current. -/
structure Line where
  a : Nat
  size : Nat
  cur : Nat
deriving DecidableEq, Repr

/-- The size of the bundle page a line lies in: that of the lowest-numbered bundle window that covers it. -/
def pageSize (s : State) (d a : Nat) : Nat :=
  ((List.range 1024).findSome? fun i =>
    if windowValid s d i then
      let v := windowAt s d i
      if v.bn && v.kind == 0 && v.base ≤ a && a < v.base + v.len then some v.len else none
    else none).getD 0

def lineAt (s : State) (d g : Nat) : Line :=
  let a := g % 2 ^ 37 * 2 ^ 7
  let n := pageSize s d a
  let m := (getDie s d).mem.hbm
  { a := a, size := n, cur := if (bnSt m (a + 3 * n)).getLsbD 6 && !((bnSt m (a + 2 * n)).getLsbD 6) then 1 else 0 }

/-- The record of slot `k` of a line: its stamp, ST, companions. -/
def slotMeta (l : Line) (k : Nat) : Nat := l.a + (2 + k) * l.size

def slotData (l : Line) (k : Nat) : Nat := l.a + k * l.size

def slotStamp (s : State) (d : Nat) (l : Line) (k : Nat) : Nat := leNat (memRead (getDie s d).mem.hbm (slotMeta l k) 8)

def slotSt (s : State) (d : Nat) (l : Line) (k : Nat) : Nat := (memGet (getDie s d).mem.hbm (slotMeta l k + 8)).toNat

def slotComps (s : State) (d : Nat) (l : Line) (k : Nat) : List Nat :=
  let v := leNat (memRead (getDie s d).mem.hbm (slotMeta l k + 16) 98)
  (List.range (slotSt s d l k % 16)).map fun i => v / 2 ^ (52 * i) % 2 ^ 52

def otherSlot (l : Line) : Nat := 1 - l.cur

/-- The current version's stamp and companions: 0 and none where neither record has CUR. -/
def curStamp (s : State) (d : Nat) (l : Line) : Nat := if (slotSt s d l l.cur).testBit 6 then slotStamp s d l l.cur else 0

def curComps (s : State) (d : Nat) (l : Line) : List Nat := if (slotSt s d l l.cur).testBit 6 then slotComps s d l l.cur else []

def setSt (s : State) (d : Nat) (l : Line) (k v : Nat) : State :=
  modMem s d fun m => hbmWrite m (slotMeta l k + 8) [BitVec.ofNat 8 v]

def setPend (s : State) (d : Nat) (f : List PendV → List PendV) : State := modDie s d fun x => { x with fab := { x.fab with pendv := f x.fab.pendv } }

/-- The pending version of a line, if it has stamp `st`. -/
def pendingIs (s : State) (d : Nat) (l : Line) (st : Nat) : Bool :=
  (slotSt s d l (otherSlot l)).testBit 5 && slotStamp s d l (otherSlot l) == st

/-- COMMIT (S) of a pending version. -/
def commitLine (s : State) (d : Nat) (l : Line) : State :=
  let o := otherSlot l
  let st := slotStamp s d l o
  let so := slotSt s d l o
  let sc := slotSt s d l l.cur
  let s := setSt s d l o (so % 2 ^ 5 + 2 ^ 6)
  let s := if sc.testBit 6 then setSt s d l l.cur (sc - 2 ^ 6) else s
  setPend s d fun p => p.filter fun x => !(x.data0 == l.a && x.stamp == w64 st)

/-- ABORT (S) of a pending version. -/
def abortLine (s : State) (d : Nat) (l : Line) : State :=
  let o := otherSlot l
  let st := slotStamp s d l o
  let s := setSt s d l o (slotSt s d l o % 2 ^ 4 + slotSt s d l o / 2 ^ 6 * 2 ^ 6)
  setPend s d fun p => p.filter fun x => !(x.data0 == l.a && x.stamp == w64 st)

/-- The answer to a bundle message. -/
def bundleAnswer (s : State) (m : Msg) (k : MKind) : Msg :=
  let _ := s
  { kind := k, src := m.dst, dst := m.src, w := m.w, agent := m.agent, tag := m.tag, op := m.op, addr := m.addr, opnd := m.opnd }

/-- PREPARE at the home. -/
def homePrepare (s : State) (m : Msg) : State :=
  let d := m.dst
  let l := lineAt s d m.addr.toNat
  let o := otherSlot l
  let st := m.opnd.toNat
  if (slotSt s d l o).testBit 5 then send s { bundleAnswer s m .bBusy with opnd2 := w64 (slotStamp s d l o) }
  else if st ≤ curStamp s d l then send s (bundleAnswer s m .bStale)
  else
    let a := slotData l o
    let s := modMem s d fun x => hbmWrite x a m.bytes
    let s := m.pois.foldl (fun s j => physPoison s d .hbm (a / 32 + j)) s
    let comps := (m.words.zipIdx.map fun (g, i) => g.toNat % 2 ^ 52 * 2 ^ (52 * i)).sum
    let s := modMem s d fun x => hbmWrite x (slotMeta l o)
      (leBytes 8 st ++ leBytes 1 (m.words.length % 16 + 2 ^ 4 + 2 ^ 5) ++ leBytes 7 0 ++ leBytes 98 comps ++ leBytes 14 0)
    let s := setPend s d fun p => p ++ [{ stamp := m.opnd, data0 := l.a, slot := o, since := slotNow s d }]
    send s (bundleAnswer s m .bAck)

/-- A message that must cross a link that is down ends with reason LINK (17 R420): its answer, made on the way. -/
def cutAnswer (s : State) (m : Msg) (k : MKind) : State := send (dropMsg s s.ev.k) { bundleAnswer s m k with opnd2 := 2, port := 1, size := 0 }

/-- A home acts on a PREPARE, a COMMIT or a READ: an order point as of any remote operation, taken in recorded order in replay (17 R453;
notes/assumptions/63.md). -/
def bundleHome (s : State) (m : Msg) (go : State → State) : State :=
  if homeLater s m then s else unlessHeld s (go (homePoint (dropMsg s s.ev.k) m.dst m true)) (homeWho m.dst) 6

/-- PREPARE (17 R446). -/
def execPrepare (s : State) : Host.Outcome State Fault Refusal :=
  match msgOf s s.ev.k .prepare, msgCut s s.ev.k .prepare with
  | some m, _ => .next (bundleHome s m fun s => homePrepare s m)
  | none, some m => .next (cutAnswer s m .bStale)
  | none, none => .next (stayMsg s .prepare)

/-- COMMIT at the home. -/
def homeCommit (s : State) (m : Msg) : State :=
  let l := lineAt s m.dst m.addr.toNat
  if pendingIs s m.dst l m.opnd.toNat then send (commitLine s m.dst l) (bundleAnswer s m .bCommitAck)
  else send s (bundleAnswer s m (if curStamp s m.dst l = m.opnd.toNat then .bCommitAck else .bCommitNack))

/-- COMMIT (17 R446). -/
def execBundleCommit (s : State) : Host.Outcome State Fault Refusal :=
  match msgOf s s.ev.k .bCommit, msgCut s s.ev.k .bCommit with
  | some m, _ => .next (bundleHome s m fun s => homeCommit s m)
  | none, some m => .next (cutAnswer s m .bCommitNack)
  | none, none => .next (stayMsg s .bCommit)

/-- ABORT (17 R446). -/
def execBundleAbort (s : State) : Host.Outcome State Fault Refusal :=
  match msgOf s s.ev.k .bAbort with
  | some m =>
    let s := dropMsg s s.ev.k
    let l := lineAt s m.dst m.addr.toNat
    let s := if pendingIs s m.dst l m.opnd.toNat then abortLine s m.dst l else s
    .next (send s (bundleAnswer s m .bAbortAck))
  | none => .next (stayMsg s .bAbort)

/-- A version as an answer: its stamp, companions, bytes and poisoned sectors. -/
def versionMsg (s : State) (m : Msg) (l : Line) (k st : Nat) (comps : List Nat) : Msg :=
  let d := m.dst
  let a := slotData l k
  { bundleAnswer s m .bData with
    opnd := w64 st, words := comps.map w64, bytes := memRead (getDie s d).mem.hbm a 128
    pois := (List.range 4).filter fun j => physMark s d .hbm (a / 32 + j) != 0 }

/-- The version sent, its sectors checked as a read checks them (13 R332). -/
def sendVersion (s : State) (m : Msg) (l : Line) (k st : Nat) (comps : List Nat) : State :=
  let a := slotData l k
  let v := versionMsg s m l k st comps
  let s := v.pois.foldl (fun s j => physDetect s (homeWho m.dst) .hbm (a / 32 + j) (physMark s m.dst .hbm (a / 32 + j))) s
  send s v

/-- READ current (17 R446). -/
def execReadCurrent (s : State) : Host.Outcome State Fault Refusal :=
  match msgOf s s.ev.k .readCur, msgCut s s.ev.k .readCur with
  | some m, _ =>
    .next (bundleHome s m fun s =>
      let l := lineAt s m.dst m.addr.toNat
      sendVersion s m l l.cur (curStamp s m.dst l) (curComps s m.dst l))
  | none, some m => .next (cutAnswer s m .superseded)
  | none, none => .next (stayMsg s .readCur)

/-- READ exact at the home: a pending version asked for is committed first. -/
def homeExact (s : State) (m : Msg) : State :=
  let d := m.dst
  let st := m.opnd.toNat
  let l := lineAt s d m.addr.toNat
  let s := if curStamp s d l ≠ st && pendingIs s d l st then commitLine s d l else s
  let l := lineAt s d m.addr.toNat
  let o := otherSlot l
  if curStamp s d l = st then sendVersion s m l l.cur st (curComps s d l)
  else if slotStamp s d l o = st && (slotSt s d l o).testBit 4 && !((slotSt s d l o).testBit 5) then
    sendVersion s m l o st (slotComps s d l o)
  else send s (bundleAnswer s m .superseded)

/-- READ exact (17 R446). -/
def execReadExact (s : State) : Host.Outcome State Fault Refusal :=
  match msgOf s s.ev.k .readExact, msgCut s s.ev.k .readExact with
  | some m, _ => .next (bundleHome s m fun s => homeExact s m)
  | none, some m => .next (cutAnswer s m .superseded)
  | none, none => .next (stayMsg s .readExact)

/-! ### The writer (17 R447) -/

/-- The BNDC that an answer is for. -/
def writerCmd (s : State) (m : Msg) : Option Cmd :=
  (waitingCmd s m.w (m.agent - 3) m.tag).bind fun q => if q.kind = .bndc && q.bw.stamp = m.opnd then some q else none

def modBw (s : State) (w : Who) (k : Nat) (f : BndW → BndW) : State := modHead s w k fun q => { q with bw := f q.bw }

/-- The backoff after the `a`-th abort, in ns. -/
def backoff (d a : Nat) : Nat := 64 * 2 ^ min a 6 + d % 64 * 4

/-- Every answer of a round is in: give way, wait for an older writer, begin anew, or COMMIT. -/
def writerRound (s : State) (w : Who) (k : Nat) : State :=
  match headCmd (getCtx s w) k with
  | none => s
  | some q =>
    let b := q.bw
    if b.await ≠ [] then s
    else if b.phase = 1 then
      match b.cut with
      | some g => modHead (sendLines s w k q .bAbort b.acked) w k fun q => { q with wait := 0, fail := 0x19, failVal := remoteVal 2 (w64 g) }
      | none =>
        if b.yield_ || b.stale then
          let s := sendLines s w k q .bAbort b.acked
          let n := b.aborts + 1
          modBw s w k fun b => { b with phase := 3, acked := [], aborts := n, until_ := ftimeNow s w.die + backoff w.die n }
        else if b.again then modBw s w k fun b => { b with phase := 4, until_ := cycNow s w.die + 64 }
        else
          let ls := List.range b.data.length
          let s := modDie s w.die fun d => { d with fab := { d.fab with won := d.fab.won ++ [b.stamp] } }
          modBw (sendLines s w k q .bCommit ls) w k fun b => { b with phase := 2, await := ls }
    else if b.phase = 2 then
      modHead s w k fun q =>
        if b.nack then { q with wait := 0, moved := true, fail := 0x1A, failVal := b.stamp }
        else { q with wait := 0, moved := true, done := cmdLen q }
    else s

/-- An answer to PREPARE. -/
def prepareAnswer (s : State) (k : MKind) (f : Msg → BndW → BndW) : State :=
  match (msgAt s s.ev.k).bind fun m => if m.kind = k then some m else none with
  | none => s
  | some m =>
    if !(ctxAnswers s m.w) then s
    else
      let t := dropMsg s s.ev.k
      match writerCmd t m with
      | none => t
      | some q =>
        if q.bw.phase ≠ 1 || !(q.bw.await.contains m.op) then t
        else writerRound (modBw t m.w (m.agent - 3) fun b => f m { b with await := b.await.erase m.op }) m.w (m.agent - 3)

/-- BUNDLE_ACK. -/
def execBundleAck (s : State) : Host.Outcome State Fault Refusal := .next (prepareAnswer s .bAck fun m b => { b with acked := b.acked ++ [m.op] })

/-- BUSY: a writer gives way to an older pending version, and waits for a younger one to be resolved. -/
def execBusy (s : State) : Host.Outcome State Fault Refusal :=
  .next (prepareAnswer s .bBusy fun m b => if b.stamp.toNat > m.opnd2.toNat then { b with yield_ := true } else { b with again := true })

/-- STALE; an answer that a down link has made names that link's line. -/
def execBundleStale (s : State) : Host.Outcome State Fault Refusal :=
  .next (prepareAnswer s .bStale fun m b => if m.opnd2 = 2 then { b with cut := some m.addr.toNat } else { b with stale := true })

/-- BUNDLE_BACKOFF: Carter `ev.b` of context `ev.w` sends PREPARE again, with a new stamp where one was STALE. -/
def execBundleBackoff (s : State) : Host.Outcome State Fault Refusal :=
  let w := s.ev.w
  let k := evCarter s
  match headCmd (getCtx s w) k with
  | none => .next s
  | some q =>
    let b := q.bw
    let due := (b.phase == 3 && b.until_ ≤ ftimeNow s w.die) || (b.phase == 4 && b.until_ ≤ cycNow s w.die)
    if !(whoOk s w) || !(ctxAnswers s w) || q.kind ≠ .bndc || !due then .next s
    else if b.phase = 3 && b.stale && !b.yield_ then
      let (s, st) := drawStamp s w.die
      .next (sendPrepare (modBw s w k fun b => { b with stamp := st }) w k)
    else .next (sendPrepare s w k)

/-- An answer to COMMIT. -/
def commitAnswer (s : State) (k : MKind) (nack : Bool) : State :=
  match (msgAt s s.ev.k).bind fun m => if m.kind = k then some m else none with
  | none => s
  | some m =>
    if !(ctxAnswers s m.w) then s
    else
      let t := dropMsg s s.ev.k
      match writerCmd t m with
      | none => t
      | some q =>
        if q.bw.phase ≠ 2 || !(q.bw.await.contains m.op) then t
        else writerRound (modBw t m.w (m.agent - 3) fun b => { b with await := b.await.erase m.op, nack := b.nack || nack }) m.w (m.agent - 3)

/-- BUNDLE_COMMIT_ACK. -/
def execBundleCommitAck (s : State) : Host.Outcome State Fault Refusal := .next (commitAnswer s .bCommitAck false)

/-- BUNDLE_COMMIT_NACK (17 R448). -/
def execBundleCommitNack (s : State) : Host.Outcome State Fault Refusal := .next (commitAnswer s .bCommitNack true)

/-- ABORT_ACK: the writer takes it and does nothing more. -/
def execAbortAck (s : State) : Host.Outcome State Fault Refusal :=
  match msgOf s s.ev.k .bAbortAck with
  | none => .next (stayMsg s .bAbortAck)
  | some _ => .next (dropMsg s s.ev.k)

/-! ### The reader (17 R449; 18 R468) -/

/-- The stamp that the other lines of the set ask of line `g`. -/
def needStamp (all : List Nat) (ls : List BndLine) (k : Nat) : Nat :=
  ((ls.filter fun x => x.comps.contains (all.getD k 0)).map fun x => x.stamp.toNat).foldl max 0

/-- Deliver the read set: bytes, poison, stamps, the status. -/
def deliverSet (s : State) (w : Who) (r : BndRd) : State :=
  let h := bdHdr (getBd (getCtx s w) r.bd)
  let off := hdrBase h
  let s := r.lines.foldl (fun s x =>
    let s := (List.range 4).foldl (fun s j =>
      let o := off + 128 * x.k + 32 * j
      let d := (x.data.drop (32 * j)).take 32
      modCore s w fun y =>
        if !(x.pois.contains j) then spWrite y o d
        else setPois (if hdrPaz h then spWrite y o zeros32 else spPoison (spWrite y o d) (o / 32)) (o / 4096)) s
    modCore s w fun y => spWrite y (off + 2048 + 8 * x.k) (wordBytes8 x.stamp)) s
  scopeAcquire s w 6

/-- A BNDR ends: its status reaches rd and the context is open again. -/
def bndrEnd (s : State) (w : Who) (r : BndRd) (code : Nat) : State :=
  let pois := code = 0 && r.lines.any fun x => x.pois ≠ []
  let s := modCtx s w fun c =>
    { setBd c r.bd (bdSetHdr (getBd c r.bd) (hdrSetState (bdHdr (getBd c r.bd)) 2)) with bndr := c.bndr.filter fun x => x.id != r.id }
  match accAt (getDie s w.die) r.id with
  | none => s
  | some a => accDone s a (w64 ((r.attempt + 1) * 2 ^ 12 + (if pois then 2 ^ 8 else 0) + code))

/-- In replay a recorded restart is taken (17 R450). -/
def replayRestart (s : State) (w : Who) (off : Nat) : Bool :=
  let a := (getDie s w.die).alm
  a.rply && a.log.head?.any fun x => recAgent x == agentKey w 0 && recKind x == 7 && recObj x == off

/-- An attempt finds a version lost: a record, and another attempt or the end. -/
def bndrRestart (s : State) (w : Who) (r : BndRd) : State :=
  let off := hdrBase (bdHdr (getBd (getCtx s w) r.bd))
  let s := orderPoint s w 0 7 off (r.attempt + 1)
  if r.attempt ≥ 7 then bndrEnd s w r 1 else bndrAttempt s w { r with attempt := r.attempt + 1 }

/-- The end of a round. -/
def readerRound (s : State) (w : Who) (r : BndRd) : State :=
  let all := bdLines (getBd (getCtx s w) r.bd)
  let off := hdrBase (bdHdr (getBd (getCtx s w) r.bd))
  if r.await ≠ [] then s
  else
    let done := fun (s : State) =>
      if r.super || replayRestart s w off then bndrRestart s w r else bndrEnd (deliverSet s w r) w r 0
    if r.round = 1 then
      let need := (r.lines.map fun x => (x.k, needStamp all r.lines x.k, x.stamp.toNat)).filter fun (_, q, t) => t < q
      if need = [] then done s
      else
        let r := { r with round := 2, await := need.map fun x => x.1 }
        let s := modCtx s w fun c => { c with bndr := c.bndr.map fun x => if x.id = r.id then r else x }
        sendReads s w r all (need.map fun x => (x.1, w64 x.2.1)) true
    else done s

/-- BNDR_ROUND_COMPLETE (17 R449): message `ev.k` brings a version, or that it is lost; with the last one the round ends.  A message that a
down link has ended fails the BNDR. -/
def execBndrRoundComplete (s : State) : Host.Outcome State Fault Refusal :=
  match (msgAt s s.ev.k).bind fun m => if m.kind = .bData || m.kind = .superseded then some m else none with
  | none => .next s
  | some m =>
    if !(ctxAnswers s m.w) then .next s
    else
      let t := dropMsg s s.ev.k
      match (getCtx t m.w).bndr.find? fun r => r.id == m.tag with
      | none => .next t
      | some r =>
        if m.agent ≠ r.attempt * 2 + r.round || !(r.await.contains m.op) then .next t
        else if m.kind = .superseded && m.opnd2 = 2 then
          let t := modCtx t m.w fun c =>
            addFailure { setBd c r.bd (bdSetHdr (getBd c r.bd) (hdrSetState (bdHdr (getBd c r.bd)) 2)) with
              bndr := c.bndr.filter fun x => x.id != r.id } r.id 0x19 (remoteVal 2 m.addr) 0
          .next (modDie t m.w.die fun d => { d with acc := d.acc.filter fun a => a.id != r.id })
        else
          let line : BndLine := { k := m.op, stamp := m.opnd, data := m.bytes, comps := m.words.map BitVec.toNat, pois := m.pois }
          let r := { r with
            await := r.await.erase m.op
            super := r.super || m.kind == .superseded
            lines := if m.kind = .superseded then r.lines else (r.lines.filter fun x => x.k != m.op) ++ [line] }
          let t := modCtx t m.w fun c => { c with bndr := c.bndr.map fun x => if x.id = r.id then r else x }
          .next (unlessHeld s (readerRound t m.w r) m.w 0)

/-! ### Outcomes (17 R448) -/

/-- PENDING_VERSION_TIMEOUT: pending version `ev.k` of die `ev.w.die` has stood for 64 slots; the die of its stamp is asked. -/
def execPendingVersionTimeout (s : State) : Host.Outcome State Fault Refusal :=
  let d := s.ev.w.die
  match (getDie s d).fab.pendv[s.ev.k]? with
  | none => .next s
  | some p =>
    if p.asked || slotNow s d < p.since + 64 then .next s
    else
      let g := w64 (d % 2 ^ 15 * 2 ^ 37 + p.data0 / 2 ^ 7 % 2 ^ 37)
      let s := setPend s d fun l => l.set s.ev.k { p with asked := true, since := slotNow s d }
      .next (send s { kind := .query, src := d, dst := bits p.stamp 5 15, addr := g, opnd := p.stamp })

/-- OUTCOME_QUERY at the die of the stamp. -/
def execOutcomeQuery (s : State) : Host.Outcome State Fault Refusal :=
  match msgOf s s.ev.k .query with
  | none => .next (stayMsg s .query)
  | some m =>
    let k := if (getDie s m.dst).fab.won.contains m.opnd then MKind.committed else .unknown
    .next (send (dropMsg s s.ev.k) { kind := k, src := m.dst, dst := m.src, addr := m.addr, opnd := m.opnd })

/-- COMMITTED: the home commits the version. -/
def execCommitted (s : State) : Host.Outcome State Fault Refusal :=
  match msgOf s s.ev.k .committed with
  | none => .next (stayMsg s .committed)
  | some m =>
    let s := dropMsg s s.ev.k
    let l := lineAt s m.dst m.addr.toNat
    .next (if pendingIs s m.dst l m.opnd.toNat then commitLine s m.dst l else s)

/-- UNKNOWN: the home aborts the version. -/
def execUnknown (s : State) : Host.Outcome State Fault Refusal :=
  match msgOf s s.ev.k .unknown with
  | none => .next (stayMsg s .unknown)
  | some m =>
    let s := dropMsg s s.ev.k
    let l := lineAt s m.dst m.addr.toNat
    .next (if pendingIs s m.dst l m.opnd.toNat then abortLine s m.dst l else s)

/-- OUTCOME_TIMEOUT: pending version `ev.k` of die `ev.w.die` has had no answer for a further 64 slots: aborted, a machine check of
kind 6. -/
def execOutcomeTimeout (s : State) : Host.Outcome State Fault Refusal :=
  let d := s.ev.w.die
  match (getDie s d).fab.pendv[s.ev.k]? with
  | none => .next s
  | some p =>
    if !p.asked || slotNow s d < p.since + 64 then .next s
    else
      let l := lineAt s d (p.data0 / 2 ^ 7)
      .next (machineCheck (abortLine s d l) (homeWho d) 6 4 false p.data0 0)

end Sys2Proof.Machine
end

