-- ==== Sys2Proof/Machine/Csr.lean ====
section
/-!
DEFINITION. Control and status registers (01 R13, R34, R37, R38; 02 R50; 04 R112 to R115, R117, R121; 12 R302; 13 R312, R338; 14 R362 to
R369).
-/
namespace Sys2Proof.Machine
open Sys2Proof

/-! ### FEAT leaves (04 R116, R117) -/

def featWord (s : State) (w : Who) (leaf : Nat) : Word :=
  match leaf with
  | 0 => 0x03010303
  | 1 => w64 ((if (List.range 4).any fun g => granCap (getPkg s (pkgOf w.die)) g ≠ 0 then 2 ^ 36 else 0) + 0xF * 2 ^ 32 + 0x01FE * 2 ^ 16 + 0x7FFF)
  | 2 => w64 (16 * 2 ^ 48 + 16 * 2 ^ 40 + 0x600 * 2 ^ 24 + 8 * 2 ^ 16 + 4 * 2 ^ 8 + 8)
  | 3 => w64 (w.ctx % 2 * 2 ^ 20 + dieZ w.die * 2 ^ 15 + dieY w.die * 2 ^ 10 + dieX w.die * 2 ^ 5 + w.core)
  | _ => 0

/-! ### Status words (01 R13) -/

/-- The use index of a tagged instruction: a Mill array instruction or a Carter command, which also names its Carter. -/
def tagOfInstr : Instr → Option (Nat × Nat)
  | .mstep f => some (f.use, 0)
  | .mclr f => some (f.use, 0)
  | .mlda f => some (f.use, 0)
  | .msta f => some (f.use, 0)
  | .mswap f => some (f.use, 0)
  | .mpro f => some (f.use, 0)
  | .mepi f => some (f.use, 0)
  | .cpy _ _ _ u k _ => some (u.val, k.toNat)
  | .cpyg _ _ _ u k _ => some (u.val, k.toNat)
  | .cpys _ _ _ u k _ => some (u.val, k.toNat)
  | .cpym _ _ _ u k _ => some (u.val, k.toNat)
  | .tsend _ _ _ u k _ => some (u.val, k.toNat)
  | .tget _ _ _ u k _ => some (u.val, k.toNat)
  | _ => none

/-- The use index of the instruction at the head of a stream, if it is tagged, and whether the gate for it is open.  The access core reads its own
status word at an untagged head; a save shows it as it stands. -/
def headUse (s : State) (w : Who) (e : Eng) : Option (Nat × Bool) :=
  match e with
  | .loom => none
  | _ => ((headInstr s w e).bind tagOfInstr).map fun (u, k) =>
      (u, if e = .mill then gateFor s w u 0 (millInst w) false == .opened else gateFor s w u 1 (carterInst w k) false == .opened)

def statWord (s : State) (w : Who) (e : Eng) : Word :=
  let c := getCtx s w
  let t := getStat c e
  let j := c.job.getD {}
  let use := headUse s w e
  let gate := j.bkd && (use.map Prod.snd).getD false
  let f := fun (b : Bool) (k : Nat) => if b then 2 ^ k else 0
  w64 (t.cause.toNat * 2 ^ 48 + (if t.st = .wait then t.wkind.toNat else 0) * 2 ^ 44 + stateCode t.st * 2 ^ 40 +
    ((use.map Prod.fst).getD 0) % 8 * 2 ^ 37 + f gate 36 + (if j.bkd then j.handle % 2 ^ 20 else 0) * 2 ^ 12 + f j.bkd 11 + w.ctx % 2 * 2 ^ 10 +
    f (e == .access && c.acc.sys) 9 + f (e == .access && c.acc.uli) 8 + f t.sstep 7 + f t.bps 6 + f (t.st == .stop) 5 +
    f t.quit 4 + f c.halted 3)

/-! ### Which numbers name a register (04 R113, 14 R362) -/

def csrNamed (n : Nat) : Bool :=
  n ≤ 4 || (8 ≤ n && n ≤ 0xA) || (0x10 ≤ n && n ≤ 0x14) || n == 0x18 || n == 0x19 || n == 0x20 ||
    n == 0x800 || n == 0x801 || (0x808 ≤ n && n ≤ 0x821) || (0x1000 ≤ n && n ≤ 0x1007) || n == 0x1800 ||
    n == 0x1100 || (0x1108 ≤ n && n ≤ 0x1118) || (0x1120 ≤ n && n ≤ 0x1122) || (0x1128 ≤ n && n ≤ 0x112D) ||
    (0x1130 ≤ n && n ≤ 0x1135) || (0x1140 ≤ n && n ≤ 0x115F) || (0x1160 ≤ n && n ≤ 0x1165) || n == 0x1170 ||
    (0x1930 ≤ n && n ≤ 0x1935) || (0x1938 ≤ n && n ≤ 0x193D) || n == 0x1970 || n == 0x1971 || n == 0x1990

/-- The space of a number: 0 job, 1 job read-only, 2 system, 3 system read-only (02 R50). -/
def csrSpace (n : Nat) : Nat := n / 2 ^ 11 % 4

/-! ### Reading -/

/-- `sctl` (04 R114). -/
def sctlWord (c : CsrSt) : Word := (if c.snj then 4 else 0) + (if c.pm then 2 else 0) + (if c.te then 1 else 0)

/-- `almst` (14 R368). -/
def almstWord (a : AlmSt) : Word := (if a.div then 4 else 0) + (if a.rply then 2 else 0) + (if a.logging then 1 else 0)

/-- The space-0 and space-1 registers. -/
def csrReadJob (s : State) (w : Who) (n : Nat) : Word :=
  let c := getCtx s w
  let v := c.csr
  let p := (c.job.getD {}).place
  if n = 0 then statWord s w .access
  else if n = 1 then statWord s w .loom
  else if n = 2 then statWord s w .mill
  else if n = 3 then c.loom.pc
  else if n = 4 then c.mill.pc
  else if n = 8 then v.srkey
  else if n = 9 then v.srcv
  else if n = 0xA then v.srcm
  else if n = 0x10 then v.ulvec
  else if n = 0x11 then v.ulepc
  else if n = 0x12 then v.ulcause
  else if n = 0x13 then v.ulval
  else if n = 0x14 then v.uleng
  else if n = 0x18 then v.evmask
  else if n = 0x19 then v.evpend
  else if n = 0x20 then v.chlim
  else if n = 0x800 then w64 (cycNow s w.die) - v.cycOff
  else if n = 0x801 then v.instret
  else if n < 0x810 then spGet 0 p.lix (n - 0x808)
  else if n < 0x818 then spGet 1 p.lcnt (n - 0x810)
  else if n < 0x820 then spGet 0 p.ldom (n - 0x818)
  else if n = 0x820 then w64 c.acc.loops.length
  else match c.acc.loops with
    | [] => 0
    | l :: _ => l.count

/-- The registers of the system spaces. -/
def csrReadSys (s : State) (w : Who) (n : Nat) : Word :=
  let c := getCtx s w
  let d := getDie s w.die
  let t := d.trace
  if n = 0x1000 then c.csr.sepc
  else if n = 0x1001 then c.csr.scause
  else if n = 0x1002 then c.csr.sval
  else if n = 0x1003 then c.csr.seng
  else if n = 0x1004 then sctlWord c.csr
  else if n = 0x1005 then c.csr.svec
  else if n = 0x1006 then c.csr.uldel
  else if n = 0x1007 then c.csr.sscratch
  else if n = 0x1800 then featWord s w 3
  else if n = 0x1100 then (getCore s w).dbgctl
  else if n < 0x1110 then spGet 0 c.dbg.ibp (n - 0x1108)
  else if n < 0x1118 then (if n % 2 = 0 then spGet 0 c.dbg.wpb ((n - 0x1110) / 2) else spGet 0 c.dbg.wpm ((n - 0x1110) / 2))
  else if n = 0x1118 then c.dbg.xctx
  else if n = 0x1120 then t.trcctl
  else if n = 0x1121 then t.wthr
  else if n = 0x1122 then t.smpper
  else if n < 0x1130 then spGet 0x10 t.rgbase (n - 0x1128)
  else if n < 0x1140 then spGet 0 t.rgrdp (n - 0x1130)
  else if n < 0x1150 then spGet 0 t.evsel (n - 0x1140)
  else if n < 0x1160 then spGet 0 t.evcnt (n - 0x1150)
  else if n < 0x1170 then spGet 0x3E8 d.reeve.rvage (n - 0x1160)
  else if n = 0x1170 then c.dbg.snapsel
  else if n < 0x1938 then spGet 0 t.rgwrp (n - 0x1930)
  else if n < 0x1970 then spGet 0 t.rgdrop (n - 0x1938)
  else if n = 0x1970 then snaptWord d
  else if n = 0x1971 then snapdatWord d w.core c.dbg.snapsel
  else almstWord d.alm

def csrRead (s : State) (w : Who) (n : Nat) : Word := if n < 0x1000 then csrReadJob s w n else csrReadSys s w n

/-! ### Writing: each class of registers in an operation of its own -/

/-- How a CSR instruction writes: the value, the bits set, the bits cleared (04 R112). -/
inductive CsrOp where
  | write | set | clear
deriving DecidableEq, Repr

def csrNew (o : CsrOp) (old x : Word) : Word :=
  match o with
  | .write => x
  | .set => old ||| x
  | .clear => old &&& ~~~x

/-- Write-1-to-clear bits that a write clears: x itself, and none for CSRC. -/
def w1cBits (o : CsrOp) (x : Word) : Word := if o = .clear then 0 else x

/-- What a write answers: a cause, or the state. -/
abbrev CsrRes := Except Nat State

/-- A stopped stream goes on, or is done (01 R37). -/
def resumeStream (c : Ctx) (e : Eng) : Ctx :=
  let t := getStat c e
  if t.quit then raiseEv (setStat c e { t with st := .done, quit := false }) 5
  else setStat c e { t with st := .run }

/-- A write to `astat`, `vstat` or `mstat` (01 R13, R37). -/
def writeStat (s : State) (w : Who) (e : Eng) (o : CsrOp) (x : Word) : CsrRes :=
  let c := getCtx s w
  let t := getStat c e
  let new := csrNew o (statWord s w e) x
  if !c.acc.sys && (bit new 7 != t.sstep || bit new 6 != t.bps) then .error 0x02
  else
    let c := setStat c e { t with sstep := bit new 7, bps := bit new 6, quit := bit new 4 }
    let c := if e ≠ .access && t.st == .stop && bit (w1cBits o x) 5 then resumeStream c e else c
    .ok (setCtx s w c)

/-- A write to `vpc` or `mpc` (01 R38); a write to `mpc` sets `mrp` to 0 (07 R193). -/
def writePc (s : State) (w : Who) (e : Eng) (v : Word) : State :=
  modCtx s w fun c =>
    if (getStat c e).st == .stop then
      let c := setPc c e v
      if e = .mill then { c with mill := { c.mill with mrp := 0 } } else c
    else c

def modCsr (s : State) (w : Who) (f : CsrSt → CsrSt) : State := modCtx s w fun c => { c with csr := f c.csr }

def writeEvpend (s : State) (w : Who) (o : CsrOp) (x : Word) : State :=
  modCsr s w fun v => { v with evpend := v.evpend &&& ~~~(w1cBits o x) }

/-- `chlim` (04 R113). -/
def writeChlim (s : State) (w : Who) (v : Word) : State :=
  modCsr s w fun c => { c with chlim := if v = 0 ∨ bits v 32 32 ≠ 0 then 0xFFFFFFFF else v }

/-- `srkey`, `srcv`, `srcm` (04 R115). -/
def writeRounding (s : State) (w : Who) (n : Nat) (v : Word) : State :=
  modCsr s w fun c => if n = 8 then { c with srkey := v } else if n = 9 then { c with srcv := v } else { c with srcm := v }

/-- The causes of `uldel` that are always writable (01 R34). -/
def uldelMask : Word := 0x0780FE00

/-- The bits of `uldel` that a core lets stand: that of 0x14 only while WPUL is 1 (01 R34). -/
def uldelBits (y : Core) : Word := if bit y.dbgctl 1 then uldelMask ||| 0x00100000 else uldelMask

def maskUldel (y : Core) (c : Ctx) : Ctx := { c with csr := { c.csr with uldel := c.csr.uldel &&& uldelBits y } }

/-- `uldel` (01 R34). -/
def writeUldel (s : State) (w : Who) (v : Word) : State :=
  modCsr s w fun c => { c with uldel := v &&& uldelBits (getCore s w) }

/-- `dbgctl` (14 R363): writing 0 to WPUL clears the `uldel` bit of 0x14, in both contexts of the core. -/
def writeDbgctl (s : State) (w : Who) (v : Word) : State :=
  let off := fun (c : Ctx) => { c with csr := { c.csr with uldel := c.csr.uldel &&& ~~~(0x00100000 : Word) } }
  modCore s w fun y =>
    let y := { y with dbgctl := v &&& 7 }
    if bit v 1 then y else { y with k0 := off y.k0, k1 := off y.k1 }

def modTrace (s : State) (d : Nat) (f : TraceSt → TraceSt) : State := modDie s d fun x => { x with trace := f x.trace }

/-- `rgbase` (14 R366). -/
def writeRgbase (s : State) (w : Who) (k : Nat) (v : Word) : CsrRes :=
  let lg := bits v 0 6
  let base := bits v 16 36 * 2 ^ 16
  if lg < 16 || 34 < lg || base % 2 ^ lg ≠ 0 then .error 0x01
  else if k = 5 && (getDie s w.die).alm.logging then .ok s
  else .ok (modTrace s w.die fun t => { t with
    rgbase := spSet 0x10 t.rgbase k (w64 (base + lg)), rgrdp := spSet 0 t.rgrdp k 0, rgwrp := spSet 0 t.rgwrp k 0 })

/-- `rgrdp` (14 R366): a byte offset into the ring, a whole number of records.  While the Almanac records, `rgrdp5` only advances. -/
def writeRgrdp (s : State) (w : Who) (k : Nat) (v : Word) : State :=
  let d := getDie s w.die
  let size := ringSize d k
  let n := v.toNat % size / ringRec k * ringRec k
  let old := (spGet 0 d.trace.rgrdp k).toNat
  let wp := (spGet 0 d.trace.rgwrp k).toNat
  if k = 5 && d.alm.logging && (wp + size - old) % size < (n + size - old) % size then s
  else modTrace s w.die fun t => { t with rgrdp := spSet 0 t.rgrdp k (w64 n) }

/-- `evsel` (13 R338). -/
def writeEvsel (s : State) (w : Who) (k : Nat) (o : CsrOp) (x : Word) : State :=
  modTrace s w.die fun t =>
    let old := spGet 0 t.evsel k
    let rw : Word := 0x00000BFFFFFFFFFF
    let ovf := bit old 42 && !(bit (w1cBits o x) 42)
    { t with evsel := spSet 0 t.evsel k (setBit (csrNew o old x &&& rw) 42 ovf) }

/-- The registers without behaviour of their own. -/
def writePlain (s : State) (w : Who) (n : Nat) (v : Word) : CsrRes :=
  let csr := fun f => (.ok (modCsr s w f) : CsrRes)
  let dbg := fun (f : DebugSt → DebugSt) => (.ok (modCtx s w fun c => { c with dbg := f c.dbg }) : CsrRes)
  let tr := fun f => (.ok (modTrace s w.die f) : CsrRes)
  if n = 0x10 then csr fun c => { c with ulvec := v &&& ~~~3 }
  else if n = 0x11 then csr fun c => { c with ulepc := v }
  else if n = 0x12 then csr fun c => { c with ulcause := v &&& 0xFF }
  else if n = 0x13 then csr fun c => { c with ulval := v }
  else if n = 0x14 then csr fun c => { c with uleng := v }
  else if n = 0x18 then csr fun c => { c with evmask := v }
  else if n = 0x1000 then csr fun c => { c with sepc := v }
  else if n = 0x1001 then csr fun c => { c with scause := v &&& 0xFF }
  else if n = 0x1002 then csr fun c => { c with sval := v }
  else if n = 0x1003 then csr fun c => { c with seng := v }
  else if n = 0x1004 then csr fun c => { c with snj := bit v 2, pm := bit v 1, te := bit v 0 }
  else if n = 0x1005 then csr fun c => { c with svec := v &&& ~~~3 }
  else if n = 0x1007 then csr fun c => { c with sscratch := v }
  else if 0x1108 ≤ n && n < 0x1110 then dbg fun b => { b with ibp := spSet 0 b.ibp (n - 0x1108) v }
  else if 0x1110 ≤ n && n < 0x1118 then
    dbg fun b => if n % 2 = 0 then { b with wpb := spSet 0 b.wpb ((n - 0x1110) / 2) v } else { b with wpm := spSet 0 b.wpm ((n - 0x1110) / 2) v }
  else if n = 0x1118 then dbg fun b => { b with xctx := v &&& 0x000FFFFFFFFFFFFF }
  else if n = 0x1120 then tr fun t => { t with trcctl := v &&& 0xF }
  else if n = 0x1121 then tr fun t => { t with wthr := v &&& 0xFFFFFFFF }
  else if n = 0x1122 then tr fun t => { t with smpper := v &&& 0xFFFFFFFF, smpAt := cycNow s w.die }
  else if 0x1150 ≤ n && n < 0x1160 then tr fun t => { t with evcnt := spSet 0 t.evcnt (n - 0x1150) (v &&& 0x0000FFFFFFFFFFFF) }
  else if 0x1160 ≤ n && n < 0x1166 then
    .ok (modDie s w.die fun d => { d with reeve := { d.reeve with rvage := spSet 0x3E8 d.reeve.rvage (n - 0x1160) (v &&& 0xFFFFFFFF) } })
  else if n = 0x1170 then (if bits v 20 44 ≠ 0 then .error 0x01 else dbg fun b => { b with snapsel := v })
  else .ok s

/-- A write to any register (04 R112). -/
def csrWrite (s : State) (w : Who) (n : Nat) (o : CsrOp) (x : Word) : CsrRes :=
  let new := csrNew o (csrRead s w n) x
  if n = 0 then writeStat s w .access o x
  else if n = 1 then writeStat s w .loom o x
  else if n = 2 then writeStat s w .mill o x
  else if n = 3 then .ok (writePc s w .loom new)
  else if n = 4 then .ok (writePc s w .mill new)
  else if 8 ≤ n && n ≤ 0xA then .ok (writeRounding s w n new)
  else if n = 0x19 then .ok (writeEvpend s w o x)
  else if n = 0x20 then .ok (writeChlim s w new)
  else if n = 0x1006 then .ok (writeUldel s w new)
  else if n = 0x1100 then .ok (writeDbgctl s w new)
  else if 0x1128 ≤ n && n < 0x112E then writeRgbase s w (n - 0x1128) new
  else if 0x1130 ≤ n && n < 0x1136 then .ok (writeRgrdp s w (n - 0x1130) new)
  else if 0x1140 ≤ n && n < 0x1150 then .ok (writeEvsel s w (n - 0x1140) o x)
  else writePlain s w n new

/-! ### The instructions -/

/-- The mode and the space admit the access (02 R50). -/
def csrAllowed (c : Ctx) (n : Nat) (wr : Bool) : Bool := !((csrSpace n ≥ 2 && !c.acc.sys) || (wr && csrSpace n % 2 == 1))

/-- CSRR (04 R112); reading `cycle` is a timing read (13 R342). -/
def execCsrr (d : RC) (c : BitVec 13) (s : State) : Host.Outcome State Fault Refusal :=
  runAccess s fun s =>
    if !(csrNamed c.toNat) then .trap 0x01 (wordOf (.csrr d c))
    else
      withPriv (csrAllowed (getCtx s (me s)) c.toNat false) (fun _ => false) s (wordOf (.csrr d c)) [] [] d fun s _ =>
        let v := csrRead s (me s) c.toNat
        if c.toNat = 0x800 then putTiming s d v else .ok (putDst s d v) .seq

/-- The value that a write would give the register is illegal. -/
def csrIllegal : CsrRes → Bool
  | .error cause => cause == 0x01
  | .ok _ => false

/-- CSRW, CSRS, CSRC (04 R112). -/
def csrBody (i : Instr) (o : CsrOp) (d a : RC) (c : BitVec 13) (s : State) : Res :=
  if !(csrNamed c.toNat) then .trap 0x01 (wordOf i)
  else
    let bad := fun vs => csrIllegal (csrWrite s (me s) c.toNat o (opv vs 0))
    withPriv (csrAllowed (getCtx s (me s)) c.toNat true) bad s (wordOf i) [rcSrc a] [] d fun s vs =>
      let old := csrRead s (me s) c.toNat
      match csrWrite s (me s) c.toNat o (opv vs 0) with
      | .error cause => .trap cause (wordOf i)
      | .ok s => .ok (putDst s d old) .seq

def execCsrw (d a : RC) (c : BitVec 13) (s : State) : Host.Outcome State Fault Refusal :=
  runAccess s (csrBody (.csrw d a c) .write d a c)

def execCsrs (d a : RC) (c : BitVec 13) (s : State) : Host.Outcome State Fault Refusal :=
  runAccess s (csrBody (.csrs d a c) .set d a c)

def execCsrc (d a : RC) (c : BitVec 13) (s : State) : Host.Outcome State Fault Refusal :=
  runAccess s (csrBody (.csrc d a c) .clear d a c)

/-! ### The writes as steps of their own (95): context `ev.w`, register `ev.k`, value `ev.v`; `ev.n` is 0 a write, 1 a set, 2 a clear -/

def evOp (n : Nat) : CsrOp := if n = 0 then .write else if n = 1 then .set else .clear

/-- A write of a register of the given class; one that the register refuses changes nothing. -/
def csrEvent (s : State) (cls : Nat → Bool) : Host.Outcome State Fault Refusal :=
  if whoOk s s.ev.w && cls s.ev.k then
    match csrWrite s s.ev.w s.ev.k (evOp s.ev.n) s.ev.v with
    | .ok t => .next t
    | .error _ => .next s
  else .next s

def execStatusWordWrite (s : State) : Host.Outcome State Fault Refusal := csrEvent s fun n => n ≤ 2

def execStreamPcWrite (s : State) : Host.Outcome State Fault Refusal := csrEvent s fun n => n == 3 || n == 4

def execEvpendWrite (s : State) : Host.Outcome State Fault Refusal := csrEvent s fun n => n == 0x19

def execChlimWrite (s : State) : Host.Outcome State Fault Refusal := csrEvent s fun n => n == 0x20

def execRoundingKeyWrite (s : State) : Host.Outcome State Fault Refusal := csrEvent s fun n => 8 ≤ n && n ≤ 0xA

def execUldelWrite (s : State) : Host.Outcome State Fault Refusal := csrEvent s fun n => n == 0x1006

def execDbgctlWrite (s : State) : Host.Outcome State Fault Refusal := csrEvent s fun n => n == 0x1100

def execRgbaseWrite (s : State) : Host.Outcome State Fault Refusal := csrEvent s fun n => 0x1128 ≤ n && n < 0x112E

def execRgrdpWrite (s : State) : Host.Outcome State Fault Refusal := csrEvent s fun n => 0x1130 ≤ n && n < 0x1136

def execEvselWrite (s : State) : Host.Outcome State Fault Refusal := csrEvent s fun n => 0x1140 ≤ n && n < 0x1150

/-- A register without behaviour of its own. -/
def plainCsr (n : Nat) : Bool :=
  csrNamed n && csrSpace n % 2 == 0 && !(n ≤ 4 || (8 ≤ n && n ≤ 0xA) || n == 0x19 || n == 0x20 || n == 0x1006 || n == 0x1100 ||
    (0x1128 ≤ n && n < 0x112E) || (0x1130 ≤ n && n < 0x1136) || (0x1140 ≤ n && n < 0x1150))

def execRegisterWrite (s : State) : Host.Outcome State Fault Refusal := csrEvent s plainCsr

end Sys2Proof.Machine
end

