-- ==== Sys2Proof/Machine/Image.lean ====
section
/-!
DEFINITION. The context area: its coding, its layout, and reading it back (05 R153; 07 R199; 13 R321 to R324).  A byte of the image
carries a mark for poison; what the spec leaves out of the layout is in notes/assumptions/15.md.
-/
namespace Sys2Proof.Machine
open Sys2Proof

/-! ### Coding (13 R323) -/

/-- A byte and whether its sector is poisoned. -/
abbrev MByte := Byte × Bool

/-- A sector of raw bytes and whether it is poisoned. -/
abbrev MSec := List Byte × Bool

def plainBytes (bs : List Byte) : List MByte := bs.map fun b => (b, false)

/-- Cut `n` pieces of 32 bytes, zeros beyond the end. -/
def cut32 : Nat → List Byte → List (List Byte)
  | 0, _ => []
  | n + 1, bs => (bs.take 32 ++ List.replicate (32 - bs.length) 0) :: cut32 n (bs.drop 32)

/-- The raw sectors of `n` blocks of 4 KiB. -/
def rawSecs (n : Nat) (bs : List Byte) : List MSec := (cut32 (128 * n) bs).map fun b => (b, false)

/-- A sector's code and payload; `prev` is the sector before it in the block. -/
def codeSec (prev : Option MSec) (x : MSec) : Nat × List MByte :=
  if x.2 then (3, x.1.map fun b => (b, true))
  else if x.1 = List.replicate 32 0 then (0, [])
  else if prev = some x then (1, [])
  else if x.1 = (List.replicate 8 (x.1.take 4)).flatten then (2, plainBytes (x.1.take 4))
  else (3, plainBytes x.1)

def codeSecs : Option MSec → List MSec → List (Nat × List MByte)
  | _, [] => []
  | prev, x :: t => codeSec prev x :: codeSecs (some x) t

/-- Zero bytes up to a multiple of `k`. -/
def padTo (k n : Nat) : Nat := (k - n % k) % k

/-- A block of 128 sectors: 32 code bytes and the payload. -/
def codeBlock (xs : List MSec) : List MByte :=
  let cs := codeSecs none xs
  let pay := cs.flatMap Prod.snd
  plainBytes (leBytes 32 (cs.foldr (fun c n => c.1 + 4 * n) 0)) ++ pay ++ plainBytes (List.replicate (padTo 32 pay.length) 0)

/-- A section of `n` blocks. -/
def codeSection : Nat → List MSec → List MByte
  | 0, _ => []
  | n + 1, xs => codeBlock (xs.take 128) ++ codeSection n (xs.drop 128)

/-- The sector that a code and the bytes that follow stand for, and the bytes after it. -/
def readSec (prev : Option MSec) (code : Nat) (bs : List MByte) : Option (MSec × List MByte) :=
  match code with
  | 0 => some ((List.replicate 32 0, false), bs)
  | 1 => prev.map fun p => (p, bs)
  | 2 =>
    let v := bs.take 4
    if v.length = 4 then some (((List.replicate 8 (v.map Prod.fst)).flatten, v.any Prod.snd), bs.drop 4) else none
  | _ =>
    let v := bs.take 32
    if v.length = 32 then some ((v.map Prod.fst, v.any Prod.snd), bs.drop 32) else none

def readSecs : Nat → Nat → Option MSec → List MByte → Option (List MSec × List MByte)
  | 0, _, _, bs => some ([], bs)
  | n + 1, codes, prev, bs =>
    (readSec prev (codes % 4) bs).bind fun (x, rest) => (readSecs n (codes / 4) (some x) rest).map fun (xs, r) => (x :: xs, r)

/-- A block read back, and the bytes after it. -/
def readBlock (bs : List MByte) : Option (List MSec × List MByte) :=
  let head := bs.take 32
  if head.length < 32 || head.any Prod.snd then none
  else
    (readSecs 128 (leNat (head.map Prod.fst)) none (bs.drop 32)).bind fun (xs, rest) =>
      let pad := padTo 32 (bs.length - rest.length)
      if pad ≤ rest.length && (rest.take pad).all (fun b => b.1 == 0) then some (xs, rest.drop pad) else none

/-- A section of `n` blocks read back; nothing may be left over. -/
def readSection : Nat → List MByte → Option (List MSec)
  | 0, bs => if bs = [] then some [] else none
  | n + 1, bs => (readBlock bs).bind fun (xs, rest) => (readSection n rest).map (xs ++ ·)

/-! ### The layout (05 R153; 13 R321, R322) -/

def wordsOf (n : Nat) (f : Nat → Word) : List Byte := (List.range n).flatMap fun k => wordBytes8 (f k)

/-- A loop stack: depth, then the levels from the outermost. -/
def loopBytes (ls : List LoopLevel) : List Byte :=
  let b := wordBytes8 (w64 ls.length) ++ ls.reverse.flatMap fun l => wordBytes8 l.start ++ wordBytes8 l.last ++ wordBytes8 l.count
  b ++ List.replicate (128 - b.length) 0

/-- The Mill settings area (07 R199). -/
def millArea (m : MillSt) : Nat :=
  m.injw.toNat + m.injv.toNat * 2 ^ 224 + m.injq.length * 2 ^ 232 +
    (m.injq.zipIdx.foldl (fun n (e, k) => n + e.src.toNat * 4 ^ k) 0) * 2 ^ 256

/-- The residual rows of a command. -/
def residRows (q : Cmd) : Nat := if cmdRows q.kind then ceilDiv (cmdLen q) (rowLen q) - q.rows else 0

/-- OPA of a Carter queue record. -/
def cmdOpa (q : Cmd) : Nat :=
  match q.kind with
  | .tsend | .tget => q.cap.bits.toNat
  | .cpyg | .cpys => q.ch
  | .cpy | .cpym => q.a.toNat
  | .bndc | .bndr => 0

/-- A Carter queue record (13 R322). -/
def cmdBytes (q : Cmd) : List Byte :=
  leBytes 8 (q.iw % 2 ^ 32 + q.seq % 2 ^ 16 * 2 ^ 32) ++ wordBytes8 q.x ++ wordBytes8 q.l ++ leBytes 16 (cmdOpa q) ++
    leBytes 1 (q.cap.tag.toNat + 2 * q.started.toNat) ++ List.replicate 15 0 ++
    leBytes 8 (if q.kind = .bndc then 0 else cmdLen q - q.done) ++ leBytes 8 (residRows q) ++ leBytes 24 q.millw.toNat

/-- Sixteen records, those beyond the queue zero. -/
def queueBytes (q : CarterQ) : List Byte := (q.q.flatMap cmdBytes) ++ List.replicate (96 * (16 - q.q.length)) 0

/-- A permit in 16 bytes (notes/assumptions/15.md): GTAG, tile address / 4096, die, core, CSEL, CTX, count. -/
def permBytes (p : Permit) : List Byte :=
  leBytes 16 (p.gtag.toNat + p.addr.toNat / 4096 % 2 ^ 42 * 2 ^ 48 + p.die % 2 ^ 15 * 2 ^ 90 + p.core % 2 ^ 5 * 2 ^ 105 +
    p.csel.toNat * 2 ^ 110 + p.cctx % 2 * 2 ^ 111 + p.count % 2 ^ 16 * 2 ^ 112)

/-- The slots of a way mask, in order. -/
def waySlots (ways : BitVec 8) : List Nat := (List.range 1536).filter fun j => ways.getLsbD (j % 8)

def maskBlocks (ways : BitVec 8) : Nat := ceilDiv ((waySlots ways).length * 8) 4096

/-- A tile's sectors as its owner reads them. -/
def tileSecs (y : Core) (j : Nat) : List MSec :=
  (List.range 128).map fun k => (spRead y (4096 * j + 32 * k) 32, spMark y (128 * j + k) != 0)

def spillSecs (c : Ctx) : List MSec :=
  (List.range 2048).map fun k => (memRead c.spill (32 * k) 32, c.spillErr.any fun e => e.1 / 32 == k && e.2 != 0)

def accBytes (v : List (Nat × BitVec 32)) : List Byte := (List.range 32768).flatMap fun e => leBytes 4 (spGet 0 v e).toNat

/-- The coded sections of a context, in order. -/
def imageSections (y : Core) (c : Ctx) : List (List MByte) :=
  let slots := waySlots c.ways
  let dsl := slots.filter fun j => bit (tagOf y j) 5
  [codeSection 16 (rawSecs 16 ((List.range 16).flatMap fun k => leBytes 4096 (spGet 0 c.loom.v k).toNat)),
   codeSection 64 (rawSecs 64 (accBytes c.mill.acc0 ++ accBytes c.mill.acc1)),
   codeSection 16 (spillSecs c),
   codeSection 1 (rawSecs 1 (queueBytes c.c0 ++ queueBytes c.c1 ++ c.mill.injq.flatMap fun e => leBytes 24 e.word.toNat)),
   codeSection 1 (rawSecs 1 (c.permits.flatMap permBytes)),
   codeSection (maskBlocks c.ways) (rawSecs (maskBlocks c.ways) (slots.flatMap fun j => wordBytes8 (tagOf y j))),
   codeSection dsl.length (dsl.flatMap (tileSecs y))]

/-- A fixed part of the core part from offset 0x40 to 0x1540. -/
def imageFixed (s : State) (w : Who) : List Byte :=
  let c := getCtx s w
  let v := c.csr
  wordsOf 32 (fun k => if k = 0 then 0 else spGet 0 c.acc.g k) ++ wordsOf 8 (fun k => spGet 0 c.acc.gs k) ++
  (List.range 16).flatMap (fun k => leBytes 16 (spGet {} c.acc.c k : Cap).bits.toNat) ++
  leBytes 8 ((List.range 16).foldl (fun n k => n + (spGet {} c.acc.c k : Cap).tag.toNat * 2 ^ k) 0) ++ List.replicate 56 0 ++
  [c.acc.pc, c.loom.pc, c.mill.pc, statWord s w .access, statWord s w .loom, statWord s w .mill, v.srkey, v.srcv, v.srcm, v.ulvec, v.ulepc,
   v.ulcause, v.ulval, v.uleng, v.evmask, v.evpend, v.chlim, w64 (cycNow s w.die) - v.cycOff, v.instret, v.sepc, v.scause, v.sval, v.seng,
   sctlWord v, v.svec, v.uldel, v.sscratch].flatMap wordBytes8 ++ List.replicate 40 0 ++
  loopBytes c.acc.loops ++
  (List.range 4).flatMap (fun n => wordsOf 16 fun k => spGet 0 (getBd c n).w k) ++
  wordBytes8 c.loom.shape ++ (List.range 8).flatMap (fun k => leBytes 2 (spGet 0 c.loom.p k).toNat) ++ List.replicate 8 0 ++
  wordsOf 16 (fun k => spGet 0 c.loom.vg k) ++ loopBytes c.loom.loops ++
  wordsOf 8 (fun k => spGet 0 c.mill.mg k) ++ leBytes 8 c.mill.mrp.toNat ++ List.replicate 24 0 ++
  leBytes 64 (millArea c.mill) ++ loopBytes c.mill.loops ++
  (List.range 16).flatMap (fun k => leBytes 64 ((getDesc c k).getD 0).toNat) ++
  (List.range 16).flatMap (fun k =>
    wordBytes8 (getChan c k).cfg ++ wordsOf 16 fun n => (((getChan c k).q.getD n {}).val)) ++
  List.replicate 64 0

/-- The core part's header (13 R322). -/
def imageHeader (c : Ctx) (secs : List (List MByte)) : List Byte :=
  let j := c.job.getD {}
  let pres := (c.acc.stat.st != .absent).toNat + 2 * (c.loom.stat.st != .absent).toNat + 4 * (c.mill.stat.st != .absent).toNat
  let b := leBytes 4 (1 + pres * 2 ^ 8 + c.ways.toNat * 2 ^ 16 + (j.prio % 8 + 8 * j.bkd.toNat) * 2 ^ 24) ++ leBytes 4 (j.handle % 2 ^ 20) ++
    secs.flatMap fun x => leBytes 4 x.length
  b ++ List.replicate (64 - b.length) 0

def debugBytes (b : DebugSt) : List Byte :=
  wordsOf 8 (fun k => spGet 0 b.ibp k) ++ (List.range 4).flatMap fun k => wordBytes8 (spGet 0 b.wpb k) ++ wordBytes8 (spGet 0 b.wpm k)

/-- Pending reports in the order of their delivery (01 R35). -/
def reportsInOrder : Nat → List Report → List Report
  | 0, _ => []
  | n + 1, l =>
    match nextReport l with
    | none => []
    | some r => r :: reportsInOrder n (l.erase r)

def reportBytes (r : Report) : List Byte := leBytes 8 (r.cause % 256 + r.eng % 8 * 2 ^ 8) ++ wordBytes8 r.val

/-- The location word of a job record. -/
def whereWord (w : Who) : Nat := whoBits w + w.ctx % 2 * 2 ^ 20

/-- The image of a context (13 R321). -/
def ctxImage (s : State) (w : Who) : List MByte :=
  let c := getCtx s w
  let j := c.job.getD {}
  let secs := imageSections (getCore s w) c
  let reps := reportsInOrder c.reports.length c.reports
  let total := 0x100 + 0x1540 + (secs.map List.length).sum + 128 + 16 * reps.length
  plainBytes (leBytes 8 (launchKey j) ++ wordBytes8 c.dbg.xctx ++ leBytes 8 (whereWord w) ++ leBytes 8 (ftimeNow s w.die) ++
    wordsOf 8 (fun k => spGet 0 j.place.lix k) ++ wordsOf 8 (fun k => spGet 1 j.place.lcnt k) ++ wordsOf 8 (fun k => spGet 0 j.place.ldom k) ++
    leBytes 8 total ++ leBytes 4 reps.length ++ List.replicate 20 0 ++ imageHeader c secs ++ imageFixed s w) ++
  secs.flatten ++ plainBytes (debugBytes c.dbg ++ reps.flatMap reportBytes)

/-! ### Reading an image (13 R324) -/

/-- `n` bytes at an offset, as a number. -/
def imgN (bs : List MByte) (o n : Nat) : Nat := leNat (((bs.drop o).take n).map Prod.fst)

def imgW (bs : List MByte) (o : Nat) : Word := w64 (imgN bs o 8)

/-- Registers from `n` words at an offset. -/
def imgRegs (bs : List MByte) (o n : Nat) : List (Nat × Word) := spOfFn 0 n fun k => imgW bs (o + 8 * k)

/-- The stream state of a code. -/
def runStateOf : Nat → RunState
  | 0 => .absent
  | 1 => .idle
  | 2 | 3 => .run
  | 4 => .susp
  | 5 => .stop
  | _ => .done

/-- A stream status word is one that a save writes (01 R12, R13). -/
def statOk (e : Eng) (pres : Bool) (v : Word) : Bool :=
  let st := bits v 40 4
  st ≤ 6 && (st != 0) == pres && !(e == .access && (st == 4 || st == 5)) && bits v 56 8 == 0 && bits v 32 4 == 0 && bits v 0 3 == 0

/-- The stored fields of a stream status word. -/
def statOf (v : Word) : Stat :=
  { cause := BitVec.ofNat 8 (bits v 48 8), st := runStateOf (bits v 40 4), sstep := bit v 7, bps := bit v 6, quit := bit v 4 }

/-- A loop stack read back. -/
def loopsOf (bs : List MByte) (o : Nat) : List LoopLevel :=
  ((List.range (min (imgN bs o 8) 4)).map fun k =>
    { start := imgW bs (o + 8 + 24 * k), last := imgW bs (o + 16 + 24 * k), count := imgW bs (o + 24 + 24 * k) : LoopLevel }).reverse

/-- The command that an instruction word issues: kind, use, ARV, channel, bundle context. -/
def cmdOfWord (iw : Nat) : Option Cmd :=
  match decodeWord .access iw with
  | .ok (.cpy _ _ _ u _ e) => some { kind := .cpy, use := u.val, arv := e }
  | .ok (.cpyg _ n _ u _ e) => some { kind := .cpyg, use := u.val, arv := e, ch := n.val }
  | .ok (.cpys _ n _ u _ e) => some { kind := .cpys, use := u.val, arv := e, ch := n.val }
  | .ok (.cpym _ _ _ u _ e) => some { kind := .cpym, use := u.val, arv := e }
  | .ok (.tsend _ _ _ u _ e) => some { kind := .tsend, use := u.val, arv := e }
  | .ok (.tget _ _ _ u _ e) => some { kind := .tget, use := u.val, arv := e }
  | .ok (.bndc _ n) => some { kind := .bndc, bd := n.val }
  | _ => none

/-- A Carter queue record read back over the command it was saved from, if that is known. -/
def cmdOfRec (bs : List MByte) (o : Nat) (old : Option Cmd) : Option Cmd :=
  let iw := imgN bs o 4
  let seq := imgN bs (o + 4) 2
  (cmdOfWord iw).bind fun q0 =>
    let q := match old with
      | some q => if q.iw = iw && q.seq = seq && q.kind = q0.kind then q else q0
      | none => q0
    let flg := imgN bs (o + 40) 1
    let l := imgW bs (o + 16)
    let q := { q with
      iw := iw, seq := seq, x := imgW bs (o + 8), l := l, cap := { bits := BitVec.ofNat 128 (imgN bs (o + 24) 16), tag := flg % 2 == 1 }
      millw := BitVec.ofNat 192 (imgN bs (o + 72) 24), pages := [], susp := false }
    let q := match q.kind with
      | .cpy | .cpym => { q with a := imgW bs (o + 24), cap := {} }
      | .tsend | .tget => q
      | _ => { q with cap := {} }
    let started := flg / 2 == 1
    let resb := imgN bs (o + 56) 8
    let resr := imgN bs (o + 64) 8
    let rows := if cmdRows q.kind then ceilDiv (cmdLen q) (rowLen q) else 0
    let bn := q.kind == .bndc
    if flg ≥ 4 || imgN bs (o + 6) 2 ≠ 0 || (!bn && resb > cmdLen q) || resr > rows || (bn && (started || resb ≠ 0)) then none
    else
      some { q with
        started := started, paused := started, done := if bn then 0 else cmdLen q - resb, rows := rows - resr
        moved := !bn && started && resb == 0 && q.fail == 0
        wait := if q.kind = .cpym && old.isNone && resb == 0 then 2 else q.wait }

/-- The commands of one Carter queue: records up to the first that is all zeros. -/
def cmdsOfImage (bs : List MByte) (o : Nat) (old : List Cmd) : Nat → Nat → Option (List Cmd)
  | 0, _ => some []
  | n + 1, k =>
    if ((bs.drop (o + 96 * k)).take 96).all fun b => b.1 == 0 then some []
    else (cmdOfRec bs (o + 96 * k) (old[k]?)).bind fun q => (cmdsOfImage bs o old n (k + 1)).map (q :: ·)

def permOf (bs : List MByte) (o launch : Nat) : Permit :=
  let v := imgN bs o 16
  { gtag := BitVec.ofNat 48 v, addr := w64 (v / 2 ^ 48 % 2 ^ 42 * 4096), die := v / 2 ^ 90 % 2 ^ 15, core := v / 2 ^ 105 % 2 ^ 5, launch := launch,
    csel := v.testBit 110, cctx := v / 2 ^ 111 % 2, count := v / 2 ^ 112 }

/-- A channel read back: as many entries as were saved, or, where that is not known, up to the last that is not zero. -/
def chanOf (bs : List MByte) (o : Nat) (old : Option Chan) : Chan :=
  let vs := (List.range 16).map fun k => imgW bs (o + 8 + 8 * k)
  let n := match old with
    | some x => x.q.length
    | none => 16 - (vs.reverse.takeWhile fun v => v == 0).length
  { cfg := imgW bs o, q := (vs.take n).map fun v => { val := v }, pushes := (old.map Chan.pushes).getD n }

/-- What an image holds: launch, location, context, the tag entries of its ways, the sectors of its dirty tiles. -/
structure CtxImage where
  launch : Nat
  loc : Nat
  ctx : Ctx
  tags : List (Nat × Word)
  tiles : List (Nat × List MSec)
deriving DecidableEq, Repr

/-- Cut a list into groups of `k`. -/
def groups {α : Type} (k : Nat) : Nat → List α → List (List α)
  | 0, _ => []
  | n + 1, l => l.take k :: groups k n (l.drop k)

/-- Accumulator cells of 128 KiB. -/
def accOf (bs : List MByte) : List (Nat × BitVec 32) := spOfFn 0 32768 fun e => BitVec.ofNat 32 (imgN bs (4 * e) 4)

/-- Flat bytes of sectors; none if one is poisoned. -/
def cleanBytes (xs : List MSec) : Option (List MByte) :=
  if xs.any Prod.snd then none else some (plainBytes (xs.flatMap Prod.fst))

/-- The place of a report in the delivery order, from its engine and cause (01 R35). -/
def rankOf (eng cause : Nat) : Nat := if 1 ≤ eng then eng - 1 else if cause = 0x14 then 4 else 5

/-- The reports of an image, in their order; they are older than any that follows (01 R35). -/
def reportsOf (bs : List MByte) (o n : Nat) : List Report :=
  (List.range n).map fun k =>
    let cause := imgN bs (o + 16 * k) 1
    let eng := imgN bs (o + 16 * k + 1) 1
    { rank := rankOf eng cause, cause := cause, eng := eng, val := imgW bs (o + 16 * k + 8) }

/-- The registers of the core part. -/
def fixedCtx (bs : List MByte) (old : Ctx) (known : Bool) (cyc : Nat) : Ctx :=
  let r := fun k => imgW bs (0x3C0 + 8 * k)
  let cp := fun k => ({ bits := BitVec.ofNat 128 (imgN bs (0x280 + 16 * k) 16), tag := (imgN bs 0x380 8).testBit k } : Cap)
  let set := imgN bs 0x8C0 64
  let ctl := r 23
  { old with
    acc := { old.acc with
      pc := r 0, g := imgRegs bs 0x140 32, gs := imgRegs bs 0x240 8, c := spOfFn {} 16 cp, sys := bit (r 3) 9, uli := bit (r 3) 8
      loops := loopsOf bs 0x4C0, stat := statOf (r 3) }
    csr := {
      srkey := r 6, srcv := r 7, srcm := r 8, ulvec := r 9, ulepc := r 10, ulcause := r 11, ulval := r 12, uleng := r 13, evmask := r 14,
      evpend := r 15, chlim := r 16, cycOff := w64 cyc - r 17, instret := r 18, sepc := r 19, scause := r 20, sval := r 21, seng := r 22,
      te := bit ctl 0, pm := bit ctl 1, snj := bit ctl 2, svec := r 24 &&& ~~~3, uldel := r 25, sscratch := r 26 }
    bds := spOfFn {} 4 fun n => { w := imgRegs bs (0x540 + 128 * n) 16 }
    loom := { old.loom with
      pc := r 1, shape := imgW bs 0x740, p := spOfFn 0 8 (fun k => BitVec.ofNat 16 (imgN bs (0x748 + 2 * k) 2)), vg := imgRegs bs 0x760 16
      loops := loopsOf bs 0x7E0, stat := statOf (r 4) }
    mill := { old.mill with
      pc := r 2, mg := imgRegs bs 0x860 8, mrp := BitVec.ofNat 16 (imgN bs 0x8A0 2), loops := loopsOf bs 0x900, stat := statOf (r 5)
      injv := set / 2 ^ 224 % 2 == 1, injw := BitVec.ofNat 192 set, flight := [], pend := none }
    desc := spOfFn none 16 fun k => let v := imgN bs (0x980 + 64 * k) 64; if v = 0 then none else some (BitVec.ofNat 512 v)
    chans := spOfFn {} 16 fun k => chanOf bs (0xD80 + 136 * k) (if known then some (getChan old k) else none)
    halted := false, saving := none, restoring := none }

/-- The fixed fields hold no reserved value; bytes that 05 R153 calls reserved are ignored, and a descriptor's reserved bits are met at its use
(05 R142). -/
def fixedOk (bs : List MByte) : Bool :=
  let r := fun k => imgW (bs.drop 0x3C0) (8 * k)
  let pres := imgN bs 0x101 1
  imgN bs 0x10 8 < 2 ^ 21 && imgN bs 0x100 1 == 1 && pres < 8 && imgN bs 0x103 1 < 16 && imgN bs 0x104 4 < 2 ^ 20 &&
    ((bs.drop 0xEC).take 20).all (fun b => b.1 == 0) &&
    r 25 &&& ~~~(0x0790FE00 : Word) == 0 && statOk .access (pres.testBit 0) (r 3) && statOk .loom (pres.testBit 1) (r 4) && statOk .mill (pres.testBit 2) (r 5) && (r 23).toNat < 8 &&
    imgN bs 0x4C0 8 ≤ 4 && imgN bs 0x7E0 8 ≤ 4 && imgN bs 0x900 8 ≤ 4 && imgN bs 0x380 8 < 2 ^ 16 && imgN bs 0x8A0 8 < 2 ^ 16 &&
    imgN bs (0x8C0 + 29) 1 ≤ 4 && imgN bs (0x8C0 + 28) 1 ≤ 1 &&
    (List.range 16).all (fun k => cfgBitsOk (imgW (bs.drop 0xD80) (136 * k))) &&
    imgN bs 8 8 < 2 ^ 52 && (r 11).toNat < 2 ^ 8 && (r 20).toNat < 2 ^ 8 && (r 9).toNat % 4 == 0 && (r 24).toNat % 4 == 0 && (r 15).toNat < 2 ^ 6 &&
    1 ≤ (r 16).toNat && (r 16).toNat < 2 ^ 32 && (List.range (imgN bs (0x8C0 + 29) 1)).all (fun k => !((imgN bs (0x8C0 + 32) 8).testBit (2 * k + 1))) &&
    (List.range 4).all (fun n => bdOk ((bs.drop 0x540).drop (128 * n)))
where
  /-- A bundle context (18 R462): no header above word 3, reserved bits 0, at most 16 lines. -/
  bdOk (b : List MByte) : Bool :=
    let h := fun k => imgN b (8 * k) 8 / 2 ^ 52
    let hd := h 0 + h 1 * 2 ^ 12 + h 2 * 2 ^ 24 + h 3 * 2 ^ 36
    hd < 2 ^ 29 && hd % 2 ^ 5 ≤ 16 && (List.range 12).all fun k => h (4 + k) == 0
  /-- A channel configuration that CHCFG accepts, or none at all. -/
  cfgBitsOk (v : Word) : Bool := v.toNat < 2 ^ 9 && !(bit v 3) && !(bit v 7)

/-- Read an image; `old` is the context it was saved from where the die knows it.  None where a check fails. -/
def readCtxImage (bs : List MByte) (old : Option Ctx) (cyc : Nat) : Option CtxImage :=
  let lens := (List.range 7).map fun k => imgN bs (0x108 + 4 * k) 4
  let total := imgN bs 0xE0 8
  let nrep := imgN bs 0xE8 4
  let off := fun k => 0x1640 + (lens.take k).sum
  let tail := off 7
  if bs.length < 0x1640 || total ≠ tail + 128 + 16 * nrep || bs.length < total || ((bs.take 0x1640).any Prod.snd) ||
      ((bs.drop tail).take (total - tail)).any Prod.snd || !(fixedOk bs) ||
      (List.range nrep).any (fun k => imgN bs (tail + 128 + 16 * k) 8 ≥ 2 ^ 11) then none
  else
    let sec := fun k n => readSection n ((bs.drop (off k)).take (lens.getD k 0))
    let ways := BitVec.ofNat 8 (imgN bs 0x102 1)
    let slots := waySlots ways
    let launch := imgN bs 0 8
    let o := old.getD {}
    let c := fixedCtx bs o old.isSome cyc
    (sec 0 16).bind fun vs => (cleanBytes vs).bind fun v =>
    (sec 1 64).bind fun xs => (cleanBytes xs).bind fun accs =>
    (sec 2 16).bind fun sp =>
    (sec 3 1).bind fun xs => (cleanBytes xs).bind fun qs =>
    (sec 4 1).bind fun xs => (cleanBytes xs).bind fun ps =>
    (sec 5 (maskBlocks ways)).bind fun xs => (cleanBytes xs).bind fun ts =>
    let tags := slots.zipIdx.map fun (j, k) => (j, imgW ts (8 * k))
    if tags.any fun t => bits t.2 6 2 ≠ 0 then none else
    let dsl := (tags.filter fun t => bit t.2 5).map Prod.fst
    (sec 6 dsl.length).bind fun tl =>
    (cmdsOfImage qs 0 o.c0.q 16 0).bind fun q0 =>
    (cmdsOfImage qs 1536 o.c1.q 16 0).bind fun q1 =>
    let j := o.job.getD { pkg := launch / 2 ^ 32, launch := launch % 2 ^ 32, tiles := 192 * (waySlots ways).length / 192 }
    let next := fun (q : List Cmd) (n : Nat) => match q.getLast? with
      | some x => (x.seq + 1) % 2 ^ 16
      | none => n
    let iq := imgN bs (0x8C0 + 32) 8
    some {
      launch := launch, loc := imgN bs 0x10 8, tags := tags, tiles := dsl.zip (groups 128 dsl.length tl)
      ctx := { c with
        ways := ways
        job := some { j with
          prio := imgN bs 0x103 1 % 8, bkd := imgN bs 0x103 1 / 8 == 1, handle := imgN bs 0x104 4
          pa := (imgN bs 0x101 1).testBit 0, pv := (imgN bs 0x101 1).testBit 1, pm := (imgN bs 0x101 1).testBit 2
          place := { lix := imgRegs bs 0x20 8, lcnt := spOfFn 1 8 (fun k => imgW bs (0x60 + 8 * k)), ldom := imgRegs bs 0xA0 8 } }
        loom := { c.loom with v := spOfFn 0 16 fun k => BitVec.ofNat 32768 (imgN v (4096 * k) 4096) }
        mill := { c.mill with
          acc0 := accOf accs, acc1 := accOf (accs.drop 131072)
          injq := (List.range (imgN bs (0x8C0 + 29) 1)).map fun k =>
            { word := BitVec.ofNat 192 (imgN qs (3072 + 24 * k) 24), src := iq.testBit (2 * k), tile := (o.mill.injq.getD k ⟨0, false, 0⟩).tile } }
        spill := memWrite [] 0 (sp.flatMap Prod.fst)
        spillErr := (sp.zipIdx.filter fun e => e.1.2).flatMap fun e => (List.range 32).map fun i => (32 * e.2 + i, 1)
        c0 := { o.c0 with q := q0, seq := next q0 o.c0.seq }
        c1 := { o.c1 with q := q1, seq := next q1 o.c1.seq }
        permits := ((List.range 64).filter fun k => imgN ps (16 * k) 16 ≠ 0).map fun k => permOf ps (16 * k) launch
        reports := reportsOf bs (tail + 128) nrep
        dbg := { c.dbg with
          xctx := imgW bs 8, ibp := imgRegs bs tail 8
          wpb := spOfFn 0 4 (fun k => imgW bs (tail + 64 + 16 * k)), wpm := spOfFn 0 4 (fun k => imgW bs (tail + 72 + 16 * k)) } } }

end Sys2Proof.Machine
end

