-- ==== Sys2Proof/Machine/Shoot.lean ====
section
/-!
DEFINITION. TLBI, TPRE and the walker; HALT and the stop at a cut; the patrol scrub (13 R311, R314, R328, R339; 14 R356 to R358, R361).
-/
namespace Sys2Proof.Machine
open Sys2Proof

/-! ### TLBI (13 R314; 14 R357) -/

/-- A translation of `asid` with base and size lies in what a TLBI matches. -/
def tlbiHits (o : TlbiOp) (asid va log : Nat) : Bool :=
  o.mode == 2 || (o.asid == asid && (o.mode == 1 || (canonical o.va && va / 2 ^ log == o.va.toNat % 2 ^ 55 / 2 ^ log)))

/-- What a TLBI does at once (13 R314): the matching entries leave every µTLB and core TLB, and the walker's cache; those of the die TLB are
dying. -/
def tlbiMark (o : TlbiOp) (d : Die) : Die :=
  tlbKill (fun e => tlbiHits o e.asid (e.base * 2 ^ e.log) e.log)
    (fun e => tlbiHits o e.asid (e.tag * 2 ^ (16 + 13 * e.level)) (16 + 13 * e.level)) d

/-- Nothing of what the TLBI matches is in use. -/
def tlbiDone (d : Die) (o : TlbiOp) : Bool :=
  !(d.tlb.ents.any fun e => e.dying && tlbiHits o e.asid (e.base * 2 ^ e.log) e.log) &&
    !(d.acc.any fun a => a.id ≤ o.before && accLocal a.kind && tlbiHits o a.asid (a.va.toNat % 2 ^ 55) (a.base % 64))

/-- TLBI (R357): it begins, and the stream stays at it until TLBI_RETIRE. -/
def tlbiBody (a b : RC) (s : State) : Res :=
  let w := me s
  let i : Instr := .tlbi a b
  let bad := fun v : Word => v.toNat ≥ 2 ^ 18 || bits v 16 2 = 3
  if (getDie s w.die).tlb.tlbis.any fun x => x.w == w && x.pc == (getCtx s w).acc.pc then .hold
  else
  withPriv (getCtx s w).acc.sys (fun vs => bad (opv vs 1)) s (wordOf i) [rcSrc a, rcSrc b] [] noDst fun s vs =>
    let c := getCtx s w
    let v := opv vs 1
    let mode := bits v 16 2
    let o : TlbiOp := { w := w, pc := c.acc.pc, mode := mode, asid := bits v 0 16, va := opv vs 0, before := (getDie s w.die).nextId }
    if bad v then .trap 0x01 (wordOf i)
    else if (getDie s w.die).acc.any fun x => x.w == w && accWrites x.kind then .hold
    else
      .stay (modDie s w.die fun d =>
        let d := tlbiMark o d
        { d with tlb := { d.tlb with tlbis := (d.tlb.tlbis.filter fun x => x.w != w) ++ [o] } })

def execTlbi (a b : RC) (s : State) : Host.Outcome State Fault Refusal := runAccess s (tlbiBody a b)

/-- TLBI_RETIRE (R314 step 3): TLBI `ev.k` of die `ev.w.die` retires. -/
def execTlbiRetire (s : State) : Host.Outcome State Fault Refusal :=
  let d := s.ev.w.die
  match (getDie s d).tlb.tlbis[s.ev.k]? with
  | none => .next s
  | some o =>
    let c := getCtx s o.w
    if !(tlbiDone (getDie s d) o) || !(ctxMoves s o.w) then .next s
    else
      let t := modDie s d fun x => { x with tlb := { x.tlb with tlbis := x.tlb.tlbis.eraseIdx s.ev.k } }
      .next (if c.acc.stat.st = .run && c.acc.pc = o.pc then retireAccess t o.w c.acc.stat.bps .seq else t)

/-! ### TPRE (14 R356) -/

/-- TPRE: the walks of a range. -/
def execTpre (d a b : RC) (s : State) : Host.Outcome State Fault Refusal :=
  runAccess s fun s =>
    let w := me s
    let i : Instr := .tpre d a b
    withOps s (wordOf i) [rcSrc a, rcSrc b] [] d fun s vs =>
      let v := opv vs 1
      let n := bits v 0 32
      if n > 0x1000000 || v.toNat ≥ 2 ^ 35 then .trap 0x01 (wordOf i)
      else if n = 0 then .ok (putDst s d 0) .seq
      else
        let s := issueTo s d { id := 0, w := w, kind := .result, size := 0 }
        .ok (modDie s w.die fun x => { x with tlb := { x.tlb with
          walks := x.tlb.walks ++ [{ xctx := (getCtx s w).dbg.xctx, va := opv vs 0, left := granules (opv vs 0).toNat n, id := x.nextId,
                                     rd := bit v 32, wr := bit v 33, at_ := bit v 34 }] } }) .seq

/-- TRANSLATION_WALK (13 R307, R309 to R311): the walker translates the next granule of range `ev.k` of die `ev.w.die`; the last one, or
the first that fails, gives TPRE its result. -/
def execTranslationWalk (s : State) : Host.Outcome State Fault Refusal :=
  let d := s.ev.w.die
  match (getDie s d).tlb.walks[s.ev.k]? with
  | none => .next s
  | some q =>
    let set := fun (s : State) (l : List Walk) => modDie s d fun x => { x with tlb := { x.tlb with walks := l } }
    let ws := (getDie s d).tlb.walks
    let done := fun (s : State) (v : Word) =>
      let s := set s (ws.eraseIdx s.ev.k)
      match accAt (getDie s d) q.id with
      | none => s
      | some a => accDone s a v
    let bad := fun (cause : Nat) => w64 (q.va.toNat / 2 ^ 16 * 2 ^ 16 + cause)
    let v := match accAt (getDie s d) q.id with
      | some a => .core a.w.core
      | none => .die
    if xlWaits s d v q.xctx q.va then .next s
    else
    match translate s d v q.xctx q.va with
    | (s, none) => .next (done s (bad 4))
    | (s, some l) =>
      if (q.rd && !(pteRD l.pte)) || (q.wr && !(pteWR l.pte)) || (q.at_ && !(pteAT l.pte)) then .next (done s (bad 5))
      else if q.left ≤ 1 then .next (done s 0)
      else .next (set s (ws.set s.ev.k { q with va := w64 ((q.va.toNat / 2 ^ 16 + 1) * 2 ^ 16), left := q.left - 1 }))

/-! ### Stops (13 R339; 14 R361) -/

/-- The context that a target word names on die `d`. -/
def targetOf (d : Nat) (v : Word) : Who := ⟨d, bits v 3 2 * 8 + bits v 0 3, bits v 5 1⟩

/-- HALT (R361). -/
def execHalt (a : RC) (s : State) : Host.Outcome State Fault Refusal :=
  runAccess s fun s =>
    let w := me s
    withPriv (getCtx s w).acc.sys (fun vs => (opv vs 0).toNat ≥ 2 ^ 7) s (wordOf (.halt a)) [rcSrc a] [] noDst fun s vs =>
      let v := opv vs 0
      if v.toNat ≥ 2 ^ 7 then .trap 0x01 (wordOf (.halt a))
      else .ok (if bit v 6 then stopDie s w.die else stopCtx s (targetOf w.die v)) .seq

/-- STOP_AT_CUT (13 R339, R341): die `ev.w.die` has reached its cut time. -/
def execStopAtCut (s : State) : Host.Outcome State Fault Refusal :=
  let d := s.ev.w.die
  match (getDie s d).stopAt with
  | none => .next s
  | some t => if ftimeNow s d < t then .next s else .next (stopDie (modDie s d fun x => { x with stopAt := none }) d)

/-! ### Scrub (13 R328) -/

/-- SCRUB: the patrol of die `ev.w.die` reads sector `ev.n`; a correctable error is corrected in place, an uncorrectable one is poisoned, a
machine check of kind 7; a failed check is detected as by any read (R332); a poison mark stays. -/
def execScrub (s : State) : Host.Outcome State Fault Refusal :=
  let d := s.ev.w.die
  let w : Who := ⟨d, 0, 0⟩
  let k := s.ev.n
  let s := physMend s d .hbm (32 * k) 32
  match physMark s d .hbm k with
  | 1 => .next (machineCheck (physPoison s d .hbm k) w 7 0 false (32 * k) 0)
  | 2 => .next (physDetect s w .hbm k 2)
  | _ => .next s

end Sys2Proof.Machine
end

