-- ==== Sys2Proof/Machine/Resident.lean ====
section
/-!
DEFINITION. A job becomes resident (01 R11, R14, R15; 05 R126, R130; 12 R281; 16 R397, R401).
-/
namespace Sys2Proof.Machine
open Sys2Proof

/-- The way mask for a job of `tiles` tiles in context `i` of a core, if there is room. -/
def waysFree (y : Core) (i tiles : Nat) : Option (BitVec 8) :=
  let o := coreCtx y (1 - i)
  if o.job.isNone then some 0xFF
  else
    let free := (List.range 8).filter fun k => !(o.ways.getLsbD k)
    let n := waysFor tiles
    if free.length < n then none else some (BitVec.ofNat 8 ((free.take n).map (2 ^ ·)).sum)

/-- The registers of a job at its start (R11); a gang's streams stay IDLE (R16). -/
def startCtx (j : Job) (ways : BitVec 8) (cyc : Nat) : Ctx :=
  let st := fun (p : Bool) => if !p then RunState.absent else if j.gang then .idle else .run
  let flat := w64 j.flat
  { job := some j, ways := ways
    acc := { pc := j.ents, g := spSetMany 0 [] [(1, j.arg), (2, flat)], stat := { st := st j.pa } }
    csr := { svec := j.svec &&& ~~~3, cycOff := w64 cyc }
    dbg := { xctx := j.xctx }
    loom := { pc := j.entv, vg := spSet 0 [] 1 flat, p := spOfFn 0 8 (fun k => if k = 0 then 0 else 0xFFFF), stat := { st := st j.pv } }
    mill := { pc := j.entm, mg := spSet 0 [] 1 flat, stat := { st := st j.pm } } }

/-- A slot given to a new job: its dirty-since-launch and written bits are cleared (05 R130). -/
def freshTile (y : Core) (k : Nat) : Core := setTag (emptyTile y k) k (setBit (tagOf y k) 5 false)

/-- The job becomes resident in context `w`, which is free, with its ways. -/
def makeResident (s : State) (w : Who) (j : Job) (ways : BitVec 8) : State :=
  let s := modCore s w fun y => (waySlots ways).foldl freshTile y
  setCtx s w (startCtx j ways (cycNow s w.die))

/-- A context that can receive a job.  A drain stops the front end's placing (16 R412); a booked job's own is not stopped. -/
def ctxFree (s : State) (w : Who) (booked : Bool) : Bool :=
  let p := (getDie s w.die).power
  (booked || !(p.target.isSome && p.drain)) && whoOk s w && (getCtx s w).job.isNone && (getCtx s w).restoring.isNone && (getDie s w.die).time.set && clockRuns (getDie s w.die).power

/-- The place of a job in its launch (R28). -/
def placeOf (l : Launch) (k : LJob) : LaunchSt :=
  { lix := spSetMany 0 [] (k.lix.zipIdx.map fun (v, i) => (i, w64 v))
    lcnt := spSetMany 1 [] (l.levels.zipIdx.map fun (v, i) => (i, w64 v.cnt))
    ldom := spSetMany 0 [] (l.levels.zipIdx.map fun (v, i) => (i, w64 v.dom)) }

/-- What the front end gives job `k` of a launch. -/
def jobOf (p : Nat) (l : Launch) (k : LJob) : Job :=
  let e := fun n => l.ents.getD n 0
  { pkg := p, launch := l.id, flat := k.flat, ents := e 0, entv := e 1, entm := e 2, pa := e 0 != 0, pv := e 1 != 0, pm := e 2 != 0
    prio := l.prio, bkd := l.bkd, gang := l.gang, scope := ((l.levels.getLast?).map Level.scope).getD 0
    tiles := l.tiles, arg := ((l.areas.find? fun a => a.die == k.die).map Area.va).getD 0, svec := l.svec, xctx := l.xctx
    place := placeOf l k }

/-- A launch one of whose jobs could not be booked starts no more of them (16 R394, R400). -/
def launchFails (l : Launch) : Bool := l.jobs.any fun k => k.st ≥ 4

/-- The job of a booking as it becomes resident in `w`, with its record in a launch: of a gang's part the launch's job of that die and core
(16 R401). -/
def bookedJob (s : State) (b : Booking) (h : Nat) (w : Who) : Option (Job × Option (Nat × Nat × Nat)) :=
  let plain := { b.job with handle := h, bkd := true }
  match b.fe with
  | some (p, id, j + 1) => if ((getPkg s p).launches.find? fun l => l.id == id).any launchFails then none else some (plain, some (p, id, j))
  | _ =>
    match (getPkg s b.job.pkg).launches.find? fun l => l.id == b.job.launch with
    | none => some (plain, none)
    | some l =>
      match l.jobs.find? fun k => l.gang && b.job.gang && k.st == 0 && k.die == w.die && k.who.core == w.core with
      | none => some (plain, none)
      | some k =>
        let j := jobOf b.job.pkg l k
        some ({ j with handle := h, bkd := true, gang := true, gstart := b.job.gstart, tiles := b.job.tiles }, some (b.job.pkg, l.id, k.flat))

/-- The job of booking `i`, which holds a commit on the context's core, becomes resident in context `w`, if there is room (R15, 12 R281). -/
def bindResident (s : State) (w : Who) (i : Nat) : Option State :=
  let b := getBk (getDie s w.die) i
  if !(ctxFree s w true) || !(b.bound && bkHeld b) || b.on.isSome || b.core ≠ w.core || (jobAt (getDie s w.die) i b).isSome then none
  else
    (waysFree (getCore s w) w.ctx b.tiles).bind fun m => (bookedJob s b (handleOf i b) w).map fun x =>
      let s := makeResident s w x.1 m
      match x.2 with
      | none => s
      | some (p, id, f) => setLJob s p id f fun k => { k with st := 1, who := w, handle := handleOf i b }

/-- The job of a booking stands resident no later than the start of its first booked use (R15): where a context has room, it takes it now. -/
def residentBy (s : State) (d i : Nat) : State :=
  let b := getBk (getDie s d) i
  if (jobAt (getDie s d) i b).isSome then s
  else
    match bindResident s ⟨d, b.core, 0⟩ i with
    | some t => t
    | none => (bindResident s ⟨d, b.core, 1⟩ i).getD s

end Sys2Proof.Machine
end

