-- ==== Sys2Proof/Machine/Slots.lean ====
section
/-!
DEFINITION. The start of a slot, the messages of the two-phase commit, BQRY, BCAN and BDONE (12 R272, R289 to R306; 14 R350, R353 to R355).
-/
namespace Sys2Proof.Machine
open Sys2Proof

/-! ### Cancelling and ending uses (12 R298 to R300; 14 R354, R355) -/

/-- A use not ended gives back what lies after the present slot and stands as ended. -/
def giveBack (s : State) (d i u : Nat) : State :=
  let s := freeRest s d i u (slotNow s d)
  modBk s d i fun b => setEnded b u (slotNow s d)

/-- A booked task ends early (R300): uses not started are returned; a current one ends at the end of its slot, or, `now`, at once. -/
def cancelHeld (s : State) (d i : Nat) (now : Bool) : State :=
  let b := getBk (getDie s d) i
  let hs := reachedFrom s d (handleOf i b)
  let t := slotNow s d
  let any := b.uses.any fun u => u.started
  let s := (b.uses.zipIdx.filter fun (u, _) => exLeft u).foldl (fun s (u, k) =>
    if u.started && u.slots.contains t && !now then
      modBk (cutRun s d i k (t + 1)) d i fun b => setUse b k fun x => { x with cut := true }
    else giveBack s d i k) s
  let s := modBk s d i fun b => { b with code := if any then 0x0D else 0x0C }
  let left := (getBk (getDie s d) i).uses.any fun u => exLeft u
  let s := if left then s else finishBk s d i (if any then 0x0D else 0x0C)
  backfill (pullForward s d i 8 hs) d 16

/-- A booking that is not committed is withdrawn. -/
def withdrawBk (s : State) (d i code : Nat) : State :=
  finishBk (if (getBk (getDie s d) i).st = .preparing || (getBk (getDie s d) i).st = .committing then unplaceBk s d i else s) d i code

/-- What BCAN does, with its status (R354). -/
def cancelBk (s : State) (d i : Nat) : State × Nat :=
  let b := getBk (getDie s d) i
  if bkHeld b then (cancelHeld s d i false, if b.uses.any fun u => u.started then 1 else 0)
  else
    (backfill (withdrawBk s d i 0x0C) d 16, 0)

/-- Units of an attached use after the present slot are freed, and it ends (R355). -/
def endAtt (s : State) (d i u : Nat) : State :=
  let b := getBk (getDie s d) i
  let x := nthUse b u
  let now := slotNow s d
  let s :=
    if x.rmt && x.rdie != d then send s { kind := .bkAbort, src := d, dst := x.rdie, tag := handleOf i b, opnd := b.stamp, op := u + 1 }
    else modDie s d fun y => (x.slots.filter fun t => now < t).foldl (fun y t => capAdd y (capCal x.cls x.pinst x.dirin) t x.dem false false) y
  modBk s d i fun b => setUse b u fun x => { x with ended := true, endS := now, slots := x.slots.filter fun t => t ≤ now, swept := true }

/-- What BDONE does, with its status (R355). -/
def doneBk (s : State) (d i u : Nat) : State × Nat :=
  let b := getBk (getDie s d) i
  let x := nthUse b u
  if u ≥ b.uses.length then (s, 3)
  else if x.ended then (s, 1)
  else if !(bkHeld b) then
    let s := modBk s d i fun b => setEnded b u (slotNow s d)
    let all := (getBk (getDie s d) i).uses.all fun x => x.ended
    (if all then backfill (finishBk s d i 0x0D) d 16 else s, 0)
  else if x.cls ≥ 2 then (backfill (pullForward (endAtt s d i u) d i x.att (reachedFrom s d (handleOf i b))) d 16, 0)
  else if x.started && useBusy s d i u false then
    (modBk s d i fun b => setUse b u fun x => { x with closing := true, gate := false }, 0)
  else (backfill (endUse s d i u true) d 16, 0)

/-- The instructions that waited for a commit act (R354, R355). -/
def runPend (s : State) (d i : Nat) : State :=
  let l := (getBk (getDie s d) i).pend
  let h := handleOf i (getBk (getDie s d) i)
  let s := modBk s d i fun b => { b with pend := [] }
  l.foldl (fun s (k, w, id) =>
    let r := if (liveIdx (getDie s d) h).isNone then (s, 2) else if k = 8 then cancelBk s d i else doneBk s d i k
    addResult r.1 w.die id false (w64 r.2)) s

/-! ### Messages (12 R289 to R292) -/

/-- The booking of a die that an answer is for. -/
def askerOf (s : State) (m : Msg) : Option Nat :=
  (liveIdx (getDie s m.dst) m.tag).bind fun i => if (getBk (getDie s m.dst) i).stamp = m.opnd then some i else none

def modPart (s : State) (d i x : Nat) (f : Part → Part) : State :=
  modBk s d i fun b => { b with parts := b.parts.map fun p => if p.die = x then f p else p }

/-- PREP (R289 step 3). -/
def execPrep (s : State) : Host.Outcome State Fault Refusal :=
  match msgOf s s.ev.k .prep with
  | none => .next (stayMsg s .prep)
  | some m =>
    .next (askPrep (dropMsg s s.ev.k) m.dst { die := m.src, handle := m.tag, stamp := m.opnd, parts := m.parts, ents := m.ents, task := none })

/-- GANG_PROPOSAL (R292 steps 1 to 3). -/
def execGangProposal (s : State) : Host.Outcome State Fault Refusal :=
  match msgOf s s.ev.k .gang with
  | none => .next (stayMsg s .gang)
  | some m =>
    .next (askPrep (dropMsg s s.ev.k) m.dst { die := m.src, handle := m.tag, stamp := m.opnd, parts := m.parts, ents := m.ents, task := m.task })

/-- Every die has answered: COMMIT, or for a gang another round at the largest start asked for (R289, R292). -/
def answered (s : State) (d i : Nat) : State :=
  let b := getBk (getDie s d) i
  if !(b.parts.all fun p => p.ack || p.nack != 0) then s
  else if (b.parts.all fun p => p.ack) && (getDie s d).time.off160 then abortAttempt s d i 0 true
  else if b.parts.all fun p => p.ack then
    let s := modBk s d i fun b => { b with st := .committing, sentAt := slotNow s d }
    b.parts.foldl (fun s p => send s { kind := .bkCommit, src := d, dst := p.die, tag := handleOf i b, opnd := b.stamp }) s
  else abortAttempt s d i ((b.parts.map fun p => p.nack).foldl max 0) true

/-- BOOKING_ACK (R289). -/
def execBookingAck (s : State) : Host.Outcome State Fault Refusal :=
  match msgOf s s.ev.k .bkAck with
  | none => .next (stayMsg s .bkAck)
  | some m =>
    let s := dropMsg s s.ev.k
    match askerOf s m with
    | none => .next s
    | some i =>
      let d := m.dst
      if (getBk (getDie s d) i).st ≠ .preparing then .next s
      else
        let s := modPart s d i m.src fun p => { p with ack := true }
        let s := modBk s d i fun b => setUses b fun k u =>
          match m.parts.find? fun p => p.use == k && u.cls ≥ 2 with
          | some p => { u with pinst := p.inst }
          | none => u
        let s := modReeve s d fun r => { r with
          edges := r.edges ++ m.ents.map fun e => { pdie := e.die, pred := e.handle, puse := e.use, succ := m.tag, use := e.lo } }
        .next (answered s d i)

/-- BOOKING_NACK (R289 step 5, R292 step 4): the shift asked for, or a code that ends the task (R282). -/
def execBookingNack (s : State) : Host.Outcome State Fault Refusal :=
  match msgOf s s.ev.k .bkNack with
  | none => .next (stayMsg s .bkNack)
  | some m =>
    let s := dropMsg s s.ev.k
    match askerOf s m with
    | none => .next s
    | some i =>
      let d := m.dst
      let b := getBk (getDie s d) i
      if b.st ≠ .preparing then .next s
      else if m.opnd2 ≠ 0 then
        .next (noPlace (abortAttempt s d i 0 false) d i m.opnd2.toNat)
      else if b.isGang then .next (answered (modPart s d i m.src fun p => { p with nack := max 1 m.op }) d i)
      else .next (abortAttempt s d i m.op true)

/-- The parts of a gang become bookings of their die (R292). -/
def gangKids (s : State) (self : Nat) (o : RBook) (t : Booking) : State :=
  o.marks.foldl (fun s m =>
    match freeBk (getDie s self) with
    | none => s
    | some i =>
      let x := getDie s self
      let g := spGet 1 x.reeve.gens i
      let u : Use := { nthUse t 0 with placed := true, pinst := m.cal, slots := m.slots, cls := 0 }
      let b : Booking :=
        { st := .booked, gen := g, stamp := o.stamp, prio := t.prio, tiles := t.tiles, uses := [u], core := m.cal, bound := true, tried := true,
          job := { t.job with handle := i * 64 + g, gang := true, gstart := m.slots.headD 0 } }
      let s := modDie s self fun x => m.slots.foldl (fun x k => exPut x m.cal k (BitVec.ofNat 25 ((i * 64 + g) * 32 + 2))) (setBk x i b)
      modReeve s self fun r => { r with others := r.others.map fun y =>
        if y.die == o.die && y.handle == o.handle then { y with kids := y.kids ++ [i * 64 + g] } else y }) s

/-- BOOKING_COMMIT (R289 step 4, R291). -/
def execBookingCommit (s : State) : Host.Outcome State Fault Refusal :=
  match msgOf s s.ev.k .bkCommit with
  | none => .next (stayMsg s .bkCommit)
  | some m =>
    let s := dropMsg s s.ev.k
    let d := m.dst
    let back := fun (s : State) (k : MKind) => send s { kind := k, src := d, dst := m.src, tag := m.tag, opnd := m.opnd }
    match otherOf (getDie s d) m.src m.tag with
    | none => .next (back s .bkCommitNack)
    | some o =>
      let s := modDie s d fun x => putMarks o.handle o.marks 2 false true (putMarks o.handle (o.marks.filter fun k => !k.ex) 0 true false x)
      let s := modReeve s d fun r => { r with
        others := r.others.map fun y => if y.die == o.die && y.handle == o.handle then { y with comm := true } else y }
      let s := match o.task with
        | some t => gangKids s d o t
        | none => s
      .next (back (retryHeld s d) .bkCommitAck)

/-- BOOKING_COMMIT_ACK (R289 step 4): with every one in, the coordinator commits. -/
def execBookingCommitAck (s : State) : Host.Outcome State Fault Refusal :=
  match msgOf s s.ev.k .bkCommitAck with
  | none => .next (stayMsg s .bkCommitAck)
  | some m =>
    let s := dropMsg s s.ev.k
    match askerOf s m with
    | none => .next s
    | some i =>
      let d := m.dst
      if (getBk (getDie s d) i).st ≠ .committing then .next s
      else
        let s := modPart s d i m.src fun p => { p with commit := true }
        if (getBk (getDie s d) i).parts.all fun p => p.commit then .next (runPend (commitBk s d i true) d i) else .next s

/-- BOOKING_COMMIT_NACK (R291): cancelled where committed, placed again as a restart. -/
def execBookingCommitNack (s : State) : Host.Outcome State Fault Refusal :=
  match msgOf s s.ev.k .bkCommitNack with
  | none => .next (stayMsg s .bkCommitNack)
  | some m =>
    let s := dropMsg s s.ev.k
    match askerOf s m with
    | none => .next s
    | some i => if (getBk (getDie s m.dst) i).st ≠ .committing then .next s else .next (runPend (abortAttempt s m.dst i 0 true) m.dst i)

/-- BOOKING_ABORT (R289 step 5, R291, R294): what the booking holds here is freed, all of it or one use's units; a gang's parts that have
not started are cancelled. -/
def execBookingAbort (s : State) : Host.Outcome State Fault Refusal :=
  match msgOf s s.ev.k .bkAbort with
  | none => .next (stayMsg s .bkAbort)
  | some m =>
    let s := dropMsg s s.ev.k
    let d := m.dst
    let s := modReeve s d fun r => { r with held := r.held.filter fun p => !(p.die == m.src && p.handle == m.tag) || m.op != 0 }
    match otherOf (getDie s d) m.src m.tag with
    | none => .next s
    | some o =>
      if m.op ≠ 0 then .next (retryHeld (dropOther s d o (some (m.op - 1))) d)
      else
        let s := if o.kids = [] then dropOther s d o none else modReeve s d fun r => { r with others := r.others.filter fun y => y != o }
        let s := o.kids.foldl (fun s h =>
          match liveIdx (getDie s d) h with
          | some i => if (getBk (getDie s d) i).st = .booked then cancelHeld s d i true else s
          | none => s) s
        .next (backfill (retryHeld s d) d 16)

/-- WOUND (R290): the younger booking is aborted everywhere and placed again, unless COMMIT has been sent: then REFUSE. -/
def execWound (s : State) : Host.Outcome State Fault Refusal :=
  match msgOf s s.ev.k .wound with
  | none => .next (stayMsg s .wound)
  | some m =>
    let s := dropMsg s s.ev.k
    match askerOf s m with
    | none => .next s
    | some i =>
      let d := m.dst
      match (getBk (getDie s d) i).st with
      | .preparing => .next (abortAttempt s d i 0 false)
      | .committing | .booked | .running => .next (send s { kind := .refuse, src := d, dst := m.src, tag := m.tag, opnd := m.opnd })
      | _ => .next s

/-- REFUSE (R290): the marks stand as committed, and the older PREP is answered. -/
def execRefuse (s : State) : Host.Outcome State Fault Refusal :=
  match msgOf s s.ev.k .refuse with
  | none => .next (stayMsg s .refuse)
  | some m =>
    let d := m.dst
    let s := modReeve (dropMsg s s.ev.k) d fun r => { r with
      others := r.others.map fun o => if o.die = m.src && o.handle = m.tag then { o with held := true } else o }
    .next (retryHeld s d)

/-- TENTATIVE_MARK_TIMEOUT (R291): the marks of entry `ev.k` of die `ev.w.die` have stood for 64 slots. -/
def execTentativeMarkTimeout (s : State) : Host.Outcome State Fault Refusal :=
  let d := s.ev.w.die
  match (getDie s d).reeve.others[s.ev.k]? with
  | none => .next s
  | some o => if !o.comm && o.since + 64 ≤ slotNow s d then .next (retryHeld (dropOther s d o none) d) else .next s

/-- REMOTE_ANSWER_TIMEOUT (R291; R282 REMOTE_FAIL): a die has not answered booking `ev.k` of die `ev.w.die` within 64 slots, or its link
has failed. -/
def execRemoteAnswerTimeout (s : State) : Host.Outcome State Fault Refusal :=
  let d := s.ev.w.die
  let b := getBk (getDie s d) s.ev.k
  let wait := fun (p : Part) => (b.st == .preparing && !p.ack && p.nack == 0) || (b.st == .committing && !p.commit)
  if b.parts.any fun p => wait p && (b.sentAt + 64 ≤ slotNow s d || pathDown s d p.die || pathDown s p.die d) then
    let s := abortAttempt s d s.ev.k 0 false
    .next (refuseBk s d s.ev.k 0x0B)
  else .next s

/-! ### The start of a slot (12 R272, R293, R295, R304) -/

/-- Rows of slots `old` to `now` - 1 are cleared. -/
def clearRows (old now : Nat) (r : ReeveSt) : ReeveSt :=
  let keep := fun (k : Nat) => !((k % 4096 + 4096 - old % 4096) % 4096 < now - old)
  { r with excl := r.excl.filter fun x => keep x.1, cap := r.cap.filter fun x => keep x.1, slot := now }

/-- Committed bookings in ascending stamp. -/
def heldByStamp (d : Die) : List Nat :=
  let l := (d.reeve.bks.filter fun (_, b) => bkHeld b).map fun (i, b) => (b.stamp.toNat, i)
  (sortBy (fun a b => a.1 ≤ b.1) l).map Prod.snd

/-- Exclusive uses of a booking, each with its index as it stands when its turn comes. -/
def eachUse (s : State) (d i : Nat) (f : State → Nat → Use → State) : State :=
  (List.range (getBk (getDie s d) i).uses.length).foldl (fun s k =>
    let b := getBk (getDie s d) i
    let u := nthUse b k
    if bkHeld b && exLeft u then f s k u else s) s

/-- What follows at the Reeve from the end of a use that its engine has ended (R294): its slots are freed, and with the last one the
booking ends. -/
def sweepUse (s : State) (d i k : Nat) : State :=
  let t := (nthUse (getBk (getDie s d) i) k).endS
  useGone (modBk (freeRest s d i k t) d i fun b => setEnded b k t) d i k false

/-- Every part of a gang has ended: its coordinator's booking ends with the last of them (R292, R294). -/
def gangOver (s : State) (d i : Nat) : Bool :=
  let h := handleOf i (getBk (getDie s d) i)
  (allDies s).all fun x => (getDie s x).reeve.others.all fun o =>
    o.die != d || o.handle != h || o.kids.all fun k => (liveIdx (getDie s x) k).isNone

/-- The uses that engines have ended since the last slot began, with those whose pull-forward is due (R298). -/
def sweepUses (s : State) (d : Nat) : State × List (Nat × Nat × List (Nat × Nat)) :=
  (heldByStamp (getDie s d)).foldl (fun p i =>
    (List.range (getBk (getDie s d) i).uses.length).foldl (fun p k =>
      let b := getBk (getDie p.1 d) i
      let u := nthUse b k
      let due := (i, k, reachedFrom p.1 d (handleOf i b))
      if !(bkHeld b) || u.cls ≥ 2 then p
      else if b.isGang then (if b.gang ≠ [] && !u.ended && gangOver p.1 d i then (endUse p.1 d i k false, p.2 ++ [due]) else p)
      else if u.ended && !u.swept then (sweepUse p.1 d i k, p.2 ++ [due])
      else if !u.ended && u.closing && !(useBusy p.1 d i k false) then
        (sweepUse (modBk p.1 d i fun b => setEnded b k (slotNow p.1 d)) d i k, p.2 ++ [due])
      else p) p) (s, [])

/-- Slip decisions (R295, R304 step 1). -/
def slips (s : State) (d n : Nat) : State :=
  (heldByStamp (getDie s d)).foldl (fun s i =>
    let b := getBk (getDie s d) i
    if b.uses = [] then (if b.endSlot ≤ n then finishBk s d i 0x0D else s)
    else eachUse s d i fun s k u =>
      let past := (u.slots.getLast?).any fun t => t < n
      if u.unb || !past then s
      else if b.isGang then (if gangOver s d i then endUse s d i k false else s)
      else slipUse s d i k) s

/-- The power change window of a die stands in slot `n` (R305). -/
def inWindow (d : Die) (n : Nat) : Bool := d.power.target.isSome && d.power.window == n && n != 0

/-- A gate opens (R293), the job resident (01 R15): the engine's work may go on; a Carter pauses the other context's command (05 R128). -/
def openGate (s : State) (d i u : Nat) : State :=
  let s := residentBy s d i
  let x := getDie s d
  let b := getBk x i
  let v := nthUse b u
  match jobAt x i b with
  | none => s
  | some (core, k) =>
    let atts := (attsOf b u).map Prod.fst
    let s := modBk s d i fun b =>
      { setUses b fun k y => if k = u then { y with gate := true, started := true } else if atts.contains k then { y with started := true } else y
        with st := .running }
    let w : Who := ⟨d, core, k⟩
    if v.cls = 0 then resumeMill s w
    else
      match headCmd (getCtx s (otherCtx w)) (v.pinst % 2) with
      | some q => if q.started && !q.moved then modHead s (otherCtx w) (v.pinst % 2) fun q => { q with paused := true } else s
      | none => s

/-- Gates open and close (R293, R304 step 2), none while fabric time is out by more than half a slot (17 R428); a use whose predecessor has not ended is placed again. -/
def gates (s : State) (d n : Nat) : State :=
  (heldByStamp (getDie s d)).foldl (fun s i =>
    if (getBk (getDie s d) i).isGang then s
    else eachUse s d i fun s k u =>
      let here := u.slots.contains n
      if here && !u.gate && !u.closing then
        if inWindow (getDie s d) n || (getDie s d).time.off160 then s
        else if predsDone s d i k then openGate s d i k
        else if !u.started then ripple 4096 (moveUse s d i k (boundOf s d i k) false)
        else s
      else if !here && u.gate then modBk s d i fun b => setUse b k fun x => { x with gate := false }
      else if !u.started && !u.unb && (u.slots.getLast?).any fun t => t < n then
        ripple 4096 (moveUse s d i k (boundOf s d i k) false)
      else s) s

/-- Tentative marks whose slot begins are freed (R291): another die's; with a local coordinator's the attempt ends, before COMMIT as after it,
and is cancelled where a die has committed it. -/
def staleMarks (s : State) (d n : Nat) : State :=
  let s := ((getDie s d).reeve.others.filter fun o => !o.comm && o.marks.any fun m => m.slots.any fun t => t ≤ n).foldl
    (fun s o => dropOther s d o none) s
  ((getDie s d).reeve.bks.filter fun (_, b) =>
      (b.st == .preparing || b.st == .committing) && !b.isGang && b.uses.any fun u => !u.ended && u.slots.any fun t => t ≤ n).foldl
    (fun s (i, _) => abortAttempt s d i 0 true) s

/-- Tasks whose deadline has passed end with NOFIT_DEADLINE (R282). -/
def deadlines (s : State) (d n : Nat) : State :=
  ((getDie s d).reeve.bks.filter fun (_, b) => inIntake b && b.deadl ≠ 0 && n > b.deadl).foldl (fun s (i, _) => refuseBk s d i 3) s

/-- SLOT_START (R304): the slot that die `ev.w.die` has reached begins; in a slot that has begun, the Reeve goes on with its intake. -/
def execSlotStart (s : State) : Host.Outcome State Fault Refusal :=
  let d := s.ev.w.die
  let n := slotNow s d
  let old := (getDie s d).reeve.slot
  if n < old || !(dieOk s d) then .next s
  else if (getDie s d).power.state ≠ 0 then .next (modReeve s d (clearRows old n))
  else if n = old then .next (serveIntake s d)
  else
    let (s, due) := sweepUses s d
    let s := modReeve s d (clearRows old n)
    let s := slips s d n
    let s := gates s d n
    let s := retryHeld (staleMarks s d n) d
    let s := due.foldl (fun s (i, k, hs) => backfill (pullForward s d i k hs) d 16) s
    let s := if n / 64 ≠ old / 64 then backfill s d 16 else s
    let s := ((getDie s d).reeve.bks.filter fun (_, b) => inIntake b && b.pend ≠ []).foldl (fun s (i, _) => runPend s d i) s
    .next (serveIntake (deadlines s d n) d)

/-! ### BQRY, BCAN, BDONE (14 R350, R353 to R355) -/

/-- The exclusive uses of a booking have ended, and so has the booking (R294). -/
def allEnded (b : Booking) : Bool := (b.uses.any fun u => u.cls < 2) && b.uses.all fun u => u.cls ≥ 2 || u.ended

/-- The booking that a handle word names for the issuing context: live, and of its launch in job mode. -/
def bookingFor (s : State) (w : Who) (h : Nat) : Option Nat :=
  let d := getDie s w.die
  let c := getCtx s w
  (liveIdx d h).bind fun i =>
    let b := getBk d i
    let mine := c.acc.sys || (b.fe.isNone && c.job.any fun j => launchKey j == launchKey b.job)
    if mine && !(bkHeld b && allEnded b) then some i else none

def stateNum : BkState → Nat
  | .free => 0
  | .queued => 1
  | .placing => 2
  | .preparing => 3
  | .committing => 4
  | .booked => 5
  | .running => 6

/-- A query word (R353). -/
def queryWord (b : Booking) (sel : Nat) : Word :=
  let f := fun (x : Bool) (k : Nat) => if x then 2 ^ k else 0
  if sel = 0 then
    let slot := ((firstPlaced b).map fun u => u.slots.headD 0).getD 0
    w64 (2 ^ 63 + f b.late 62 + b.level % 8 * 2 ^ 59 + stateNum b.st * 2 ^ 55 + b.restarts % 32 * 2 ^ 50 + slot % 2 ^ 32 * 2 ^ 8 +
      if bkHeld b then 0 else 9)
  else if sel > b.uses.length then 0
  else
    let u := nthUse b (sel - 1)
    w64 (f u.placed 63 + f u.started 62 + f u.ended 61 + f u.ovr 60 + f u.unb 59 + (if u.placed then u.pinst else u.inst) % 128 * 2 ^ 52 +
      u.slots.length % 4096 * 2 ^ 36 + u.slots.headD 0 % 2 ^ 32)

/-- An instruction on a handle word (R350). -/
def withHandle (i : Instr) (d a : GReg) (b : List Src) (s : State) (k : State → Word → Option Nat → Word → Res) : Res :=
  withOps s (wordOf i) ([.g a] ++ b) [] (.g d) fun s vs =>
    let h := opv vs 0
    if h.toNat ≥ 2 ^ 20 then .trap 0x01 h else k s h (bookingFor s (me s) h.toNat) (opv vs 1)

/-- BQRY (R353). -/
def execBqry (d a : GReg) (b : RC) (s : State) : Host.Outcome State Fault Refusal :=
  runAccess s fun s => withHandle (.bqry d a b) d a [rcSrc b] s fun s _ i? sel =>
    if sel.toNat > 8 then .trap 0x01 (wordOf (.bqry d a b))
    else
      let v := match i? with
        | none => 0
        | some i => queryWord (getBk (getDie s (me s).die) i) sel.toNat
      .ok (putDst s (.g d) v) .seq

/-- The status comes once the booking's commit has come about (R354, R355). -/
def deferStatus (s : State) (d : GReg) (i k : Nat) : State :=
  let w := me s
  let s := issueTo s (.g d) { id := 0, w := w, kind := .result, size := 0 }
  modBk s w.die i fun b => { b with pend := b.pend ++ [(k, w, (getDie s w.die).nextId)] }

/-- BCAN (R354). -/
def execBcan (d a : GReg) (s : State) : Host.Outcome State Fault Refusal :=
  runAccess s fun s => withHandle (.bcan d a) d a [] s fun s _ i? _ =>
    let w := me s
    match i? with
    | none => .ok (putDst s (.g d) 2) .seq
    | some i =>
      if (getBk (getDie s w.die) i).st = .committing then .ok (deferStatus s d i 8) .seq
      else
        let r := cancelBk s w.die i
        .ok (putDst r.1 (.g d) (w64 r.2)) .seq

/-- BDONE (R355). -/
def execBdone (d a : GReg) (b : RC) (s : State) : Host.Outcome State Fault Refusal :=
  runAccess s fun s => withHandle (.bdone d a b) d a [rcSrc b] s fun s _ i? u =>
    let w := me s
    if u.toNat ≥ 8 then .trap 0x01 (wordOf (.bdone d a b))
    else
      match i? with
      | none => .ok (putDst s (.g d) 2) .seq
      | some i =>
        let st := (getBk (getDie s w.die) i).st
        if u.toNat ≥ (getBk (getDie s w.die) i).uses.length then .ok (putDst s (.g d) 3) .seq
        else if st = .preparing || st = .committing then .ok (deferStatus s d i u.toNat) .seq
        else
          let r := doneBk s w.die i u.toNat
          .ok (putDst r.1 (.g d) (w64 r.2)) .seq

end Sys2Proof.Machine
end

