-- ==== Sys2Proof/Machine/Context.lean ====
section
/-!
DEFINITION. Saving and restoring a context: CTXS, CTXR, the front end's pre-emption, and their completion (01 R39; 13 R318 to R324; 14 R358
to R360; 18 R470).
-/
namespace Sys2Proof.Machine
open Sys2Proof

/-! ### The area -/

/-- The physical runs of `n` bytes at `a` in this die's HBM (14 R358), or a cause and an address. -/
def areaRuns (s : State) (w : Who) (a : Word) (n : Nat) (need : Word → Bool) : State × Except (Nat × Word) (List (Nat × Nat)) :=
  match translateRange s w.die (.access w.core) (getCtx s w).dbg.xctx a need (granules a.toNat n) with
  | (s, .error e) => (s, .error e)
  | (s, .ok ls) =>
    let ps := (pieces a.toNat n (granules a.toNat n)).zip ls
    match ps.find? fun p => p.2.sp != .hbm with
    | some p => (s, .error (4, w64 p.1.1))
    | none => (s, .ok (ps.map fun p => (p.2.pa, p.1.2)))

/-- The bytes of runs, each with the mark of its sector. -/
def readArea (m : MemSt) (runs : List (Nat × Nat)) : List (Byte × Nat) :=
  runs.flatMap fun (pa, n) => (List.range n).map fun k => (memGet m.hbm (pa + k), hbmMark m ((pa + k) / 32))

/-- The first `n` bytes of runs. -/
def takeRuns : List (Nat × Nat) → Nat → List (Nat × Nat)
  | [], _ => []
  | (pa, m) :: t, n => if n = 0 then [] else (pa, min m n) :: takeRuns t (n - m)

/-- Write an image over runs, as far as both go; a poisoned byte poisons its sector. -/
def writeArea (m : MemSt) : List (Nat × Nat) → List MByte → MemSt
  | [], _ => m
  | (pa, n) :: t, bs =>
    let part := bs.take n
    let m := hbmWrite m pa (part.map Prod.fst)
    let bad := part.zipIdx.filterMap fun (b, i) => if b.2 then some ((pa + i) / 32) else none
    writeArea { m with herr := bad.foldl (fun e k => spSet 0 e k 3) m.herr } t (bs.drop n)

/-- The largest area: every section at its longest, and reports. -/
def areaMax : Nat := 2 ^ 23

/-! ### CTXS (14 R359) -/

/-- A save begins: the streams stop at their boundaries and every wait is abandoned (13 R318). -/
def beginSave (s : State) (t : Who) (op : CtxOp) : State :=
  let s := abandonWait (abandonWait (abandonWait s t .access) t .loom) t .mill
  modCtx s t fun c => { c with saving := some op }

/-- A save or restore by instruction: rd waits for its status. -/
def issueCtxOp (s : State) (d : RC) (a : Word) : State := issueTo s d { id := 0, w := me s, kind := .result, size := 0, va := a }

def execCtxs (d a b : RC) (s : State) : Host.Outcome State Fault Refusal :=
  runAccess s fun s =>
    let w := me s
    let i : Instr := .ctxs d a b
    let bad := fun v : Word => bits v 6 10 ≠ 0 || bits v 48 16 ≠ 0 || targetOf w.die v = w
    withPriv (getCtx s w).acc.sys (fun vs => bad (opv vs 1)) s (wordOf i) [rcSrc a, rcSrc b] [] d fun s vs =>
      let area := opv vs 0
      let v := opv vs 1
      let t := targetOf w.die v
      let n := bits v 16 32
      if bad v then .trap 0x01 (wordOf i)
      else if area.toNat % 4096 ≠ 0 then .trap 0x03 area
      else
        match areaRuns s w area (n * 4096) pteWR with
        | (_, .error (cause, va)) => rangeRes cause va
        | (s, .ok runs) =>
          if (getCtx s t).job.isNone then .ok (putDst s d 1) .seq
          else if (getCtx s t).saving.isSome then .hold
          else
            let s := issueCtxOp s d area
            .ok (beginSave s t { id := (getDie s w.die).nextId, runs := runs, va := area, limit := n }) .seq

/-- PREEMPT (13 R318): the front end saves context `ev.w` to the area at HBM address `ev.n`. -/
def execPreempt (s : State) : Host.Outcome State Fault Refusal :=
  let w := s.ev.w
  let c := getCtx s w
  if !(whoOk s w) || c.job.isNone || c.saving.isSome || c.restoring.isSome || s.ev.n % 4096 ≠ 0 || s.ev.n + areaMax > hbmSize then .next s
  else .next (beginSave s w { runs := [(s.ev.n, areaMax)], limit := areaMax / 4096 })

/-! ### The save's end (13 R318 to R323) -/

/-- An access that the save does not wait for: the result of a BNDC not started or of a BNDR (18 R470). -/
def saveHeld (c : Ctx) (a : Access) : Bool :=
  a.kind == .result && (c.bndr.any (fun r => r.id == a.id) || (c.c0.q ++ c.c1.q).any fun q => q.kind == .bndc && q.dest == a.id)

/-- Everything that the save completes first has completed (13 R318, R319; 05 R153). -/
def saveReady (s : State) (w : Who) : Bool :=
  let c := getCtx s w
  c.stop.isNone && (getDie s w.die).acc.all (fun a => a.w != w || saveHeld c a) && c.mill.flight.all (fun x => x.stage == .steps && x.rd == []) && c.loom.fly.isNone &&
    ((getCore s w).landq.all fun l => !(l.begun && slotOwner s w l.slot == some w)) &&
    (c.c0.q ++ c.c1.q).all fun q => q.wait != 1 && (q.kind != .bndc || q.bw.phase == 0)

/-- Bring the context to what is saved: lost tag entries reported, a stop that waited for the boundary made, the MSTEP at the step that `mrp`
names (07 R194), BNDRs back at their start. -/
def settleSave (s : State) (w : Who) : State :=
  let s := tagSenseAll s w (waySlots (getCtx s w).ways)
  let s := match (getCtx s w).mill.pend with
    | some p => stopStream (modMill s w fun m => { m with pend := none }) w .mill p.1 p.2
    | none => s
  modCtx s w fun c => { c with
    mill := { c.mill with
      flight := []
      mrp := ((c.mill.flight.find? fun x => x.stage == .steps).map fun x => BitVec.ofNat 16 x.step).getD c.mill.mrp }
    bndr := c.bndr.map fun r => { r with attempt := 0, round := 1, lines := [], await := [], super := false } }

/-- The slots that a use needs when its task is booked afresh: for one that has started the remainder that its engine reports, or, where the
engine holds nothing of it, what it has left of its run (12 R300). -/
def restUse (s : State) (w : Who) (i : Nat) (b : Booking) (u : Nat) : Nat :=
  let v := nthUse b u
  let left := max 1 (v.slots.filter fun t => slotNow s w.die ≤ t).length
  if !v.started then v.dur
  else if v.cls = 0 then ((millLeft s w u).map fun n => max 1 (ceilDiv n 576)).getD left
  else if useBusy s w.die i u true then max 1 (ceilDiv (carterLeft s w.die w (v.pinst % 2) u) 576)
  else left

/-- The task that the front end books afresh for a pre-empted job: the same regions, the uses that have not ended, on the same core, one
partly run on the same instance (12 R300; 14 R360; notes/assumptions/59.md). -/
def afreshBk (s : State) (w : Who) : Option Booking :=
  (getCtx s w).job.bind fun j => if !j.bkd then none else
    (liveIdx (getDie s w.die) j.handle).map fun i =>
      let b := getBk (getDie s w.die) i
      let dur := fun (k : Nat) (u : Use) => restUse s w i b (if u.cls < 2 then k else u.att)
      { prio := b.prio, queue := true, tiles := b.tiles, rel := b.rel, deadl := b.deadl, done := b.done, level := b.prio, job := b.job, sys := b.sys
        regs := b.regs, on := some w.core, fe := b.fe.filter fun f => f.2.2 != 0
        uses := b.uses.mapIdx fun k u => if u.ended then u else
          { u with
            dur := dur k u, placed := false, slots := [], started := false, gate := false, ovr := false, unb := false, susp := false, tail := false
            closing := false, cut := false, bind := if u.started && u.cls < 2 then 2 else u.bind
            inst := if u.started && u.cls < 2 then u.pinst else u.inst } }

/-- The booking of a job that leaves the core (12 R300): its uses go back, and its record. -/
def releaseBk (s : State) (w : Who) : State :=
  match (getCtx s w).job with
  | none => s
  | some j =>
    if !j.bkd then s
    else
      let i := j.handle / 64
      let s := match liveIdx (getDie s w.die) j.handle with
        | some i => if bkHeld (getBk (getDie s w.die) i) then cancelHeld s w.die i true else withdrawBk s w.die i 0x0C
        | none => s
      let b := getBk (getDie s w.die) i
      if b.st = .free && b.bound && handleOf i b = j.handle then settleBk s w.die i else s

/-- The page counts of a context's Carter commands go. -/
def dropCounts (s : State) (w : Who) : State :=
  let c := getCtx s w
  modDie s w.die fun d => ((c.c0.q ++ c.c1.q).flatMap fun q => q.pages).foldl (fun d p => tlbCount d p.1 p.2 false) d

/-- A status reaches the instruction that awaits it. -/
def ctxStatus (s : State) (d id : Nat) (v : Word) : State :=
  match accAt (getDie s d) id with
  | none => s
  | some a => accDone s a v

/-- The context leaves its core and is registered with the die (13 R320), with the task to book afresh; landings queued for it wait at the
die. -/
def freeSaved (s : State) (w : Who) (op : CtxOp) (bk : Option Booking) : State :=
  let c := getCtx s w
  let accs := (getDie s w.die).acc.filter fun a => a.w == w
  let mine := fun (l : Landing) => landCtx (getCore s w) l == some w.ctx
  let lands := (getCore s w).landq.filter mine
  let rec_ : Saved :=
    { core := w.core, launch := (ctxLaunch c).getD 0, area := ((op.runs.map Prod.fst).headD 0), ctx := { c with saving := none }, accs := accs, bk := bk }
  let s := releaseBk (dropCounts s w) w
  let s := modDie s w.die fun d => { d with
    acc := d.acc.filter fun a => a.w != w
    tlb := { d.tlb with tlbis := d.tlb.tlbis.filter fun o => o.w != w }
    saved := d.saved ++ [rec_]
    fab := { d.fab with store := lands ++ d.fab.store } }
  let s := modCore s w fun y => { y with landq := y.landq.filter fun l => !(mine l) }
  tellMoot (setCtx s w {}) { kind := 3, w := w }

/-- CONTEXT_SAVE_COMPLETE (14 R359): the save of context `ev.w` ends; where the image exceeds the limit the job stays, and its abandoned reads
of bundles begin again. -/
def execContextSaveComplete (s : State) : Host.Outcome State Fault Refusal :=
  let w := s.ev.w
  match (getCtx s w).saving with
  | none => .next s
  | some op =>
    if !(whoOk s w) || !(clockRuns (getDie s w.die).power) || !(saveReady s w) then .next s
    else
      let was := (getCtx s w).halted
      let bk := afreshBk s w
      let s := modCtx (settleSave s w) w fun c => { c with halted := false }
      let img := ctxImage s w
      let blocks := ceilDiv img.length 4096
      let s := modMem s w.die fun m => writeArea m op.runs img
      if blocks > op.limit then
        let s := modCtx s w fun c => { c with saving := none, halted := was }
        let s := (getCtx s w).bndr.foldl (fun s r => bndrAttempt s w r) s
        .next (ctxStatus s w.die op.id (w64 (2 + blocks * 2 ^ 32)))
      else .next (ctxStatus (freeSaved s w op bk) w.die op.id 0)

/-! ### CTXR (14 R360) -/

/-- The registered context whose area begins at an address, or else one of a core and launch (13 R320). -/
def savedOf (d : Die) (area core launch : Nat) : Option Nat :=
  match d.saved.findIdx? fun x => x.area == area with
  | some k => some k
  | none => d.saved.findIdx? fun x => x.core == core && x.launch == launch

/-- An image read with what the die knows of it. -/
def imageAt (s : State) (w : Who) (runs : List (Nat × Nat)) : Option CtxImage × Option Nat :=
  let d := getDie s w.die
  let total := leNat ((((readArea d.mem (takeRuns runs 256)).drop 0xE0).take 8).map Prod.fst)
  let bs := (readArea d.mem (takeRuns runs (min total areaMax))).map fun b => (b.1, b.2 != 0)
  let k := savedOf d ((runs.map Prod.fst).headD 0) (imgN bs 0x10 8 / 2 ^ 15 % 4 * 8 + imgN bs 0x10 8 / 2 ^ 17 % 8) (imgN bs 0 8)
  (readCtxImage bs ((k.bind fun k => d.saved[k]?).map Saved.ctx) d.time.cyc, k)

/-- The first sector of an area whose check fails. -/
def failedCheck (m : MemSt) (runs : List (Nat × Nat)) : Option Nat :=
  runs.findSome? fun (pa, n) => (physSectors pa n).find? fun k => hbmMark m k == 2

/-- The task of the context saved in an area is booked afresh, its new handle written into BH (12 R300; 14 R360). -/
def rebook (s : State) (w : Who) (runs : List (Nat × Nat)) : State :=
  match (imageAt s w runs).2.bind fun k => ((getDie s w.die).saved[k]?).bind fun v => v.bk.map fun b => (k, b) with
  | none => s
  | some (k, b) =>
    match enterTask s w.die b with
    | (s, .error _) => s
    | (s, .ok i) =>
      let h := handleOf i (getBk (getDie s w.die) i)
      let pa := (runs.map Prod.fst).headD 0 + 0x104
      modDie (modMem s w.die fun m => hbmWrite m pa (leBytes 4 h)) w.die fun d =>
        { d with saved := d.saved.mapIdx fun n v => if n = k then { v with bk := none } else v }

def execCtxr (d a b : RC) (s : State) : Host.Outcome State Fault Refusal :=
  runAccess s fun s =>
    let w := me s
    let i : Instr := .ctxr d a b
    let bad := fun v : Word => v.toNat ≥ 2 ^ 6 || targetOf w.die v = w
    withPriv (getCtx s w).acc.sys (fun vs => bad (opv vs 1)) s (wordOf i) [rcSrc a, rcSrc b] [] d fun s vs =>
      let area := opv vs 0
      let v := opv vs 1
      let t := targetOf w.die v
      if bad v then .trap 0x01 (wordOf i)
      else if area.toNat % 4096 ≠ 0 then .trap 0x03 area
      else
        match areaRuns s w area 4096 pteRD with
        | (_, .error (cause, va)) => rangeRes cause va
        | (s, .ok first) =>
          let total := leNat ((((readArea (getDie s w.die).mem first).drop 0xE0).take 8).map Prod.fst)
          if total < 0x1640 || total > areaMax then .trap 0x10 area
          else
            match areaRuns s w area total pteRD with
            | (_, .error (cause, va)) => rangeRes cause va
            | (s, .ok runs) =>
              match failedCheck (getDie s w.die).mem runs with
              | some k => .found (physDetect s w .hbm k 2) 0x10 area
              | none =>
                if (imageAt s t runs).1.isNone then .trap 0x10 area
                else if (getCtx s t).job.isSome || (getCtx s t).restoring.isSome then .ok (putDst s d 1) .seq
                else
                  let s := issueCtxOp (rebook s t runs) d area
                  .ok (modCtx s t fun c => { c with restoring := some { id := (getDie s w.die).nextId, runs := runs, va := area } }) .seq

/-! ### The restore's end (13 R313, R320 to R324; 18 R470) -/

/-- What remains of a restored Carter command's global range: address and length. -/
def retakeRange (q : Cmd) : Nat × Nat :=
  if q.moved || q.fail ≠ 0 then (0, 0)
  else
    match q.kind with
    | .cpy | .cpym => (q.a.toNat + q.done, cmdLen q - q.done)
    | .cpyg | .cpys => if q.rows * rowLen q > q.done then (q.a.toNat, rowLen q) else (0, 0)
    | _ => (0, 0)

/-- A restored Carter command takes its page counts afresh; what no longer translates makes it fail (13 R313). -/
def retakeCmd (s : State) (w : Who) (q : Cmd) : State × Cmd :=
  let need := if q.kind = .cpys || ((q.kind = .cpy || q.kind = .cpym) && xDir q.x) then needStore else needLoad
  let range := retakeRange q
  if range.2 = 0 then (s, q)
  else
    match translateRange s w.die (.core w.core) (getCtx s w).dbg.xctx (w64 range.1) need (granules range.1 range.2) with
    | (s, .error (0, _)) => (s, q)
    | (s, .error (cause, va)) => (s, { q with fail := cause, failVal := va })
    | (s, .ok ls) =>
      let ps := (ls.map fun l => (l.asid, l.base)).eraseDups
      (modDie s w.die fun d => ps.foldl (fun d p => tlbCount d p.1 p.2 true) d, { q with pages := ps })

def retakeQueue (w : Who) : List Cmd → State → State × List Cmd
  | [], s => (s, [])
  | q :: t, s =>
    let (s, q) := retakeCmd s w q
    let (s, t) := retakeQueue w t s
    (s, q :: t)

/-- A restored command whose range could not be translated yet, since no way of a die TLB set was free (13 R313). -/
def unpaged (c : Ctx) : Bool := (c.c0.q ++ c.c1.q).any fun q => (retakeRange q).2 != 0 && q.pages.isEmpty

/-- The accesses that awaited bundle results issue again under new numbers. -/
def reissueAccs (w : Who) : List Access → State → State
  | [], s => s
  | a :: t, s =>
    let s := issueAcc s { a with w := w }
    let id := (getDie s w.die).nextId
    let put := fun (q : CarterQ) => { q with q := q.q.map fun x => if x.kind = .bndc && x.dest = a.id then { x with dest := id } else x }
    reissueAccs w t (modCtx s w fun c => { c with
      c0 := put c.c0, c1 := put c.c1, bndr := c.bndr.map fun r => if r.id = a.id then { r with id := id } else r })

/-- The tag entries, tiles and written bits of the restored ways. -/
def restoreTiles (y : Core) (im : CtxImage) : Core :=
  let slots := im.tags.map Prod.fst
  let y := slots.foldl emptyTile y
  let y := im.tags.foldl (fun y t => setTag y t.1 (t.2 &&& ~~~(0xC0 : Word))) { y with tagErr := slots.foldl spDel y.tagErr }
  im.tiles.foldl (fun y (j, xs) =>
    xs.zipIdx.foldl (fun y (x, k) =>
      { y with
        sp := memWrite y.sp (4096 * j + 32 * k) x.1
        wr := spSet false y.wr (128 * j + k) true
        spErr := spSet 0 y.spErr (128 * j + k) (if x.2 then 1 else 0) }) y) y

/-- Put an image into its context. -/
def putImage (s : State) (w : Who) (op : CtxOp) (im : CtxImage) (k : Option Nat) : State :=
  let accs := ((k.bind fun k => (getDie s w.die).saved[k]?).map Saved.accs).getD []
  let s := modCore s w fun y => restoreTiles y im
  let s := setCtx s w (maskUldel (getCore s w) { im.ctx with saving := none, restoring := none })
  let s := modDie s w.die fun d => { d with saved := match k with
    | some k => d.saved.eraseIdx k
    | none => d.saved }
  let s := reissueAccs w accs s
  let (s, q0) := retakeQueue w (getCtx s w).c0.q s
  let (s, q1) := retakeQueue w (getCtx s w).c1.q s
  let s := modCtx s w fun c => { c with c0 := { c.c0 with q := q0 }, c1 := { c.c1 with q := q1 } }
  let s := (getCtx s w).bndr.foldl (fun s r => bndrAttempt s w r) s
  let j := im.ctx.job.getD {}
  let was : Who := { w with ctx := im.loc / 2 ^ 20 % 2 }
  let s := setLJob s j.pkg j.launch j.flat fun k => if k.st = 1 && k.who = was then { k with who := w } else k
  match op.runs with
  | (pa, _) :: _ => modMem s w.die fun m => hbmWrite m (pa + 0x10) (leBytes 8 (whereWord w))
  | [] => s

/-- CONTEXT_RESTORE_COMPLETE (14 R360): the restore into context `ev.w` ends. -/
def execContextRestoreComplete (s : State) : Host.Outcome State Fault Refusal :=
  let w := s.ev.w
  match (getCtx s w).restoring with
  | none => .next s
  | some op =>
    if !(whoOk s w) || !(clockRuns (getDie s w.die).power) then .next s
    else
      let out := modCtx s w fun c => { c with restoring := none }
      let other := getCtx s (otherCtx w)
      match imageAt s w op.runs with
      | (none, _) =>
        match accAt (getDie s w.die) op.id with
        | none => .next out
        | some a => .next (accFail out a 0x10)
      | (some im, k) =>
        if im.loc % 2 ^ 20 ≠ whoBits w then .next (ctxStatus out w.die op.id 3)
        else if other.job.isSome && (im.ctx.ways &&& other.ways) ≠ 0 then .next (ctxStatus out w.die op.id 4)
        else
          let t := putImage s w op im k
          .next (if unpaged (getCtx t w) then s else ctxStatus t w.die op.id 0)

end Sys2Proof.Machine
end

