-- ==== Sys2Proof/Machine/Integer.lean ====
section
/-!
DEFINITION. Integer and logic instructions of the access core (04 R95 to R99).
-/
namespace Sys2Proof.Machine
open Sys2Proof

/-- The shift amount b[5:0]. -/
def shAmt (b : Word) : Nat := b.toNat % 64

/-- 1 or 0. -/
def ofBool (p : Bool) : Word := if p then 1 else 0

/-- High half of the signed product (04 R95 MULH). -/
def mulHigh (a b : Word) : Word := BitVec.ofInt 64 (a.toInt * b.toInt / 2 ^ 64)

/-- High half of the unsigned product (04 R95 MULHU). -/
def mulHighU (a b : Word) : Word := w64 (a.toNat * b.toNat / 2 ^ 64)

/-- Signed quotient with the cases of 04 R96. -/
def divS (a b : Word) : Word := if b = 0 then -1 else BitVec.ofInt 64 (a.toInt.tdiv b.toInt)

/-- Signed remainder with the cases of 04 R96. -/
def remS (a b : Word) : Word := if b = 0 then a else BitVec.ofInt 64 (a.toInt.tmod b.toInt)

/-- Unsigned quotient with the cases of 04 R96. -/
def divU (a b : Word) : Word := if b = 0 then -1 else w64 (a.toNat / b.toNat)

/-- Unsigned remainder with the cases of 04 R96. -/
def remU (a b : Word) : Word := if b = 0 then a else w64 (a.toNat % b.toNat)

/-- How many of the leading bits of the number `a`, from bit `k - 1` down, are 0. -/
def clzFrom (a : Nat) : Nat → Nat
  | 0 => 0
  | k + 1 => if a.testBit k then 0 else clzFrom a k + 1

/-- How many of the bits of `a`, from bit `k` up, are 0 before the first 1; at most `n`. -/
def ctzFrom (a : Nat) (k : Nat) : Nat → Nat
  | 0 => 0
  | n + 1 => if a.testBit k then 0 else ctzFrom a (k + 1) n + 1

/-- How many of the low `k` bits of `a` are 1. -/
def popFrom (a : Nat) : Nat → Nat
  | 0 => 0
  | k + 1 => (if a.testBit k then 1 else 0) + popFrom a k

/-- A 13-bit immediate (02 R48). -/
def imm13 (i : BitVec 13) : Word := i.signExtend 64

/-- A 19-bit immediate shifted by 13 (02 R48). -/
def imm19hi (i : BitVec 19) : Word := i.signExtend 64 <<< 13

/-- Bits p + w - 1 to p of `a` (04 R98). -/
def bfExtract (a : Word) (p w : Nat) : Word := w64 (bits a p w)

/-- `old` with bits p + w - 1 to p replaced by the low bits of `a` (04 R98). -/
def bfInsert (old a : Word) (p w : Nat) : Word :=
  let m := w64 ((2 ^ w - 1) * 2 ^ p)
  (old &&& ~~~m) ||| (w64 (bits a 0 w * 2 ^ p))

def execAdd (d : RC) (a b : Src) (s : State) : Host.Outcome State Fault Refusal :=
  runAccess s (binOp (.add d a b) d a b fun x y => x + y)

def execSub (d : RC) (a b : Src) (s : State) : Host.Outcome State Fault Refusal :=
  runAccess s (binOp (.sub d a b) d a b fun x y => x - y)

def execAnd (d : RC) (a b : Src) (s : State) : Host.Outcome State Fault Refusal :=
  runAccess s (binOp (.and d a b) d a b fun x y => x &&& y)

def execOr (d : RC) (a b : Src) (s : State) : Host.Outcome State Fault Refusal :=
  runAccess s (binOp (.or d a b) d a b fun x y => x ||| y)

def execXor (d : RC) (a b : Src) (s : State) : Host.Outcome State Fault Refusal :=
  runAccess s (binOp (.xor d a b) d a b fun x y => x ^^^ y)

def execShl (d : RC) (a b : Src) (s : State) : Host.Outcome State Fault Refusal :=
  runAccess s (binOp (.shl d a b) d a b fun x y => x <<< shAmt y)

def execShr (d : RC) (a b : Src) (s : State) : Host.Outcome State Fault Refusal :=
  runAccess s (binOp (.shr d a b) d a b fun x y => x >>> shAmt y)

def execSha (d : RC) (a b : Src) (s : State) : Host.Outcome State Fault Refusal :=
  runAccess s (binOp (.sha d a b) d a b fun x y => x.sshiftRight (shAmt y))

def execSlt (d : RC) (a b : Src) (s : State) : Host.Outcome State Fault Refusal :=
  runAccess s (binOp (.slt d a b) d a b fun x y => ofBool (x.slt y))

def execSltu (d : RC) (a b : Src) (s : State) : Host.Outcome State Fault Refusal :=
  runAccess s (binOp (.sltu d a b) d a b fun x y => ofBool (x.ult y))

def execMin (d : RC) (a b : Src) (s : State) : Host.Outcome State Fault Refusal :=
  runAccess s (binOp (.min d a b) d a b fun x y => if x.slt y then x else y)

def execMax (d : RC) (a b : Src) (s : State) : Host.Outcome State Fault Refusal :=
  runAccess s (binOp (.max d a b) d a b fun x y => if x.slt y then y else x)

def execMinu (d : RC) (a b : Src) (s : State) : Host.Outcome State Fault Refusal :=
  runAccess s (binOp (.minu d a b) d a b fun x y => if x.ult y then x else y)

def execMaxu (d : RC) (a b : Src) (s : State) : Host.Outcome State Fault Refusal :=
  runAccess s (binOp (.maxu d a b) d a b fun x y => if x.ult y then y else x)

def execSel (d : GReg) (a b : Src) (s : State) : Host.Outcome State Fault Refusal :=
  runAccess s (rmwOp (.sel d a b) d [a, b] fun old vs => if old ≠ 0 then opv vs 0 else opv vs 1)

def execMul (d : RC) (a b : Src) (s : State) : Host.Outcome State Fault Refusal :=
  runAccess s (binOp (.mul d a b) d a b fun x y => x * y)

def execMulh (d : RC) (a b : Src) (s : State) : Host.Outcome State Fault Refusal :=
  runAccess s (binOp (.mulh d a b) d a b mulHigh)

def execMulhu (d : RC) (a b : Src) (s : State) : Host.Outcome State Fault Refusal :=
  runAccess s (binOp (.mulhu d a b) d a b mulHighU)

def execDiv (d : RC) (a b : Src) (s : State) : Host.Outcome State Fault Refusal :=
  runAccess s (binOp (.div d a b) d a b divS)

def execDivu (d : RC) (a b : Src) (s : State) : Host.Outcome State Fault Refusal :=
  runAccess s (binOp (.divu d a b) d a b divU)

def execRem (d : RC) (a b : Src) (s : State) : Host.Outcome State Fault Refusal :=
  runAccess s (binOp (.rem d a b) d a b remS)

def execRemu (d : RC) (a b : Src) (s : State) : Host.Outcome State Fault Refusal :=
  runAccess s (binOp (.remu d a b) d a b remU)

def execClz (d : RC) (a : Src) (s : State) : Host.Outcome State Fault Refusal :=
  runAccess s (unOp (.clz d a) d a fun x => w64 (clzFrom x.toNat 64))

def execCtz (d : RC) (a : Src) (s : State) : Host.Outcome State Fault Refusal :=
  runAccess s (unOp (.ctz d a) d a fun x => w64 (ctzFrom x.toNat 0 64))

def execPopc (d : RC) (a : Src) (s : State) : Host.Outcome State Fault Refusal :=
  runAccess s (unOp (.popc d a) d a fun x => w64 (popFrom x.toNat 64))

def execAddi (d a : RC) (i : BitVec 13) (s : State) : Host.Outcome State Fault Refusal :=
  runAccess s (unOp (.addi d a i) d (rcSrc a) fun x => x + imm13 i)

def execAndi (d a : RC) (i : BitVec 13) (s : State) : Host.Outcome State Fault Refusal :=
  runAccess s (unOp (.andi d a i) d (rcSrc a) fun x => x &&& imm13 i)

def execOri (d a : RC) (i : BitVec 13) (s : State) : Host.Outcome State Fault Refusal :=
  runAccess s (unOp (.ori d a i) d (rcSrc a) fun x => x ||| imm13 i)

def execXori (d a : RC) (i : BitVec 13) (s : State) : Host.Outcome State Fault Refusal :=
  runAccess s (unOp (.xori d a i) d (rcSrc a) fun x => x ^^^ imm13 i)

def execShli (d a : RC) (i : BitVec 6) (s : State) : Host.Outcome State Fault Refusal :=
  runAccess s (unOp (.shli d a i) d (rcSrc a) fun x => x <<< i.toNat)

def execShri (d a : RC) (i : BitVec 6) (s : State) : Host.Outcome State Fault Refusal :=
  runAccess s (unOp (.shri d a i) d (rcSrc a) fun x => x >>> i.toNat)

def execShai (d a : RC) (i : BitVec 6) (s : State) : Host.Outcome State Fault Refusal :=
  runAccess s (unOp (.shai d a i) d (rcSrc a) fun x => x.sshiftRight i.toNat)

def execSlti (d a : RC) (i : BitVec 13) (s : State) : Host.Outcome State Fault Refusal :=
  runAccess s (unOp (.slti d a i) d (rcSrc a) fun x => ofBool (x.slt (imm13 i)))

/-- 04 R98; `wd` holds the width less 1. -/
def execBfx (d a : RC) (p wd : BitVec 6) (s : State) : Host.Outcome State Fault Refusal :=
  runAccess s (unOp (.bfx d a p wd) d (rcSrc a) fun x => bfExtract x p.toNat (wd.toNat + 1))

def execBfi (d : GReg) (a : RC) (p wd : BitVec 6) (s : State) : Host.Outcome State Fault Refusal :=
  runAccess s (rmwOp (.bfi d a p wd) d [rcSrc a] fun old vs => bfInsert old (opv vs 0) p.toNat (wd.toNat + 1))

def execLui (d : RC) (i : BitVec 19) (s : State) : Host.Outcome State Fault Refusal :=
  runAccess s fun s => withOps s (wordOf (.lui d i)) [] [] d fun s _ => .ok (putDst s d (imm19hi i)) .seq

def execAuipc (d : RC) (i : BitVec 19) (s : State) : Host.Outcome State Fault Refusal :=
  runAccess s fun s =>
    let pc := (getCtx s (me s)).acc.pc
    withOps s (wordOf (.auipc d i)) [] [] d fun s _ => .ok (putDst s d (pc + imm19hi i)) .seq

end Sys2Proof.Machine
end

