-- ==== Sys2Proof/Machine/Control.lean ====
section
/-!
DEFINITION. Control flow of the access core (04 R94, R100 to R104).
-/
namespace Sys2Proof.Machine
open Sys2Proof

/-- B.cond (04 R100). -/
def branchBody (i : Instr) (k : Cond) (a b : RC) (o : BitVec 10) (s : State) : Res :=
  let pc := (getCtx s (me s)).acc.pc
  withOps s (wordOf i) [rcSrc a, rcSrc b] [] noDst fun s vs =>
    if condHolds k (opv vs 0) (opv vs 1) then checkTarget (pc + off10 o) (.ok s (.jump (pc + off10 o))) else .ok s .seq

def execBEq (a b : RC) (o : BitVec 10) (s : State) : Host.Outcome State Fault Refusal :=
  runAccess s (branchBody (.bEq a b o) .eq a b o)

def execBNe (a b : RC) (o : BitVec 10) (s : State) : Host.Outcome State Fault Refusal :=
  runAccess s (branchBody (.bNe a b o) .ne a b o)

def execBLt (a b : RC) (o : BitVec 10) (s : State) : Host.Outcome State Fault Refusal :=
  runAccess s (branchBody (.bLt a b o) .lt a b o)

def execBGe (a b : RC) (o : BitVec 10) (s : State) : Host.Outcome State Fault Refusal :=
  runAccess s (branchBody (.bGe a b o) .ge a b o)

def execBLtu (a b : RC) (o : BitVec 10) (s : State) : Host.Outcome State Fault Refusal :=
  runAccess s (branchBody (.bLtu a b o) .ltu a b o)

def execBGeu (a b : RC) (o : BitVec 10) (s : State) : Host.Outcome State Fault Refusal :=
  runAccess s (branchBody (.bGeu a b o) .geu a b o)

/-- A jump to `t`, computed from the sources, with the link written to `d` (04 R101). -/
def jumpBody (i : Instr) (d : RC) (srcs : List Src) (t : List Word → Word) (s : State) : Res :=
  let pc := (getCtx s (me s)).acc.pc
  withOps s (wordOf i) srcs [] d fun s vs => checkTarget (t vs) (.ok (putDst s d (pc + 4)) (.jump (t vs)))

def execJ (o : BitVec 19) (s : State) : Host.Outcome State Fault Refusal :=
  runAccess s (jumpBody (.j o) noDst [] fun _ => (getCtx s (me s)).acc.pc + off19 o)

def execJal (d : RC) (o : BitVec 19) (s : State) : Host.Outcome State Fault Refusal :=
  runAccess s (jumpBody (.jal d o) d [] fun _ => (getCtx s (me s)).acc.pc + off19 o)

def execJr (a : RC) (o : BitVec 13) (s : State) : Host.Outcome State Fault Refusal :=
  runAccess s (jumpBody (.jr a o) noDst [rcSrc a] fun vs => opv vs 0 + imm13 o)

def execJalr (d a : RC) (o : BitVec 13) (s : State) : Host.Outcome State Fault Refusal :=
  runAccess s (jumpBody (.jalr d a o) d [rcSrc a] fun vs => opv vs 0 + imm13 o)

/-- LOOP (04 R102); an offset below 1 raises 0x01. -/
def execLoop (a : RC) (o : BitVec 10) (s : State) : Host.Outcome State Fault Refusal :=
  runAccess s fun s =>
    let pc := (getCtx s (me s)).acc.pc
    if o.toInt < 1 then .trap 0x01 (wordOf (.loop a o))
    else
      withOps s (wordOf (.loop a o)) [rcSrc a] [] noDst fun s vs =>
        if opv vs 0 = 0 then .ok s (.skip (pc + off10 o + 4))
        else if (getCtx s (me s)).acc.loops.length ≥ 4 then .trap 0x01 (wordOf (.loop a o))
        else
          .ok (modCtx s (me s) fun c =>
            setLoops c .access ({ start := pc + 4, last := pc + off10 o, count := opv vs 0 } :: c.acc.loops)) .seq

/-- RDV (01 R24; 04 R104): the stream waits until the meeting opens. -/
def execRdv (s : State) : Host.Outcome State Fault Refusal :=
  runAccess s fun s => if (getCtx s (me s)).acc.uli then .trap 0x01 (wordOf .rdv) else .wait 7 0 0

/-- EXIT (01 R26). -/
def execExit (s : State) : Host.Outcome State Fault Refusal :=
  runAccess s fun s => if (getCtx s (me s)).acc.uli then .trap 0x01 (wordOf .exit) else .exit s

/-- NOP (04 R104). -/
def execNop (s : State) : Host.Outcome State Fault Refusal := runAccess s fun s => .ok s .seq

end Sys2Proof.Machine
end

