-- ==== Sys2Proof/Machine/Fabric.lean ====
section
/-!
DEFINITION. Links and flits, fabric time and the broadcasts of the debug channel (17 R417 to R424, R425 to R428, R451, R453).
-/
namespace Sys2Proof.Machine
open Sys2Proof

/-! ### Flits (17 R417 to R419) -/

/-- One byte of the CRC-64, most significant bit first. -/
def crc64Byte (c : Word) (b : Byte) : Word :=
  (List.range 8).foldl (fun c _ => if c.msb then (c <<< 1) ^^^ 0x42F0E1EBA9EA3693 else c <<< 1) (c ^^^ (b.setWidth 64 <<< 56))

/-- The CRC-64 of a flit: header bytes 0 to 7, then the payload. -/
def flitCrc (f : List Byte) : Word := ((f.take 8) ++ f.drop 16).foldl crc64Byte 0

/-- The code of a requester in WHO: [7:6] 0 a core, 1 a router, 2 a Reeve (17 R417). -/
def whoByte (m : Msg) : Nat :=
  m.w.core % 32 + m.w.ctx % 2 * 2 ^ 5 + (if m.agent = 1 then 2 ^ 6 else if msgVc m.kind = 2 && heldKind m.kind && m.kind != .bCommit && m.kind != .bAbort then 2 ^ 7 else 0)

/-- The message header (17 R417). -/
def msgHeader (m : Msg) : List Byte :=
  leBytes 2 m.dst ++ leBytes 2 m.src ++ leBytes 1 (whoByte m) ++ leBytes 1 m.op ++ leBytes 2 m.tag ++ wordBytes8 m.addr ++ wordBytes8 m.opnd ++
    leBytes 4 (msgData m).length ++ leBytes 4 (m.cmb.toNat + if m.size = 8 then 2 else 0)

/-- `n` sectors of data from sector `k` on, then the end-to-end check of each (13 R329). -/
def dataPart (b : List Byte) (k n : Nat) : List Byte :=
  let ks := ((List.range n).map fun i => (b.drop (32 * (k + i))).take 32).filter fun x => x != []
  let full := ks.map fun x => x ++ List.replicate (32 - x.length) 0
  full.flatten ++ List.replicate (32 * (n - full.length)) 0 ++ full.flatMap fun x => leBytes 2 (t10Dif x).toNat

/-- The payload of flit `k` of a message: in the first the message header and 6 sectors of data, in each further one 7 (17 R417). -/
def flitPayload (m : Msg) (k : Nat) : List Byte :=
  let b := if k = 0 then msgHeader m ++ dataPart (msgData m) 0 6 else dataPart (msgData m) (7 * k - 1) 7
  b ++ List.replicate (240 - b.length) 0

/-- A flit as it leaves a port with sequence number `n`; none is the idle flit, which uses no number (17 R417). -/
def flitBytes (x : PortSt) (n : Nat) (f : Option Flit) : List Byte :=
  let own := match f with
    | some f => f.typ % 128 * 2 ^ 8 + f.nfl % 32 * 2 ^ 15 + (if f.idx = 0 then 2 ^ 20 else 0) + f.dl % 2 * 2 ^ 21 + f.vc % 4 * 2 ^ 22
    | none => 0
  let h := own + x.nak.toNat * 2 ^ 24 + x.rvc % 8 * 2 ^ 25 + spGet 0 x.freed x.rvc % 4096 * 2 ^ 28 + x.ackd % 4096 * 2 ^ 40 + n % 4096 * 2 ^ 52
  let body := match f with
    | some f => f.body
    | none => List.replicate 240 0
  leBytes 8 h ++ leBytes 8 (flitCrc (leBytes 8 h ++ leBytes 8 0 ++ body)).toNat ++ body

/-- A saturating count. -/
def satAdd (a n top : Nat) : Nat := min (a + n) top

/-- Entries of a replay buffer after sequence number `a`. -/
def afterAck (l : List (Nat × Flit)) (a : Nat) : List (Nat × Flit) :=
  match l with
  | [] => []
  | (q, f) :: t => if (q + 4096 - a - 1) % 4096 < 2048 then (q, f) :: afterAck t a else afterAck t a

/-- What an arriving header tells the sending side of its port: slots returned, flits acknowledged, flits to send again. -/
def linkCredit (x : PortSt) (h : Nat) : PortSt :=
  let ack := h / 2 ^ 40 % 4096
  let rvc := h / 2 ^ 25 % 8
  let rbuf := afterAck x.rbuf ack
  let nak := h.testBit 24
  { x with
    retd := spSet 0 x.retd rvc (h / 2 ^ 28 % 4096)
    rbuf := rbuf
    tries := if rbuf.length < x.rbuf.length then 0 else if nak && rbuf ≠ [] then x.tries + 1 else x.tries
    resend := if nak then rbuf else afterAck x.resend ack }

/-- A flit arrives at a port at oscillator time `now`. -/
def flitArrive (x : PortSt) (f : List Byte) (now : Nat) : PortSt :=
  if f.length ≠ 256 || leNat ((f.drop 8).take 8) ≠ (flitCrc f).toNat then { x with crce := satAdd x.crce 1 0xFFFF, nak := true }
  else
    let h := leNat (f.take 8)
    let x := linkCredit { x with last := now } h
    let pool := 2 * (h / 2 ^ 22 % 4) + h / 2 ^ 21 % 2
    if h / 2 ^ 8 % 128 = 0 then x
    else if h / 2 ^ 52 % 4096 = x.exp then
      { x with
        exp := (x.exp + 1) % 4096, ackd := x.exp, nak := false, rx := x.rx ++ [f], inF := x.inF + 1
        used := spSet 0 x.used pool (spGet 0 x.used pool + 1) }
    else { x with nak := true }

/-- The size of a receive pool (R418). -/
def poolSize (p : Nat) : Nat := if p < 4 then 64 else if p < 6 then 32 else 16

/-- The pool of a flit: its virtual channel and dateline class. -/
def poolOf (f : Flit) : Nat := 2 * f.vc + f.dl

/-- The link through port `p` of die `d` is a dateline (R423). -/
def dateline (s : State) (d p : Nat) : Bool :=
  let c := coordOf d (p / 2)
  if p % 2 = 0 then c + 1 == dimSize s (p / 2) else c == 0

/-- The dateline class of a flit that leaves by port `p` after it came over port `q` of the die before, `e` (R423). -/
def nextDl (s : State) (e q p : Nat) (dl : Nat) : Nat := if q / 2 ≠ p / 2 then 0 else if dl = 1 || dateline s e q then 1 else 0

/-- The message of a flit, while it is under way. -/
def msgNum (s : State) (n : Nat) : Option Msg := s.net.find? fun m => m.num == n

def modMsg (s : State) (n : Nat) (f : Msg → Msg) : State := { s with net := s.net.map fun m => if m.num = n then f m else m }

/-- Flits of messages that have ended on the way leave the queue (R420). -/
def purgeQ (s : State) (d p : Nat) : State :=
  let x := getPort (getDie s d) p
  let dead := x.outq.filter fun f => (msgNum s f.msg).isNone
  if dead = [] then s
  else
    let s := modPort s d p fun x => { x with
      outq := x.outq.filter fun f => (msgNum s f.msg).isSome
      lock := x.lock.filter fun l => (msgNum s l.2).isSome }
    dead.foldl (fun s f => freeSlot s d f.inp) s

/-- The units that a booking holds on port `p` of die `d`, outbound, in slot `t` (12 R275). -/
def ownUnits (s : State) (d p t own : Nat) : Nat :=
  let x := getDie s d
  let e := own / 2 ^ 20
  let h := own % 2 ^ 20
  if own = 0 then 0
  else if e = d then
    match liveIdx x h with
    | none => 0
    | some i =>
      let b := getBk x i
      if bkHeld b then ((b.uses.filter fun u => u.cls == 3 && !u.dirin && u.pinst == p && (!u.rmt || u.rdie == d) && u.slots.contains t).map Use.dem).sum else 0
  else
    match x.reeve.others.find? fun o => o.die == e && o.handle == h && o.comm with
    | none => 0
    | some o => ((o.marks.filter fun m => !m.ex && m.cal == 8 + 2 * p && m.slots.contains t).map RMk.units).sum

/-- The flits that a port has sent of a booking's traffic in slot `t`. -/
def ownSent (x : PortSt) (t own : Nat) : Nat := if x.bkSlot = t then spGet 0 x.bkSent own else 0

/-- The counts of slot `t` once a flit of a booking's traffic has left; `own` 0 is none. -/
def ownCount (x : PortSt) (t own : Nat) : List (Nat × Nat) :=
  let l := if x.bkSlot = t then x.bkSent else []
  if own = 0 then l else spSet 0 l own (spGet 0 l own + 1)

/-- A flit of booked traffic within its booking's units, 16 flits each, that no earlier message between its two dies precedes (R418, R422). -/
def bookedFlit (s : State) (d p : Nat) (x : PortSt) (l : List Flit) (f : Flit) : Bool :=
  let t := slotNow s d
  let src := fun (g : Flit) => (msgNum s g.msg).map Msg.src
  ownSent x t f.own < 16 * ownUnits s d p t f.own && (l.takeWhile fun g => g != f).all fun g => g.dst != f.dst || src g != src f

/-- The flit that a virtual channel of port `p` sends next: one of the message being sent; else the first of a message, a beacon before the
rest and booked traffic before unbooked (R417, R418, R426); where its pool has room (R418). -/
def vcFlit (s : State) (d p : Nat) (x : PortSt) (vc : Nat) : Option Flit :=
  let l := x.outq.filter fun f => f.vc == vc
  let beacon := fun (f : Flit) => (msgNum s f.msg).any fun m => m.kind == .beacon
  let f? := match spGet 0 x.lock vc with
    | 0 => match l.find? fun f => beacon f && f.idx == 0 with
      | some f => some f
      | none =>
        match l.find? fun (f : Flit) => f.idx == 0 && bookedFlit s d p x l f with
        | some f => some f
        | none => l.find? fun f => f.idx == 0
    | n => l.find? fun f => f.msg == n
  f?.bind fun f => if (spGet 0 x.sent (poolOf f) + 4096 - spGet 0 x.retd (poolOf f)) % 4096 < poolSize (poolOf f) then some f else none

/-- The flit that a port sends next: control first, then response, request, debug; debug at least once in 32 flits (R418); none where the
replay buffer is full (R419). -/
def nextFlit (s : State) (d p : Nat) (x : PortSt) : Option Flit :=
  if x.rbuf.length ≥ 512 then none
  else (if x.dbg ≥ 31 then [3, 2, 1, 0] else [2, 1, 0, 3]).findSome? (vcFlit s d p x)

/-- A header has left: the pool of the next one, and NAK is told. -/
def stepRvc (x : PortSt) : PortSt := { x with rvc := (x.rvc + 1) % 8, nak := false }

/-- A port sends: a flit again (R419), or the next that waits, or an idle one.  A beacon carries the time at which it leaves (R426). -/
def transmit (s : State) (d p : Nat) : State × Option Flit × List Byte :=
  let s := purgeQ s d p
  let x := getPort (getDie s d) p
  match x.resend with
  | (n, f) :: t =>
    (modPort s d p fun x => stepRvc { x with resend := t, rply := satAdd x.rply 1 0xFFFF, outF := x.outF + 1 }, some f, flitBytes x n (some f))
  | [] =>
    match nextFlit s d p x with
    | none => (modPort s d p stepRvc, none, flitBytes x x.seq none)
    | some f =>
      let s := modMsg s f.msg fun m => if m.kind = .beacon then { m with opnd := w64 (ftimeNow s d) } else m
      let g := { f with body := if f.body = [] then ((msgNum s f.msg).map fun m => flitPayload m f.idx).getD [] else f.body }
      let s := modPort s d p fun x => stepRvc { x with
        outq := x.outq.erase f, lock := spSet 0 x.lock f.vc (if f.nfl = 0 then 0 else f.msg), sent := spSet 0 x.sent (poolOf f) ((spGet 0 x.sent (poolOf f) + 1) % 4096)
        bkSlot := slotNow s d, bkSent := ownCount x (slotNow s d) f.own
        seq := (x.seq + 1) % 4096, rbuf := x.rbuf ++ [(x.seq, { g with inp := none })], outF := x.outF + 1, dbg := if f.vc = 3 then 0 else x.dbg + 1 }
      let s := if f.inp.isNone then modDie s d fun z => countDie z none 0x0A 1 else s
      (freeSlot s d f.inp, some g, flitBytes x x.seq (some g))

/-- A flit that port `p` of die `d` has accepted goes on: to the ingress of its die, or to the output of its next link (R422, R424). -/
def forward (s : State) (d p : Nat) (f : Flit) : State :=
  let s := modPort s d p fun x => { x with rx := x.rx.dropLast }
  let slot := some (p, poolOf f)
  match (if (msgNum s f.msg).isNone then [] else route s d f.dst) with
  | [] => freeSlot (modMsg s f.msg fun m => if m.got = f.idx then { m with got := m.got + 1 } else m) d slot
  | (_, q) :: _ =>
    let dl := nextDl s (neighbour s d p) (farPort p) q f.dl
    modPort s d q fun x => { x with outq := x.outq ++ [{ f with dl := dl, inp := slot }] }

/-- FLIT_RECEIVE (R418, R419): the far side of port `ev.n` of die `ev.w.die` sends a flit.  With `ev.b` it arrives as it was sent; else the bytes
`ev.bytes` arrive in its place. -/
def execFlitReceive (s : State) : Host.Outcome State Fault Refusal :=
  let d := s.ev.w.die
  let p := s.ev.n
  if !(dieOk s d && cabled s d p && linkUp s d p) then .next s
  else
    let (s1, f?, bs) := transmit s (neighbour s d p) (farPort p)
    let x := getPort (getDie s1 d) p
    let t := modPort s1 d p fun x => flitArrive x (if s.ev.b then bs else s.ev.bytes) (getDie s d).time.osc
    match f? with
    | some f => .next (if s.ev.b && (getPort (getDie t d) p).exp ≠ x.exp then forward t d p f else t)
    | none => .next t

/-! ### Training (17 R420, R421) -/

/-- Change both ends of a link. -/
def modLink (s : State) (d p : Nat) (f : PortSt → PortSt) : State := modPort (modPort s d p f) (neighbour s d p) (farPort p) f

/-- LINK_RETRAIN (R420): the link of port `ev.n` of die `ev.w.die` retrains, having sent one flit 8 times or heard nothing for 2 µs. -/
def execLinkRetrain (s : State) : Host.Outcome State Fault Refusal :=
  let d := s.ev.w.die
  let x := getPort (getDie s d) s.ev.n
  if dieOk s d && cabled s d s.ev.n && linkUp s d s.ev.n && (x.tries ≥ 8 || (getDie s d).time.osc - x.last ≥ 2000) then
    .next (modLink s d s.ev.n fun x => { x with state := 1 })
  else .next s

/-- A port whose link has trained: sequence numbers restart, what the far side has not accepted of its replay buffer is sent again, and slots
returned follow from those in use there. -/
def trainedPort (x far : PortSt) (now : Nat) : PortSt :=
  let rbuf := (afterAck x.rbuf far.ackd).zipIdx.map fun (e, k) => (k, e.2)
  { x with
    state := 2, failRow := 0, tries := 0, seq := rbuf.length, exp := 0, ackd := 4095, nak := false, rbuf := rbuf, resend := rbuf
    rtrn := if x.trained then satAdd x.rtrn 1 0xFF else x.rtrn
    retd := spOfFn 0 8 fun p => (spGet 0 x.sent p + 4096 - (poolSize p - (poolSize p - spGet 0 far.used p))) % 4096
    last := now, trained := true }

/-- TRAINING_COMPLETE (R420): the link of port `ev.n` of die `ev.w.die` has trained, or with `ev.b` has failed to; at the third failure in a
row it is down, a machine check of kind 6 on both dies. -/
def execTrainingComplete (s : State) : Host.Outcome State Fault Refusal :=
  let d := s.ev.w.die
  let p := s.ev.n
  let e := neighbour s d p
  let x := getPort (getDie s d) p
  let y := getPort (getDie s e) (farPort p)
  if !(dieOk s d && cabled s d p) || x.state ≠ 1 || y.state ≠ 1 then .next s
  else if !s.ev.b then
    .next (modPort (modPort s d p fun _ => trainedPort x y (getDie s d).time.osc) e (farPort p)
      fun _ => trainedPort y x (getDie s e).time.osc)
  else
    let s := modLink s d p fun x => { x with failRow := x.failRow + 1, rfail := satAdd x.rfail 1 0xFF, state := if x.failRow ≥ 2 then 0 else 1 }
    if x.failRow < 2 then .next s
    else .next (machineCheck (machineCheck s ⟨d, 0, 0⟩ 6 4 false 0 p) ⟨e, 0, 0⟩ 6 4 false 0 (farPort p))

/-- MOOT_LINK_RETRAIN (R420): the Moot retrains the link of port `ev.n` of die `ev.w.die`, which is down. -/
def execMootLinkRetrain (s : State) : Host.Outcome State Fault Refusal :=
  let d := s.ev.w.die
  if dieOk s d && cabled s d s.ev.n && linkDown s d s.ev.n then .next (modLink s d s.ev.n fun x => { x with state := 1, failRow := 0 })
  else .next s

/-- `lkst` of a port (R421). -/
def lkstWord (s : State) (d p : Nat) : Word :=
  let x := getPort (getDie s d) p
  let st := if cabled s d p then x.state else 3
  w64 (x.crce % 2 ^ 16 * 2 ^ 48 + x.rply % 2 ^ 16 * 2 ^ 32 + x.rtrn % 2 ^ 8 * 2 ^ 24 + x.rfail % 2 ^ 8 * 2 ^ 16 + st % 4 * 4 +
    (if onPackage d p then 0 else 2))

/-- LINK_STATUS_READ (R421): the Moot reads `lkst` of port `ev.n` of die `ev.w.die`, and the counts clear. -/
def execLinkStatusRead (s : State) : Host.Outcome State Fault Refusal :=
  let d := s.ev.w.die
  if dieOk s d && s.ev.n < 6 then
    .next { modPort s d s.ev.n (fun x => { x with crce := 0, rply := 0, rtrn := 0, rfail := 0 }) with out := wordBytes8 (lkstWord s d s.ev.n) }
  else .next s

/-! ### Beacons (17 R426 to R428) -/

/-- The time root, once there is one. -/
def timeRoot (s : State) : Option Nat := (s.dies.find? fun x => x.2.time.root).map Prod.fst

/-- The port through which a die's beacons come. -/
def parentPort (s : State) (d : Nat) : Option Nat :=
  match (getDie s d).time.parent with
  | some p => some p
  | none => (timeRoot s).bind fun r => ((route s r d).getLast?).map fun l => farPort l.2

/-- Beacon number `q` goes to each neighbour that has this die as its parent, with this die's fabric time. -/
def sendBeacons (s : State) (d q : Nat) : State :=
  (List.range 6).foldl (fun s p =>
    let e := neighbour s d p
    if cabled s d p && e != d && parentPort s e == some (farPort p) then
      send s { kind := .beacon, src := d, dst := e, tag := q, agent := farPort p, opnd := w64 (ftimeNow s d) }
    else s) s

def modTime (s : State) (d : Nat) (f : TimeSt → TimeSt) : State := modDie s d fun x => { x with time := f x.time }

/-- BEACON_SEND (R426): the root, die `ev.w.die`, sends its next beacon, 8 µs after the last. -/
def execBeaconSend (s : State) : Host.Outcome State Fault Refusal :=
  let d := s.ev.w.die
  let t := (getDie s d).time
  if dieOk s d && t.root && t.set && (t.bcnSeq = 0 || t.bcnT + 8000 ≤ t.ftime) then
    .next (sendBeacons (modTime s d fun t => { t with bcnSeq := (t.bcnSeq + 1) % 2 ^ 32, bcnT := t.ftime }) d ((t.bcnSeq + 1) % 2 ^ 32))
  else .next s

/-- A die enters the out-of-step condition: one machine check of kind 10 (R428). -/
def outOfStep (s : State) (d : Nat) : State :=
  let s := if (getDie s d).time.oos then s else machineCheck s ⟨d, 0, 0⟩ 10 4 false 0 0
  modTime s d fun t => { t with oos := true, okT := 0 }

/-- A die hears that it is `b` ns since the epoch (R427, R428). -/
def applyBeacon (s : State) (d b q : Nat) : State :=
  let t := (getDie s d).time
  if !t.set then modTime s d fun t => { t with ftime := b, set := true, corr := 0, cacc := 0, bcnT := t.osc, bcnSeq := q }
  else
    let off : Int := (b : Int) - (t.ftime : Int)
    let s := modTime s d fun t => { t with corr := off, cacc := 0, bcnT := t.osc, bcnSeq := q, off160 := decide (160 < off.natAbs) }
    if 10 < off.natAbs then outOfStep s d
    else
      modTime s d fun t =>
        if !t.oos then t
        else if t.okT = 0 then { t with okT := t.osc + 1 }
        else if t.osc + 1 - t.okT ≥ 8000 then { t with oos := false, okT := 0 } else t

/-- BEACON (R426): message `ev.k` arrives; one from the parent port is taken and sent on. -/
def execBeacon (s : State) : Host.Outcome State Fault Refusal :=
  match msgOf s s.ev.k .beacon with
  | none =>
    match msgCut s s.ev.k .beacon with
    | some _ => .next (dropMsg s s.ev.k)
    | none => .next s
  | some m =>
    let s := dropMsg s s.ev.k
    if parentPort s m.dst ≠ some m.agent then .next s
    else .next (sendBeacons (applyBeacon s m.dst (m.opnd.toNat + (getPort (getDie s m.dst) m.agent).delay) m.tag) m.dst m.tag)

/-- BEACON_TIMEOUT (R428): no beacon has reached die `ev.w.die` for 1 ms. -/
def execBeaconTimeout (s : State) : Host.Outcome State Fault Refusal :=
  let d := s.ev.w.die
  let t := (getDie s d).time
  if dieOk s d && t.set && !t.root && t.osc - t.bcnT ≥ 1000000 then .next (modTime (outOfStep s d) d fun t => { t with off160 := true })
  else .next s

/-- LINK_DELAY_MEASURE (R426): port `ev.n` of die `ev.w.die` has exchanged timing flits, `ev.k` ns from the first's leaving to the answer's coming,
of which the far side held it `ev.v` ns. -/
def execLinkDelayMeasure (s : State) : Host.Outcome State Fault Refusal :=
  let d := s.ev.w.die
  if dieOk s d && cabled s d s.ev.n && linkUp s d s.ev.n then .next (modPort s d s.ev.n fun x => { x with delay := (s.ev.k - s.ev.v.toNat) / 2 }) else .next s

/-- PARENT_PORT_ASSIGN (R428): the Moot assigns die `ev.w.die` the parent port `ev.n`: up, to a neighbour that is set and in step. -/
def execParentPortAssign (s : State) : Host.Outcome State Fault Refusal :=
  let d := s.ev.w.die
  let t := (getDie s (neighbour s d s.ev.n)).time
  if dieOk s d && cabled s d s.ev.n && linkUp s d s.ev.n && t.set && !t.oos then .next (modTime s d fun t => { t with parent := some s.ev.n })
  else .next s

/-! ### Broadcasts (17 R451, R453) -/

/-- A broadcast's key: its sequence number and its kind. -/
def castKey (k : MKind) (q : Nat) : Nat := 4 * q + if k = .stop then 0 else if k = .snap then 1 else 2

/-- What a broadcast does at a die: a stop at T (13 R339), a latch at T (14 R367), or the end of a replay. -/
def castEffect (s : State) (d : Nat) (k : MKind) (t : Word) : State :=
  match k with
  | .stop => modDie s d fun x => { x with stopAt := some t.toNat }
  | .snap => modDie s d fun x => snapSet x t
  | _ => stopDie (modDie s d fun x => { x with alm := { x.alm with rply := false, go := [] } }) d

/-- A broadcast at a die that has not seen it: its effect there, and on over every link that is up. -/
def castAt (s : State) (d : Nat) (k : MKind) (q : Nat) (t : Word) : State :=
  if (getDie s d).fab.seen.contains (castKey k q) then s
  else
    let s := castEffect (modDie s d fun x => { x with fab := { x.fab with seen := castKey k q :: x.fab.seen } }) d k t
    (List.range 6).foldl (fun s p =>
      if cabled s d p && linkUp s d p then send s { kind := k, src := d, dst := neighbour s d p, tag := q, opnd := t } else s) s

/-- The dies that paths of up links lead to, in `n` rounds from those given. -/
def reachedBy (s : State) : Nat → List Nat → List Nat
  | 0, l => l
  | n + 1, l =>
    let new := (l.flatMap fun d => ((List.range 6).filter fun p => cabled s d p && linkUp s d p).map (neighbour s d)).eraseDups.filter fun d => !(l.contains d)
    if new = [] then l else reachedBy s n (l ++ new)

/-- The Moot of die `d` reports the dies that no path reaches as missing (R451). -/
def tellMissing (s : State) (d : Nat) : State :=
  let l := reachedBy s (allDies s).length [d]
  ((allDies s).filter fun e => !(l.contains e)).foldl (fun s e => tellMoot s { kind := 6, w := ⟨d, 0, 0⟩, val := w64 e }) s

/-- A broadcast: begun by the Moot of die `ev.w.die` with number `ev.n` and time `ev.v`, or, with `ev.b`, message `ev.k` arriving. -/
def castEvent (s : State) (k : MKind) (may : Bool) : Host.Outcome State Fault Refusal :=
  if s.ev.b then
    match msgOf s s.ev.k k, msgCut s s.ev.k k with
    | some m, _ => .next (castAt (dropMsg s s.ev.k) m.dst k m.tag m.opnd)
    | none, some _ => .next (dropMsg s s.ev.k)
    | none, none => .next s
  else
    let d := s.ev.w.die
    if !(dieOk s d && may) || (getDie s d).fab.seen.contains (castKey k s.ev.n) then .next s
    else
      let t := castAt s d k s.ev.n s.ev.v
      .next (if k = .replayHalt then t else tellMissing t d)

/-- SYSTEM_STOP_BROADCAST. -/
def execSystemStopBroadcast (s : State) : Host.Outcome State Fault Refusal := castEvent s .stop true

/-- SNAPSHOT_BROADCAST. -/
def execSnapshotBroadcast (s : State) : Host.Outcome State Fault Refusal := castEvent s .snap true

/-- REPLAY_HALT_BROADCAST (R453): a die whose replay has diverged halts the whole domain. -/
def execReplayHaltBroadcast (s : State) : Host.Outcome State Fault Refusal := castEvent s .replayHalt (getDie s s.ev.w.die).alm.div

/-- Records of 32 bytes. -/
def recordsOf : Nat → List Byte → List (BitVec 256)
  | 0, _ => []
  | n + 1, bs => BitVec.ofNat 256 (leNat (bs.take 32)) :: recordsOf n (bs.drop 32)

/-- REPLAY_START (13 R346; 17 R453): die `ev.w.die` replays the log `ev.bytes` from slot `ev.n`, which the Moots have agreed. -/
def execReplayStart (s : State) : Host.Outcome State Fault Refusal :=
  let d := s.ev.w.die
  if dieOk s d && !(getDie s d).alm.rply && s.ev.bytes.length % 32 = 0 then
    .next (modDie s d fun x => { x with
      alm := { x.alm with rply := true, logging := false, div := false, cnt := [], go := [], log := recordsOf (s.ev.bytes.length / 32) s.ev.bytes, start := s.ev.n } })
  else .next s

end Sys2Proof.Machine
end

