-- ==== Sys2Proof/Machine/Front.lean ====
section
/-!
DEFINITION. The front end: BAR registers, queues and doorbells, references, packets from their start to their completion (16 R380 to R395,
R400).
-/
namespace Sys2Proof.Machine
open Sys2Proof

/-! ### The package's time and queues -/

/-- A package of the system. -/
def pkgOk (s : State) (p : Nat) : Bool := p < 4096 && dieOk s (pkgDie p 0)

/-- Nanoseconds by the oscillator of the package. -/
def pkgNow (s : State) (p : Nat) : Nat := (getDie s (pkgDie p 0)).time.osc

/-- The front end reads queues: firmware runs and EN is 1 (R380). -/
def feRuns (x : Pkg) : Bool := x.ready && !x.err && bit x.fectl 0

def getQueue (x : Pkg) (q : Nat) : Queue := spGet {} x.queues q

def setQueue (x : Pkg) (q : Nat) (v : Queue) : Pkg := { x with queues := spSet {} x.queues q v }

def modQueue (s : State) (p q : Nat) (f : Queue → Queue) : State := modPkg s p fun x => setQueue x q (f (getQueue x q))

def modPkt (s : State) (p id : Nat) (f : Pkt → Pkt) : State :=
  modPkg s p fun x => { x with pkts := x.pkts.map fun k => if k.id = id then f k else k }

/-- A queue record exists (R382). -/
def queueIs (x : Pkg) (q : Nat) : Bool := q < 4096 && (getQueue x q).log2 != 0

/-- A queue is active (R384). -/
def queueActive (v : Queue) : Bool := v.en && !v.err && v.wridx != v.rdidx

/-- A packet of the queue has started and not completed. -/
def queueBusy (x : Pkg) (q : Nat) : Bool := x.pkts.any fun k => k.q == q

/-- A queue's error (R394): ERR and ERRI, its vector, unmapped.  `off` is the byte offset of the field at fault, `ext` the Reeve's code
(R400), `idx` the packet's ring offset. -/
def queueError (s : State) (p q st off ext : Nat) (idx : Word) : State :=
  let v := getQueue (getPkg s p) q
  let s := modQueue s p q fun v => { v with
    err := true, mapped := false, bell := 0, erri := w64 (st + off % 2 ^ 16 * 2 ^ 8 + ext % 2 ^ 8 * 2 ^ 24 + bits idx 0 32 * 2 ^ 32) }
  raiseVec s p (if bit v.irq 7 then bits v.irq 0 7 else 1)

/-! ### The host's registers (R380, R381, R383) -/

/-- The admin queue (R381): its window covers the host physical space with LD and ST; its partition is the whole system. -/
def adminQueue (s : State) (x : Pkg) : Queue :=
  let e := fun n : Nat => n - 1
  { ring := x.admbase, log2 := bits x.admlog2 0 6, prio := 7, level := 7, sys := true, en := true, host := true
    part := w64 (e (dims s).1 * 2 ^ 15 + e (dims s).2.1 * 2 ^ 20 + e (dims s).2.2 * 2 ^ 25)
    dwin := [(0, mkCap 36 0 65535 0 3 0 0 true)] }

/-- Every link of a die that is cabled is up. -/
def linksTrained (s : State) (d : Nat) : Bool := (List.range 6).all fun p => !(cabled s d p) || linkUp s d p

/-- Fabric time starts at its root when the root's package is enabled first (17 R425). -/
def startRoot (s : State) (p : Nat) : State :=
  let ds := allDies s
  if ds.any fun d => (getDie s d).time.root then s
  else
    match ds.foldl (fun (m : Option Nat) d => if linksTrained s d then some (m.elim d (min d)) else m) none with
    | none => s
    | some d => if pkgOf d = p then modDie s d fun x => { x with time := { x.time with root := true, set := true, ftime := 0 } } else s

/-- FECTL_WRITE: the host writes `ev.v` at offset `ev.k` of BAR0 of package `ev.n` (R380, R381): `fectl`, `admbase` or `admlog2`; the
other registers there ignore the write, or have events of their own. -/
def execFectlWrite (s : State) : Host.Outcome State Fault Refusal :=
  let p := s.ev.n
  let x := getPkg s p
  let v := s.ev.v
  let on := bit x.fectl 0
  if !(pkgOk s p) then .next s
  else if s.ev.k = 0x08 then
    let s := setPkg s p { x with fectl := w64 (bits v 0 1) }
    if bit v 0 && !on then .next (startRoot (setPkg s p (setQueue (getPkg s p) 0 (adminQueue s x))) p) else .next s
  else if s.ev.k = 0x18 && !on then .next (setPkg s p { x with admbase := w64 (bits v 12 52 * 2 ^ 12) })
  else if s.ev.k = 0x20 && !on && 12 ≤ bits v 0 6 && bits v 0 6 ≤ 20 then .next (setPkg s p { x with admlog2 := w64 (bits v 0 6) })
  else .next s

/-- The word that the host reads at offset `o` of BAR0 of package `p` (R380); a reserved offset reads zero. -/
def bar0Word (x : Pkg) (p o : Nat) : Word :=
  match o with
  | 0x00 => w64 (0x03 + 2 ^ 8 * (Config.stepping p % 2 ^ 8))
  | 0x08 => x.fectl
  | 0x10 => w64 (x.ready.toNat + 2 * x.err.toNat + 2 ^ 8 * x.boot.toNat)
  | 0x18 => x.admbase
  | 0x20 => x.admlog2
  | 0x28 => x.emerg
  | _ => 0

/-- EMERG_CLEAR (R380): the host writes `ev.v` to `emerg` of package `ev.n`; a 1 clears. -/
def execEmergClear (s : State) : Host.Outcome State Fault Refusal :=
  if pkgOk s s.ev.n then .next (modPkg s s.ev.n fun x => { x with emerg := x.emerg &&& ~~~ s.ev.v }) else .next s

/-- DOORBELL (R383): the host writes `ev.v` to the doorbell of queue `ev.k` of package `ev.n`. -/
def execDoorbell (s : State) : Host.Outcome State Fault Refusal :=
  let p := s.ev.n
  let x := getPkg s p
  let v := getQueue x s.ev.k
  if !(pkgOk s p && queueIs x s.ev.k) then .next s
  else if s.ev.v.toNat < v.rdidx.toNat || s.ev.v.toNat - v.rdidx.toNat > 2 ^ v.log2 then .next (queueError s p s.ev.k 2 0 0 v.rdidx)
  else
    let n := x.bells + 1
    .next (setPkg s p { setQueue x s.ev.k { v with
      wridx := s.ev.v, bell := if v.bell = 0 then n else v.bell
      since := if v.wridx = v.rdidx then pkgNow s p else v.since } with bells := n })

/-! ### Hardware slots (R384, R385) -/

/-- QUEUE_MAP (R384): the active queue of package `ev.n` whose doorbell came first takes a free slot; it is queue `ev.k`. -/
def execQueueMap (s : State) : Host.Outcome State Fault Refusal :=
  let x := getPkg s s.ev.n
  let v := getQueue x s.ev.k
  let waits := fun (u : Queue) => queueActive u && !u.mapped
  if pkgOk s s.ev.n && feRuns x && waits v && (x.queues.filter fun u => u.2.mapped).length < 64 &&
      x.queues.all (fun u => !(waits u.2) || v.bell ≤ u.2.bell) then
    .next (modQueue s s.ev.n s.ev.k fun v => { v with mapped := true, bell := 0, emptyAt := pkgNow s s.ev.n })
  else .next s

/-- QUEUE_UNMAP (R384): queue `ev.k` of package `ev.n` has been empty, with no started packet incomplete, for 100 µs. -/
def execQueueUnmap (s : State) : Host.Outcome State Fault Refusal :=
  let x := getPkg s s.ev.n
  let v := getQueue x s.ev.k
  if pkgOk s s.ev.n && v.mapped && v.wridx = v.rdidx && !(queueBusy x s.ev.k) && v.emptyAt + 100000 ≤ pkgNow s s.ev.n then
    .next (modQueue s s.ev.n s.ev.k fun v => { v with mapped := false, bell := 0 })
  else .next s

/-- QUEUE_AGEING (R385): queue `ev.k` of package `ev.n` has waited longer than its AGE and rises one level, up to level 6. -/
def execQueueAgeing (s : State) : Host.Outcome State Fault Refusal :=
  let x := getPkg s s.ev.n
  let v := getQueue x s.ev.k
  if pkgOk s s.ev.n && v.mapped && queueActive v && v.age ≠ 0 && v.level < 6 && v.since + v.age * 1000 < pkgNow s s.ev.n then
    .next (modQueue s s.ev.n s.ev.k fun v => { v with level := v.level + 1, since := v.since + v.age * 1000 })
  else .next s

/-! ### Memory as the Moot reaches it (R377, R382, R388) -/

/-- A run of physical bytes: the die whose memory, or whose package's Granary, it lies in. -/
structure Spot where
  die : Nat
  sp : Space
  pa : Nat
  len : Nat
deriving DecidableEq, Repr

/-- The bytes at an address: host physical, or under a translation context of a die. -/
def addrSpots (s : State) (host : Bool) (d : Nat) (x : Word) (need : Word → Bool) (a n : Nat) : Option (List Spot) :=
  if host then (if a + n ≤ 2 ^ 52 then some [⟨d, .host, a, n⟩] else none)
  else
    (pieces a n (granules a n)).mapM fun (v, m) =>
      match walkVa s d x (w64 v) with
      | some l => if need l.pte then some ⟨d, pteSpace l.pte, ptePA l.pte + v % 2 ^ l.log, m⟩ else none
      | none => none

/-- The front end finds an error of mark `m` in a sector it reads (13 R326, R332). -/
def mootDetect (s : State) (d : Nat) (sp : Space) (k m : Nat) : State :=
  let s := physPoison s d sp k
  if m = 2 then machineCheck (modDie s d fun x => countDie x none 0x0D 1) ⟨d, 0, 0⟩ 2 5 false (32 * k) 0 else s

def spotDetect (s : State) (t : Spot) : State :=
  (physSectors t.pa t.len).foldl (fun s k =>
    let m := physMark s t.die t.sp k
    if m = 0 then s else mootDetect s t.die t.sp k m) s

/-- The bytes of a run, each with whether its sector is poisoned. -/
def spotRead (s : State) (t : Spot) : List MByte :=
  let bs := match t.sp with
    | .hbm => memRead (getDie s t.die).mem.hbm t.pa t.len
    | .gran => memRead (getPkg s (pkgOf t.die)).gran t.pa t.len
    | .host => memRead s.host t.pa t.len
  bs.zipIdx.map fun (b, k) => (b, physMark s t.die t.sp ((t.pa + k) / 32) != 0)

def spotsRead (s : State) (ts : List Spot) : List MByte := ts.flatMap (spotRead s)

/-- Write bytes at a run; a sector given a poisoned byte is poisoned. -/
def spotWrite (s : State) (t : Spot) (bs : List MByte) : State :=
  let s := physWrite s t.die noCluster t.sp t.pa (bs.map Prod.fst) .nt
  (physSectors t.pa t.len).foldl (fun s k =>
    if bs.zipIdx.any fun (b, j) => b.2 && (t.pa + j) / 32 == k then physPoison s t.die t.sp k else s) s

def spotsWrite (s : State) : List Spot → List MByte → State
  | [], _ => s
  | t :: ts, bs => spotsWrite (spotWrite s t (bs.take t.len)) ts (bs.drop t.len)

def spotsWord (s : State) (ts : List Spot) : Word := w64 (leNat ((spotsRead s ts).map Prod.fst))

/-- The window a reference names. -/
def refCap (v : Queue) (r : Word) : Cap := spGet {} v.dwin (bits r 62 2)

/-- The address a reference names. -/
def refAddr (v : Queue) (r : Word) : Nat := capBot (refCap v r) * 2 ^ capExp (refCap v r) + bits r 0 62

/-- Follow a reference to `n` bytes (R388); `perm`: 1 LD, 2 ST. -/
def refSpots (s : State) (v : Queue) (r : Word) (n perm : Nat) : Option (List Spot) :=
  let c := refCap v r
  let need := fun e => (!(perm.testBit 0) || pteRD e) && (!(perm.testBit 1) || needStore e)
  if c.tag && perm &&& capPerm c = perm && bits r 0 62 + n ≤ (capTop c + 1 - capBot c) * 2 ^ capExp c then
    addrSpots s v.host (capPeer c) v.xctx need (refAddr v r) n
  else none

/-- Follow a reference to a signal (R392): a status where it fails. -/
def sigSpots (s : State) (v : Queue) (r : Word) (perm : Nat) : Except Nat (List Spot) :=
  if refAddr v r % 8 ≠ 0 then .error 2
  else
    match refSpots s v r 8 perm with
    | some t => .ok t
    | none => .error 3

/-! ### Fields (R386, R387, R389) -/

/-- A field: its type, the byte offset of its header, its value words. -/
structure Fld where
  typ : Nat
  off : Nat
  v : List Word
deriving DecidableEq, Repr

def Fld.word (f : Fld) (k : Nat) : Word := f.v.getD k 0

def fldKnown (t : Nat) : Bool := [1, 2, 3, 0x10, 0x11, 0x12, 0x13, 0x20, 0x30, 0x40, 0x50, 0x60].contains t

/-- Required fields of a packet type; those it also accepts. -/
def fldNeeds (pt : Nat) : List Nat :=
  match pt with
  | 1 => [0x10, 0x11]
  | 2 => [0x20]
  | 3 => [0x30]
  | 4 => [0x40]
  | 5 => [0x50]
  | _ => [0x60]

def fldTakes (pt t : Nat) : Bool := (fldNeeds pt).contains t || t ≤ 3 || (pt == 1 && (t == 0x12 || t == 0x13))

/-- Operand words of a CONFIG operation. -/
def cfgWords (op : Nat) : Option Nat :=
  match op with
  | 0x01 => some 1
  | 0x02 => some 1
  | 0x03 => some 1
  | 0x10 => some 3
  | 0x11 => some 1
  | 0x20 => some 1
  | 0x30 => some 2
  | 0x40 => some 2
  | _ => none

/-- The field's length in 8-byte units agrees with its layout. -/
def fldLenOk (t : Nat) (v : List Word) : Bool :=
  let n := v.length + 1
  match t with
  | 0x11 => n == 2 + bits (v.getD 0 0) 0 4
  | 0x12 => n == 3
  | 0x13 => n % 3 == 1 && 4 ≤ n && n ≤ 25
  | 0x20 => n == 3
  | 0x30 => n == 4
  | 0x40 => 2 ≤ n && n ≤ 9
  | 0x50 => n == 4
  | 0x60 => 2 ≤ n
  | _ => n == 2

/-- A launch level's word (R396). -/
def levelOf (v : Word) : Level := { cnt := bits v 0 32, dom := bits v 32 3, scope := bits v 35 3 }

/-- The narrowest scope that a domain takes (R397). -/
def domScope (dom : Nat) : Nat := min dom 5

/-- Each level's domain is narrower than the one outside it. -/
def levelsNest : List Level → Bool
  | a :: b :: t => decide (b.dom < a.dom) && levelsNest (b :: t)
  | _ => true

/-- What R396 and R397 ask of a launch record by itself. -/
def lrecOk (v : List Word) : Bool :=
  let h := v.getD 0 0
  let ls := v.drop 1
  let lv := ls.map levelOf
  bits h 32 32 == 0 && bits h 16 8 == 0 && bits h 11 5 == 0 && !(bit h 7) && !(bit h 4) && 1 ≤ bits h 0 4 && bits h 0 4 ≤ 8 &&
    (bit h 5 || bits h 24 8 == 0) && (!(bit h 6) || bit h 5) && ls.all (fun w => bits w 38 26 == 0) &&
    lv.all (fun l => l.scope ≤ 5 && 1 ≤ l.dom && l.dom ≤ 6 && 1 ≤ l.cnt && domScope l.dom ≤ l.scope) && levelsNest lv &&
    (lv.map Level.cnt).foldl (· * ·) 1 ≤ 1048576

/-- The values of a field lie in the ranges given for them and name what exists (R389). -/
def fldValueOk (s : State) (p t : Nat) (v : List Word) : Bool :=
  let g := fun k => v.getD k 0
  let x := getPkg s p
  match t with
  | 3 => 2 ≤ (g 0).toNat && (g 0).toNat ≤ 65
  | 0x10 => bits (g 0) 48 16 == 0
  | 0x11 => lrecOk v
  | 0x12 => bits (g 1) 16 48 == 0
  | 0x20 => dieOk s (g 1).toNat
  | 0x30 => (g 2).toNat ≤ 2 ^ 28 && (g 2).toNat % 32 == 0
  | 0x50 => (g 1).toNat ≤ 1
  | 0x60 =>
    let op := (g 0).toNat
    cfgWords op == some (v.length - 1) &&
      match op with
      | 0x02 => (g 1).toNat < 4096 && queueIs x (g 1).toNat
      | 0x03 => (g 1).toNat < 4096 && queueIs x (g 1).toNat
      | 0x11 => x.images.any fun i => i.hdl == (g 1).toNat
      | 0x20 => (g 1).toNat < 2 ^ 13 && bits (g 1) 0 8 != 0 && bits (g 1) 8 4 ≤ 3
      | 0x40 => (g 1).toNat < 4
      | _ => true
  | _ => true

/-- The fields of a packet after PKT, or the status and the offset of the field at fault.  `off` is the next header's. -/
def readFields (s : State) (p pt : Nat) : Nat → Nat → List Word → List Fld → Except (Nat × Nat) (List Fld)
  | 0, _, _, acc => .ok acc
  | _ + 1, _, [], acc => .ok acc
  | n + 1, off, h :: t, acc =>
    let ty := bits h 0 16
    let m := bit h 16
    let len := bits h 17 15
    let v := t.take (len - 1)
    let rest := t.drop (len - 1)
    let skip := fun (code : Nat) => if m then .error (code, off) else readFields s p pt n (off + 8 * len) rest acc
    if bits h 32 32 ≠ 0 ∨ len = 0 then .error (2, off)
    else if len > t.length + 1 then .error (2, 0)
    else if !(fldKnown ty) then skip 1
    else if !(fldTakes pt ty) then skip 2
    else if ty = 1 || acc.any (fun f => f.typ == ty) || !(fldLenOk ty v) || (ty == 0x13 && !m) || !(fldValueOk s p ty v) then .error (2, off)
    else readFields s p pt n (off + 8 * len) rest (acc ++ [⟨ty, off, v⟩])

def fldOf (fs : List Fld) (t : Nat) : Option Fld := fs.find? fun f => f.typ == t

def fldOff (fs : List Fld) (t : Nat) : Nat := ((fldOf fs t).map Fld.off).getD 0

def fldWord (fs : List Fld) (t k : Nat) : Word := ((fldOf fs t).map fun f => f.word k).getD 0

/-- The value of the first field of a type, wherever the rest of the packet goes wrong. -/
def scanField (ty : Nat) : Nat → List Word → Option (List Word)
  | 0, _ => none
  | _ + 1, [] => none
  | n + 1, h :: t =>
    let len := bits h 17 15
    if len = 0 || bits h 32 32 ≠ 0 then none
    else if bits h 0 16 = ty then some (t.take (len - 1))
    else scanField ty n (t.drop (len - 1))

/-- Words of a byte list. -/
def wordsIn : Nat → List Byte → List Word
  | 0, _ => []
  | n + 1, bs => w64 (leNat (bs.take 8)) :: wordsIn n (bs.drop 8)

def pktWords (k : Pkt) : List Word := wordsIn (k.bytes.length / 8) k.bytes

/-! ### A packet starts (R383, R385, R391) -/

/-- The word at byte `i` of a queue's stream (R383). -/
def ringWord (s : State) (v : Queue) (i : Nat) : Option (List MByte) :=
  (addrSpots s v.host (bits v.part 0 15) v.xctx pteRD (v.ring.toNat + i % 2 ^ v.log2) 8).map (spotsRead s)

/-- `n` words of the stream from byte `i` on. -/
def ringWords (s : State) (v : Queue) (i n : Nat) : Option (List MByte) :=
  ((List.range n).mapM fun k => ringWord s v (i + 8 * k)).map List.flatten

/-- A packet at the head of its queue: its bytes, or the status it fails with before its fields are read. -/
structure HeadPkt where
  len : Nat
  bytes : List Byte
  fail : Option Nat
deriving DecidableEq, Repr

/-- The head of queue `q`: none while a whole packet does not lie below WRIDX, or BAR holds it back (R383, R387, R391). -/
def headPkt (s : State) (p q : Nat) : Option HeadPkt :=
  let x := getPkg s p
  let v := getQueue x q
  let i := v.rdidx.toNat
  let n := v.wridx.toNat - i
  if !(queueActive v && v.mapped) || n < 16 then none
  else
    match ringWords s v i 2 with
    | none => some { len := 16, bytes := [], fail := some 3 }
    | some hs =>
      let bs := hs.map Prod.fst
      let h := w64 (leNat (bs.take 8))
      let a := w64 (leNat (bs.drop 8))
      let plen := bits a 16 16
      if hs.any Prod.snd then some { len := 16, bytes := bs, fail := some 0x0A }
      else if h ≠ 0x50001 ∨ bits a 0 8 = 0 ∨ bits a 0 8 > 6 ∨ bits a 9 7 ≠ 0 ∨ plen < 2 ∨ plen > 4096 then
        some { len := 16, bytes := bs, fail := some 2 }
      else if 8 * plen > n || (bit a 8 && queueBusy x q) then none
      else
        match ringWords s v i plen with
        | none => some { len := 8 * plen, bytes := bs, fail := some 3 }
        | some ws => some { len := 8 * plen, bytes := ws.map Prod.fst, fail := if ws.any Prod.snd then some 0x0A else none }

/-- The queue whose packet starts next (R385): the highest level, round-robin among equals. -/
def nextQueue (s : State) (p : Nat) : Option Nat :=
  let x := getPkg s p
  let l := (x.queues.filter fun (q, _) => (headPkt s p q).isSome).map fun (q, v) => (v.level, q)
  let top := (l.map Prod.fst).foldl max 0
  let best := (l.filter fun a => a.1 == top).map Prod.snd
  match best.find? fun q => x.last < q with
  | some q => some q
  | none => best.head?

/-- A packet ends with a status, the offset of the field at fault, and the Reeve's code. -/
def endPkt (s : State) (p id st off ext : Nat) : State :=
  modPkt s p id fun k => if k.ended.isNone then { k with ended := some (st, off, ext) } else k

/-- RDIDX passes the packet, which is now started (R383). -/
def beginPkt (s : State) (p q : Nat) (h : HeadPkt) : State × Nat :=
  let x := getPkg s p
  let v := getQueue x q
  let x' := setQueue x q { v with rdidx := v.rdidx + w64 h.len, level := v.prio, since := pkgNow s p }
  (setPkg s p { x' with
    last := q, nextPkt := x.nextPkt + 1, pkts := x.pkts ++ [{ id := x.nextPkt, q := q, off := v.rdidx, bytes := h.bytes }] }, x.nextPkt)

/-- A packet of queue `ev.k` of package `ev.n` starts, if it is the next to do so and `mine` of its type and CONFIG operation holds; `go`
carries it out from its package, number, queue record and fields.  A packet that fails its checks ends with its status and no effect
(R386 to R390). -/
def startPacket (s : State) (mine : Nat → Nat → Bool) (go : State → Nat → Nat → Queue → List Fld → State) : State :=
  let p := s.ev.n
  let q := s.ev.k
  if !(pkgOk s p && feRuns (getPkg s p)) || nextQueue s p ≠ some q then s
  else
    match headPkt s p q with
    | none => s
    | some h =>
      let (t, id) := beginPkt s p q h
      let fails := fun (st off : Nat) => endPkt t p id st off 0
      match h.fail with
      | some st => fails st 0
      | none =>
        let ws := wordsIn (h.len / 8) h.bytes
        let pt := bits (ws.getD 1 0) 0 8
        match readFields s p pt ws.length 16 (ws.drop 2) [] with
        | .error (st, off) => fails st off
        | .ok fs =>
          let v := getQueue (getPkg s p) q
          if !((fldNeeds pt).all fun t => (fldOf fs t).isSome) then fails 2 0
          else if !(mine pt (fldWord fs 0x60 0).toNat) then s
          else if pt = 6 && q ≠ 0 then fails 5 (fldOff fs 0x60)
          else
            match fldOf fs 2 with
            | none => go t p id v fs
            | some f =>
              match sigSpots s v (f.word 0) 3 with
              | .error st => fails st f.off
              | .ok _ => go t p id v fs

/-! ### Packets that move memory (R393, R395) -/

/-- COPY (R395) of queue `ev.k` of package `ev.n`. -/
def execCopy (s : State) : Host.Outcome State Fault Refusal :=
  .next (startPacket s (fun t _ => t == 3) fun s p id v fs =>
    let n := (fldWord fs 0x30 2).toNat
    match refSpots s v (fldWord fs 0x30 0) n 1, refSpots s v (fldWord fs 0x30 1) n 2 with
    | some a, some b =>
      let bs := spotsRead s a
      let s := spotsWrite (a.foldl spotDetect s) b bs
      endPkt s p id (if bs.any Prod.snd then 0x0A else 0) 0 0
    | _, _ => endPkt s p id 3 (fldOff fs 0x30) 0)

/-- SIGNAL (R395). -/
def execSignal (s : State) : Host.Outcome State Fault Refusal :=
  .next (startPacket s (fun t _ => t == 5) fun s p id v fs =>
    let add := (fldWord fs 0x50 1).toNat = 1
    match sigSpots s v (fldWord fs 0x50 0) (if add then 3 else 2) with
    | .error st => endPkt s p id st (fldOff fs 0x50) 0
    | .ok t =>
      let w := (if add then spotsWord s t else 0) + fldWord fs 0x50 2
      endPkt (spotsWrite s t (plainBytes (wordBytes8 w))) p id 0 0 0)

/-- The signals of a DEP field, or the status of one that cannot be followed. -/
def depSpots (s : State) (v : Queue) : List Word → Except Nat (List (List Spot))
  | [] => .ok []
  | r :: t =>
    match sigSpots s v r 1, depSpots s v t with
    | .error e, _ => .error e
    | .ok _, .error e => .error e
    | .ok a, .ok l => .ok (a :: l)

/-- A read of a BARRIER_AND's signals (R393): it ends, or waits. -/
def readDeps (s : State) (p id : Nat) (v : Queue) (rs : List Word) (off : Nat) : State :=
  match depSpots s v rs with
  | .error e => endPkt s p id e off 0
  | .ok l =>
    let vs := l.map (spotsWord s)
    if vs.any fun w => w.msb then endPkt s p id 4 off 0
    else if vs.all fun w => w == 0 then endPkt s p id 0 0 0
    else s

/-- BARRIER_AND (R393). -/
def execBarrierAnd (s : State) : Host.Outcome State Fault Refusal :=
  .next (startPacket s (fun t _ => t == 4) fun s p id v fs =>
    readDeps s p id v (((fldOf fs 0x40).map Fld.v).getD []) (fldOff fs 0x40))

/-- The type of a started packet. -/
def pktType (k : Pkt) : Nat := bits ((pktWords k).getD 1 0) 0 8

/-- The fields of a started packet. -/
def pktFields (s : State) (p : Nat) (k : Pkt) : List Fld :=
  match readFields s p (pktType k) (pktWords k).length 16 ((pktWords k).drop 2) [] with
  | .ok fs => fs
  | .error _ => []

/-- BARRIER_AND_READ (R393): packet `ev.k` among those started of package `ev.n` reads its signals again. -/
def execBarrierAndRead (s : State) : Host.Outcome State Fault Refusal :=
  let p := s.ev.n
  match (getPkg s p).pkts[s.ev.k]? with
  | none => .next s
  | some k =>
    if k.ended.isSome || pktType k ≠ 4 then .next s
    else
      let fs := pktFields s p k
      .next (readDeps s p k.id (getQueue (getPkg s p) k.q) (((fldOf fs 0x40).map Fld.v).getD []) (fldOff fs 0x40))

/-! ### BOOK packets (R400) -/

/-- The regions of a task that the front end submits, under a translation context of the task's die; none where one is not mapped as it
asks, or is a capability region: the front end has no capability registers. -/
def feRegions (s : State) (d : Nat) (x : Word) (b : List Byte) : List Region → Nat → List Region → State × Option (List Region)
  | [], _, acc => (s, some acc)
  | r :: t, k, acc =>
    let v := regRec b k
    let n := regLen v
    let a := w64 (natBits v 0 64)
    let need := fun e => (!r.rd || pteRD e) && (!r.wr || pteWR e)
    if r.cap then (s, none)
    else
      match translateRange s d .die x a need (granules a.toNat n) with
      | (s, .error _) => (s, none)
      | (s, .ok ls) =>
        feRegions s d x b t (k + 1) (acc ++ [{ r with
          die := d, runs := runsOf ((pieces a.toNat n (granules a.toNat n)).zip ls), pages := (ls.map fun l => (l.asid, l.base)).eraseDups }])

/-- The gang list of a descriptor, under a translation context of its die. -/
def feGang (s : State) (d : Nat) (x : Word) (b : List Byte) : Option (List (Nat × Nat)) :=
  let a := leAt b 320 8
  let rd := fun n => (addrSpots s false d x pteRD a n).map fun t => (spotsRead s t).map Prod.fst
  match rd 8 with
  | none => none
  | some h => if leNat h = 0 || leNat h > 1048576 then none else (rd (8 + 8 * leNat h)).bind fun l => gangOf l (leNat h)

/-- BOOK_PACKET (R400): the task of queue `ev.k`'s packet goes to its die's Reeve; the packet completes when the booking ends. -/
def execBookPacket (s : State) : Host.Outcome State Fault Refusal :=
  .next (startPacket s (fun t _ => t == 2) fun s p id v fs =>
    let d := (fldWord fs 0x20 1).toNat
    let off := fldOff fs 0x20
    match refSpots s v (fldWord fs 0x20 0) 512 1 with
    | none => endPkt s p id 3 off 0
    | some t =>
      let bs := (spotsRead s t).map Prod.fst
      let failed := fun (s : State) (code : Nat) => endPkt s p id 0x0C 0 code
      if (spotsRead s t).any Prod.snd then endPkt s p id 0x0A off 0
      else
        match taskOf d bs with
        | none => failed s 5
        | some b =>
          if b.prio = 7 && !v.sys then failed s 6
          else if b.regs.any fun r => r.cap then failed s 5
          else
            match (if b.isGang then feGang s d v.xctx bs else some []) with
            | none => failed s 5
            | some g =>
              match feRegions s d v.xctx bs b.regs 0 [] with
              | (s, none) => endPkt s p id 3 off 0
              | (s, some rs) =>
                let l := (getPkg s p).nextLaunch
                let s := modPkg s p fun x => { x with nextLaunch := l + 1 }
                let j := { b.job with pkg := p, launch := l, scope := 5, svec := Config.partHandler p v.part, xctx := v.xctx }
                match enterTask s d { b with regs := rs, gang := g, job := j, sys := v.sys, fe := some (p, id, 0) } with
                | (s, .ok _) => s
                | (s, .error c) => failed s c)

/-! ### CONFIG operations on queues (R382, R389, R394) -/

/-- A die lies in a partition (R382); extents wrap round the torus. -/
def inPart (s : State) (part : Word) (d : Nat) : Bool :=
  let o := bits part 0 15
  (List.range 3).all fun k => (coordOf d k + dimSize s k - coordOf o k) % dimSize s k ≤ bits part (15 + 5 * k) 5

/-- The partition's box lies in the system. -/
def partOk (s : State) (part : Word) : Bool :=
  bits part 30 34 == 0 && dieOk s (bits part 0 15) && (List.range 3).all fun k => bits part (15 + 5 * k) 5 < dimSize s k

/-- A window capability from its 16 bytes; none where they are zero: the window is absent. -/
def windowCap (b : List Byte) : Cap := if leNat b = 0 then {} else { bits := BitVec.ofNat 128 (leNat b), tag := true }

/-- The record that 256 proposed bytes ask for, or none where a field is reserved or out of range. -/
def queueOf (s : State) (b : List Byte) : Option Queue :=
  let w := fun o => w64 (leAt b o 8)
  let ctl := w 24
  let irq := w 128
  let n := bits ctl 0 6
  let wins := (List.range 4).map fun k => windowCap ((b.drop (64 + 16 * k)).take 16)
  if bits ctl 13 51 ≠ 0 || bits (w 48) 32 32 ≠ 0 || leAt b 136 120 ≠ 0 || bits irq 8 56 ≠ 0 || n < 12 || n > 26 || (w 16).toNat % 2 ^ n ≠ 0
      || (bit irq 7 && (bits irq 0 7 < 2 || bits irq 0 7 > 65)) || !(partOk s (w 56)) || !(wins.all fun c => !c.tag || capWf c) then none
  else some
    { ring := w 16, log2 := n, prio := bits ctl 6 3, level := bits ctl 6 3, sys := bit ctl 9, en := bit ctl 10, xctx := w 32, age := bits (w 48) 0 32,
      part := w 56, irq := irq, dwin := spOfFn {} 4 fun k => wins.getD k {} }

/-- The payload of the record of a type that is installed. -/
def cfgPayload (x : Pkg) (t : Nat) : Option (List Byte) := (x.cfg.find? fun c => c.typ == t).map CfgRec.payload

/-- A record that is well formed but not permitted (R382): level 7 without SYS, a partition that is not available, a window outside it. -/
def queueDenied (s : State) (x : Pkg) (v : Queue) : Bool :=
  (v.prio == 7 && !v.sys) || !(Config.cfgPart (cfgPayload x 3) v.part) || v.dwin.any fun c => c.2.tag && !(inPart s v.part (capPeer c.2))

/-- QUEUE_CREATE (R382): the lowest free number. -/
def execQueueCreate (s : State) : Host.Outcome State Fault Refusal :=
  .next (startPacket s (fun t o => t == 6 && o == 0x01) fun s p id v fs =>
    let off := fldOff fs 0x60
    match refSpots s v (fldWord fs 0x60 1) 256 3 with
    | none => endPkt s p id 3 off 0
    | some t =>
      let ms := spotsRead s t
      let x := getPkg s p
      match queueOf s (ms.map Prod.fst), (List.range 4096).find? fun q => !(queueIs x q) with
      | none, _ => endPkt s p id (if ms.any Prod.snd then 0x0A else 2) off 0
      | some r, n =>
        if ms.any Prod.snd then endPkt s p id 0x0A off 0
        else if queueDenied s x r then endPkt s p id 5 off 0
        else
          match n with
          | none => endPkt s p id 0x0E off 0
          | some q =>
            let s := spotsWrite s ((refSpots s v (fldWord fs 0x60 1 + 8) 8 2).getD []) (plainBytes (wordBytes8 (w64 q)))
            endPkt (modQueue s p q fun _ => r) p id 0 0 0)

/-- QUEUE_DESTROY (R389): the packet waits until the queue has no started packet incomplete; the record goes as it completes. -/
def execQueueDestroy (s : State) : Host.Outcome State Fault Refusal :=
  .next (startPacket s (fun t o => t == 6 && o == 0x02) fun s _ _ _ _ => s)

/-- QUEUE_RESET (R389, R394). -/
def execQueueReset (s : State) : Host.Outcome State Fault Refusal :=
  .next (startPacket s (fun t o => t == 6 && o == 0x03) fun s p id _ fs =>
    endPkt (modQueue s p (fldWord fs 0x60 1).toNat fun v => { v with err := false, erri := 0, bell := 0, rdidx := v.wridx, emptyAt := pkgNow s p }) p id 0 0 0)

end Sys2Proof.Machine
end

