-- ==== Sys2Proof/Machine/Jobs.lean ====
section
/-!
DEFINITION. Jobs: made resident, started, their waits ended, their meetings opened, retired (01 R11 to R28; 05 R126, R130; 12 R281; 13
R320; 16 R397).
-/
namespace Sys2Proof.Machine
open Sys2Proof

/-! ### A job becomes resident (01 R11, R14, R15; 05 R126, R130) -/

/-- Core `c` may take job `k` of a launch: jobs of distinct core- or cluster-level instances keep apart (16 R397). -/
def coreSuits (l : Launch) (k : LJob) (c : Nat) : Bool :=
  l.jobs.all fun x => x.flat == k.flat || x.die != k.die || x.st == 0 || x.st ≥ 4 ||
    (x.who.core != c && (k.group == 0 || (x.group == k.group) == (x.who.core / 8 == c / 8)))

/-- A core with a free context that has room for the job. -/
def coreTakes (s : State) (l : Launch) (k : LJob) (c : Nat) : Bool :=
  coreSuits l k c && [0, 1].any fun i => ctxFree s ⟨k.die, c, i⟩ false && (waysFree (getCore s ⟨k.die, c, i⟩) i l.tiles).isSome

/-- JOB_RESIDENT.  With `ev.b`, saved context `ev.k` of die `ev.w.die` begins its restore into context `ev.w` (13 R320).  With `ev.e` the
Mill, the job of booking `ev.k` becomes resident (R15, 12 R281); otherwise job `ev.n` of launch `ev.k` of package `ev.v`, on the first core
that takes it (R14, 16 R397). -/
def execJobResident (s : State) : Host.Outcome State Fault Refusal :=
  let w := s.ev.w
  let y := getCore s w
  if s.ev.e = .mill && !s.ev.b then .next ((bindResident s w s.ev.k).getD s)
  else if !(ctxFree s w false) then .next s
  else if s.ev.b then
    match (getDie s w.die).saved[s.ev.k]? with
    | none => .next s
    | some v =>
      let o := coreCtx y (1 - w.ctx)
      if v.core ≠ w.core || (o.job.isSome && (o.ways &&& v.ctx.ways) ≠ 0) then .next s
      else .next (modCtx s w fun c => { c with restoring := some { runs := [(v.area, areaMax)] } })
  else
    let p := s.ev.v.toNat
    match (getPkg s p).launches[s.ev.k]? with
    | none => .next s
    | some l =>
      match l.jobs.find? fun k => k.flat == s.ev.n && k.st == 0 && k.die == w.die, waysFree y w.ctx l.tiles with
      | some k, some m =>
        if l.bkd || launchFails l || !(coreSuits l k w.core) || (List.range w.core).any (coreTakes s l k) then .next s
        else .next (setLJob (makeResident s w (jobOf p l k) m) p l.id k.flat fun k => { k with st := 1, who := w })
      | _, _ => .next s

/-- The present streams of a context that is IDLE run; `cycle` counts from now (04 R113). -/
def startStreams (c : Ctx) (cyc : Nat) : Ctx :=
  let go := fun (c : Ctx) (e : Eng) => if (getStat c e).st = .idle then setStat c e { getStat c e with st := .run } else c
  let idle := [Eng.access, .loom, .mill].any fun e => (getStat c e).st == .idle
  let c := go (go (go c .access) .loom) .mill
  if idle then { c with csr := { c.csr with cycOff := w64 cyc } } else c

/-- GANG_START (R16): the common start slot has begun on die `ev.w.die`; the gang jobs due leave IDLE. -/
def execGangStart (s : State) : Host.Outcome State Fault Refusal :=
  let d := s.ev.w.die
  let now := slotNow s d
  let f := fun (c : Ctx) => if (c.job.any fun j => j.gang && j.gstart ≤ now) && c.saving.isNone then startStreams c (cycNow s d) else c
  if dieOk s d && clockRuns (getDie s d).power then
    .next (modDie s d fun x => { x with cores := x.cores.map fun (k, y) => (k, { y with k0 := f y.k0, k1 := f y.k1 }) })
  else .next s

/-! ### Waits (01 R18 to R20, R24, R25) -/

/-- The object of a stream's wait is satisfied (R18). -/
def waitMet (s : State) (w : Who) (e : Eng) : Bool :=
  let c := getCtx s w
  let t := getStat c e
  let o := t.obj.toNat
  let a := t.aux.toNat
  match t.wkind.toNat with
  | 1 => !((accAt (getDie s w.die) o).any fun a => !a.ready)
  | 2 => (needUnmet c e t.needs).isNone
  | 3 => if a ≥ 2 ^ 63 then !(c.mill.injq.isEmpty) else tagFull (getCore s w) (a / 4096) != (a % 2 == 1)
  | 4 =>
    let b := barRead (getCore s { w with core := a % 32 }) o
    !(barLive b) || barDone b (a / 32)
  | 5 => (if a % 2 = 0 then c.c0.q else c.c1.q).length ≤ a / 2
  | 6 =>
    let inst := if a % 4 = 2 then millInst w else carterInst w (a % 4)
    gateFor s w (o % 8) (if a % 4 = 2 then 0 else 1) inst false != .wait
  | 8 => c.csr.evpend &&& c.csr.evmask != 0
  | _ => false

/-- WAIT_SATISFIED (R19): the wait of stream `ev.e` of context `ev.w` ends, its record written (05 R152); the instruction issues again. -/
def execWaitSatisfied (s : State) : Host.Outcome State Fault Refusal :=
  let w := s.ev.w
  if whoOk s w && ctxMoves s w && (getStat (getCtx s w) s.ev.e).st == .wait && waitMet s w s.ev.e then
    .next (clearWait s w s.ev.e (waitSetBy s w s.ev.e))
  else .next s

/-- CHANNEL_TIMEOUT (R20, 04 R93): a channel wait has passed `chlim`. -/
def execChannelTimeout (s : State) : Host.Outcome State Fault Refusal :=
  let w := s.ev.w
  let c := getCtx s w
  let t := getStat c s.ev.e
  if whoOk s w && ctxMoves s w && t.st == .wait && t.wkind == 2 && !(waitMet s w s.ev.e) && cycNow s w.die - t.since > c.csr.chlim.toNat then
    let v := ((needUnmet c s.ev.e t.needs).map fun x => w64 x.ch).getD t.obj
    .next (if s.ev.e = .access then takeTrap s w 0x0B v 0 true else stopStream s w s.ev.e 0x0B v)
  else .next s

/-- A stream stands at a rendezvous. -/
def atMeeting (t : Stat) : Bool := t.st == .wait && t.wkind == 7

/-- MEETING_OPEN (R24, R25): every present stream of context `ev.w` waits at a rendezvous or is DONE, and every global access before it has
completed; they go on together. -/
def execMeetingOpen (s : State) : Host.Outcome State Fault Refusal :=
  let w := s.ev.w
  let c := getCtx s w
  let ts := [Eng.access, .loom, .mill].map (getStat c)
  if !(whoOk s w && ctxMoves s w) || !(ts.any atMeeting) || !(ts.all fun t => atMeeting t || t.st == .done || t.st == .absent) ||
      accPending s w then .next s
  else
    let s := if atMeeting c.acc.stat then retireAccess (clearWait s w .access 6) w c.acc.stat.bps .seq else s
    let s := if atMeeting c.loom.stat then retireLoom (clearWait s w .loom 6) w .seq 0 else s
    .next (if atMeeting c.mill.stat then millRetired (millPass s w .seq) w else s)

/-! ### Retirement (01 R27) -/

/-- The uses of a booked job end early, and the record of its booking goes. -/
def retireBk (s : State) (w : Who) (j : Job) : State :=
  if !j.bkd then s
  else
    let i := j.handle / 64
    let s := match liveIdx (getDie s w.die) j.handle with
      | none => s
      | some i =>
        if !(bkHeld (getBk (getDie s w.die) i)) then withdrawBk s w.die i 0x0D else
        (List.range (getBk (getDie s w.die) i).uses.length).foldl (fun s k =>
          let b := getBk (getDie s w.die) i
          let u := nthUse b k
          if !(bkHeld b) || u.cls ≥ 2 then s
          else if u.ended && u.swept then s
          else if u.ended then backfill (pullForward (sweepUse s w.die i k) w.die i k (reachedFrom s w.die j.handle)) w.die 16
          else backfill (endUse s w.die i k true) w.die 16) s
    let b := getBk (getDie s w.die) i
    if b.st = .free && b.bound && handleOf i b = j.handle then settleBk s w.die i else s

/-- A context of a launch that still runs: its job neither retired nor ended by a double fault. -/
def ctxRuns (s : State) (p id : Nat) (w : Who) (c : Ctx) : Bool :=
  (c.job.any fun j => j.pkg == p && j.launch == id) &&
    !(c.halted && (getDie s w.die).moot.any fun m => m.kind == 2 && m.w == w)

/-- Some context of the system satisfies `f`. -/
def anyCtx (s : State) (f : Who → Ctx → Bool) : Bool :=
  s.dies.any fun (d, x) => x.cores.any fun (k, y) => f ⟨d, k, 0⟩ y.k0 || f ⟨d, k, 1⟩ y.k1

/-- A job of the launch runs, is saved, or is booked by a job of it and awaits its place. -/
def launchRuns (s : State) (p id : Nat) : Bool :=
  anyCtx s (ctxRuns s p id) || s.dies.any fun (_, x) =>
    (x.saved.any fun v => v.ctx.job.any fun j => j.pkg == p && j.launch == id) ||
      x.reeve.bks.any fun (_, b) => b.fe.isNone && bkLive b && b.job.pkg == p && b.job.launch == id

/-- The launch learns that its job has retired. -/
def reportRetired (s : State) (j : Job) : State :=
  setLJob s j.pkg j.launch j.flat fun k => if k.st = 1 then { k with st := 2 } else k

/-- Once the last job of a launch has retired, those that its jobs booked among them, its counter ranges go (03 R91). -/
def dropRanges (s : State) (j : Job) : State :=
  let waits := ((getPkg s j.pkg).launches.find? fun l => l.id == j.launch).any fun l => l.jobs.any fun k => k.st < 2
  if waits || launchRuns s j.pkg j.launch then s
  else modPkg s j.pkg fun x => { x with rngs := x.rngs.filter fun r => r.2.2.2 != j.launch }

/-- A job of a launch, rather than a task that a job of it submitted. -/
def launchJob (s : State) (w : Who) (j : Job) : Bool :=
  ((getPkg s j.pkg).launches.find? fun l => l.id == j.launch).any fun l => l.jobs.any fun k => k.flat == j.flat && k.who == w && k.st == 1

/-- JOB_RETIRE (R27): the job of context `ev.w`. -/
def execJobRetire (s : State) : Host.Outcome State Fault Refusal :=
  let w := s.ev.w
  let c := getCtx s w
  match c.job with
  | none => .next s
  | some j =>
    let done := fun (t : Stat) => t.st == .done || t.st == .absent
    if !(whoOk s w && ctxMoves s w) || !(done c.acc.stat && done c.loom.stat && done c.mill.stat) || !(c.c0.q.isEmpty && c.c1.q.isEmpty) ||
        !(c.mill.flight.isEmpty) || (getDie s w.die).acc.any (fun a => a.w == w && accWrites a.kind) then .next s
    else
      let t := scopeRelease s w (j.scope + 1)
      let t := if launchJob s w j then reportRetired t j else t
      let t := retireBk t w j
      let t := modDie t w.die fun d => { d with
        acc := d.acc.filter fun a => a.w != w
        tlb := { d.tlb with tlbis := d.tlb.tlbis.filter fun o => o.w != w } }
      .next (dropRanges (setCtx t w {}) j)

end Sys2Proof.Machine
end

