-- ==== Sys2Proof/Machine/Launch.lean ====
section
/-!
DEFINITION. Launches: their expansion, argument areas, counter ranges, booked and gang launches; the completion of packets (16 R390 to
R401, R480; 03 R91; 19 R475).
-/
namespace Sys2Proof.Machine
open Sys2Proof

/-! ### Expansion (R397) -/

/-- Cores are numbered die × 32 + core.  The instance of a domain that a core lies in. -/
def unitOf (dom core : Nat) : Nat :=
  match dom with
  | 1 => core
  | 2 => core / 8
  | 3 => core / 32
  | 4 => pkgOf (core / 32)
  | _ => 0

/-- The core holds a free context. -/
def coreFree (s : State) (core : Nat) : Bool := [0, 1].any fun i => (getCtx s ⟨core / 32, core % 32, i⟩).job.isNone

/-- The instances of a domain in a container, in ascending order. -/
def unitsIn (dom : Nat) (pool : List Nat) : List (List Nat) :=
  ((pool.map (unitOf dom)).eraseDups).map fun u => pool.filter fun c => unitOf dom c == u

/-- `n` instances: those that hold a free context first, then the lowest-numbered of the rest. -/
def pickUnits (s : State) (n : Nat) (us : List (List Nat)) : List (List Nat) :=
  let l := us.zipIdx
  let free := l.filter fun u => u.1.any (coreFree s)
  let rest := l.filter fun u => !(u.1.any (coreFree s))
  let chosen := ((free ++ rest).take n).map Prod.snd
  (l.filter fun u => chosen.contains u.2).map Prod.fst

/-- A job's place as expansion finds it: its indices, its cluster-level instance + 1, its core. -/
structure Spawn where
  lix : List Nat
  group : Nat
  core : Nat
deriving DecidableEq, Repr

/-- Expand levels inside a container; none where a level's count exceeds the instances there. -/
def expand (s : State) : List Level → List Nat → List Nat → Nat → Option (List Spawn)
  | [], pool, lix, g => some [⟨lix, g, (pool.find? (coreFree s)).getD (pool.headD 0)⟩]
  | l :: t, pool, lix, g =>
    let us := unitsIn l.dom pool
    if us.length < l.cnt then none
    else
      ((pickUnits s l.cnt us).zipIdx.mapM fun (u, i) =>
        expand s t u (lix ++ [i]) (if l.dom = 2 then 1 + (u.headD 0) / 8 else g)).map List.flatten

/-- The cores of a partition, in ascending die id. -/
def partCores (s : State) (part : Word) : List Nat :=
  let ds := sortBy (fun a b => decide (a ≤ b)) ((allDies s).filter (inPart s part))
  ds.flatMap fun d => (List.range 32).map fun c => d * 32 + c

/-- The partition is the whole system. -/
def partWhole (s : State) (part : Word) : Bool := (allDies s).all (inPart s part)

/-- The launch's jobs; those of a gang have their cores. -/
def ljobs (gang : Bool) (l : List Spawn) : List LJob :=
  l.zipIdx.map fun (x, k) =>
    { flat := k, lix := x.lix, die := x.core / 32, group := x.group, who := if gang then ⟨x.core / 32, x.core % 32, 0⟩ else ⟨0, 0, 0⟩ }

/-! ### Argument areas (R398, R480) -/

/-- The range that argument areas lie in. -/
def argVa : Nat := 0x003FFFFFE0000000

/-- The level-1 table of that range under a translation context of a die. -/
def argTable (s : State) (d : Nat) (x : Word) : Option Nat :=
  let e := pteAt s d (xctxRoot x) (argVa / 2 ^ 42 % 2 ^ 13)
  if pteV e && pteT e && tableOk e then
    let e := pteAt s d (ptePA e) (argVa / 2 ^ 29 % 2 ^ 13)
    if pteV e && pteT e && tableOk e then some (ptePA e) else none
  else none

/-- The areas on a die, of every package's launches. -/
def areasOn (s : State) (d : Nat) : List Area := s.pkgs.flatMap fun p => p.2.launches.flatMap fun l => l.areas.filter fun a => a.die == d

/-- The physical place of an area of `n` pages: the highest below the HDM window that no other area holds (notes/assumptions/18.md). -/
def areaPlace (s : State) (d n : Nat) : Option Nat :=
  let top := hbmSize - (getPkg s (pkgOf d)).hdm * 2 ^ 30
  let used := areasOn s d
  ((List.range 8192).map fun k => top - (k + n) * 2 ^ 16).find? fun a => used.all fun u => a + n * 2 ^ 16 ≤ u.pa || u.pa + u.len ≤ a

/-- The first of `n` leaves in a row of a level-1 table that are free. -/
def leafRun (s : State) (d table n : Nat) : Option Nat :=
  (List.range (8193 - n)).find? fun i => (List.range n).all fun k => !(pteV (pteAt s d table (i + k)))

/-- Write level-1 entries `i` to `i + n - 1` of a table: leaves that map pages from `pa` up, or zero. -/
def putLeaves (s : State) (d table i n : Nat) (pa : Option Nat) : State :=
  (List.range n).foldl (fun s k =>
    let e := match pa with
      | some a => w64 (a + k * 2 ^ 16 + 0x4D)
      | none => 0
    modMem s d fun m => hbmWrite m (table + 8 * (i + k)) (wordBytes8 e)) s

/-- Invalidate a page of the range (13 R314). -/
def dropPage (s : State) (d asid va : Nat) : State :=
  modDie s d (tlbKill (fun e => e.asid == asid && va / 2 ^ e.log == e.base)
    fun e => e.asid == asid && va / 2 ^ (16 + 13 * e.level) == e.tag)

/-- The capability that a template makes for a job's die, or none (R398). -/
def capOfT (s : State) (t : CapT) (self : Nat) (jobs : List LJob) : Option Cap :=
  let peer := if t.pk = 0 then some self else if t.pk = 1 then (jobs[t.peer]?).map LJob.die else some t.peer
  match peer with
  | none => none
  | some d =>
    let w := windowAt s d t.win
    if !(dieOk s d) || t.win ≥ 1024 || !w.v || t.off ≥ w.len then none
    else
      (cbndFind t.off (min t.len (w.len - t.off))).map fun (e, bot, top) =>
        mkCap e bot top w.kind (t.perm &&& w.pmax) d (t.win * 2 ^ 54 + t.off) true

/-- Write a tagged capability into HBM. -/
def putCapAt (s : State) (d pa : Nat) (c : Cap) : State :=
  modMem s d fun m =>
    let m := hbmWrite m pa (leBytes 16 c.bits.toNat)
    { m with htags := spSet false m.htags (pa / 16) c.tag }

/-- Why a launch is not accepted: a status with the field at fault and the Reeve's code. -/
abbrev Refusing := Nat × Nat × Nat

/-- The argument area of a die: mapped, given LARG's bytes and the capabilities. -/
def makeArea (s : State) (d : Nat) (x : Word) (arg : List MByte) (caps : List (Nat × Cap)) : State × Option Area :=
  let len := max arg.length ((caps.map fun c => 16 * (c.1 + 1)).foldl max 1)
  let n := (len + 65535) / 65536
  match argTable s d x with
  | none => (s, none)
  | some t =>
    match leafRun s d t n, areaPlace s d n with
    | some i, some pa =>
      let s := putLeaves s d t i n (some pa)
      let s := spotWrite s ⟨d, .hbm, pa, arg.length⟩ arg
      let s := caps.foldl (fun s c => putCapAt s d (pa + 16 * c.1) c.2) s
      (s, some { die := d, va := w64 (argVa + i * 2 ^ 16), pa := pa, len := n * 2 ^ 16 })
    | _, _ => (s, none)

/-- The areas of every die that runs a job of the launch, which is the last of the package's. -/
def makeAreas (s : State) (p id : Nat) (x : Word) (arg : List MByte) (tpl : List CapT) (jobs : List LJob) (kernOff : Nat) :
    List Nat → Except Refusing State
  | [] => .ok s
  | d :: ds =>
    match tpl.mapM fun t => (capOfT s t d jobs).map fun c => (t.place, c) with
    | none => .error (3, kernOff, 0)
    | some caps =>
      if (argTable s d x).isNone then .error (5, 0, 0)
      else
        match makeArea s d x arg caps with
        | (_, none) => .error (0x0E, 0, 0)
        | (s, some a) =>
          let s := modPkg s p fun y => { y with launches := y.launches.map fun l => if l.id = id then { l with areas := l.areas ++ [a] } else l }
          makeAreas s p id x arg tpl jobs kernOff ds

/-- The areas of a launch are freed (R398, R480). -/
def freeAreas (s : State) (l : Launch) : State :=
  l.areas.foldl (fun s a =>
    let n := a.len / 2 ^ 16
    let i := (a.va.toNat - argVa) / 2 ^ 16
    let s := match argTable s a.die l.xctx with
      | some t => putLeaves s a.die t i n none
      | none => s
    (List.range n).foldl (fun s k => dropPage s a.die (xctxAsid l.xctx) (a.va.toNat + k * 2 ^ 16)) s) s

/-! ### Counter ranges (03 R91) -/

/-- The ranges that RNGX declares. -/
def rangesOf : List Word → List (Word × Word × Word)
  | k :: a :: b :: t => (k, a, b) :: rangesOf t
  | _ => []

/-- Two declared ranges overlap.  DESIGN CHOICE (03 R91 says nothing of a range whose first counter is above its last): it is accepted and
judged by this same formula (notes/assumptions/65.md). -/
def rangesMeet (a : Word × Word × Word) (b : Word × Word × Word × Nat) : Bool :=
  a.1 == b.1 && a.2.1.toNat ≤ b.2.2.1.toNat && b.2.1.toNat ≤ a.2.2.toNat

/-- The check of R91: a status, or the ranges entered. -/
def enterRanges (x : Pkg) (id : Nat) (rs : List (Word × Word × Word)) : Except Nat Pkg :=
  if rs.any fun r => x.rngs.any (rangesMeet r) then .error 8
  else if x.rngs.length + rs.length > 256 then .error 9
  else .ok { x with rngs := x.rngs ++ rs.map fun (k, a, b) => (k, a, b, id) }

/-! ### Booked launches (R400, R401) -/

def putAt (bs : List Byte) (o : Nat) (v : List Byte) : List Byte := bs.take o ++ v ++ bs.drop (o + v.length)

/-- The descriptor of a launch's tasks: the template with the fields that the front end fills. -/
def fillTask (t : List Byte) (l : Launch) (arg : Word) : List Byte :=
  let e := fun n => wordBytes8 (l.ents.getD n 0)
  let h := leAt t 0 4
  let h := h - natBits h 16 4 * 2 ^ 16 + l.prio * 2 ^ 16 + 2 ^ 19
  let h := h - natBits h 20 1 * 2 ^ 20 + l.gang.toNat * 2 ^ 20
  putAt (putAt (putAt (putAt (putAt t 0 (leBytes 4 h)) 24 (e 0)) 32 (e 1)) 40 (e 2)) 48 (wordBytes8 arg ++ wordBytes8 0)

/-- The booking for job `k` of a launch, or the code or refusal it meets. -/
def taskFor (s : State) (p : Nat) (l : Launch) (sys : Bool) (t : List Byte) (k : LJob) : State × Except Refusing Booking :=
  let j := jobOf p l k
  let bs := fillTask t l j.arg
  match taskOf k.die bs with
  | none => (s, .error (0x0C, 0, 5))
  | some b =>
    if b.prio = 7 && !sys then (s, .error (0x0C, 0, 6))
    else if b.regs.any fun r => r.cap then (s, .error (0x0C, 0, 5))
    else
      match feRegions s k.die l.xctx bs b.regs 0 [] with
      | (s, none) => (s, .error (3, 0, 0))
      | (s, some rs) =>
        (s, .ok { b with
          regs := rs, sys := sys, fe := some (p, l.id, k.flat + 1), isGang := l.gang
          gang := if l.gang then l.jobs.map fun x => (x.die, x.who.core) else []
          job := { j with tiles := b.tiles, handle := 0, bkd := true, gang := l.gang } })

/-- The bookings of the jobs `ks`; the first refusal. -/
def tasksFor (s : State) (p : Nat) (l : Launch) (sys : Bool) (t : List Byte) : List LJob → State × Except Refusing (List (Nat × Nat × Booking))
  | [] => (s, .ok [])
  | k :: ks =>
    match taskFor s p l sys t k with
    | (s, .error e) => (s, .error e)
    | (s, .ok b) =>
      match tasksFor s p l sys t ks with
      | (s, .error e) => (s, .error e)
      | (s, .ok bs) => (s, .ok ((k.die, k.flat, b) :: bs))

/-- The tasks go to their Reeves; one refused there marks its job. -/
def submitTasks (s : State) (p id : Nat) (bs : List (Nat × Nat × Booking)) : State :=
  bs.foldl (fun s (d, f, b) =>
    match enterTask s d b with
    | (s, .ok _) => s
    | (s, .error c) => setLJob s p id f fun k => { k with st := 4 + c }) s

/-! ### LAUNCH (R396 to R401) -/

/-- A die in idle that a launch needs begins to wake, to P0 (R412). -/
def wakeDie (s : State) (d : Nat) : State :=
  modDie s d fun x =>
    if x.power.state = 3 && !x.power.waking && x.power.target.isNone then
      { x with power := { x.power with waking := true, target := some 0, pkt := 0, relockEnd := x.time.osc + 50000 } }
    else x

/-- A launch is accepted with its jobs, or refused: then no job starts and nothing of it stays. -/
def tryLaunch (s : State) (p pkt : Nat) (v : Queue) (fs : List Fld) : Except Refusing State :=
  let x := getPkg s p
  let kOff := fldOff fs 0x10
  let lOff := fldOff fs 0x11
  let rec_ := ((fldOf fs 0x11).map Fld.v).getD []
  let h := rec_.getD 0 0
  let levels := (rec_.drop 1).map levelOf
  let gang := bit h 6
  let bkd := bit h 5
  match x.images.find? fun i => i.hdl == bits (fldWord fs 0x10 0) 0 32 with
  | none => .error (6, kOff, 0)
  | some img =>
    match img.kerns[bits (fldWord fs 0x10 0) 32 16]? with
    | none => .error (6, kOff, 0)
    | some kern =>
      if levels.any (fun l => l.dom == 6) && !(partWhole s v.part) then .error (5, lOff, 0)
      else
        match expand s levels (partCores s v.part) [] 0, (if bkd then img.tasks[bits h 24 8]? else some []) with
        | none, _ => .error (2, lOff, 0)
        | _, none => .error (2, lOff, 0)
        | some sp, some tpl =>
          let jobs := ljobs gang sp
          let dies := (jobs.map LJob.die).eraseDups
          let larg := fldOf fs 0x12
          let n := bits (fldWord fs 0x12 1) 0 16
          if kern.tiles > 1536 then .error (0x0E, 0, 0)
          else if gang && !(dies.all fun d => calendarsRun (getDie s d)) then .error (0x0B, 0, 0)
          else
            match (match larg with
              | none => some []
              | some f => refSpots s v (f.word 0) n 1) with
            | none => .error (3, fldOff fs 0x12, 0)
            | some argS =>
              let id := x.nextLaunch
              match enterRanges x id (rangesOf (((fldOf fs 0x13).map Fld.v).getD [])) with
              | .error e => .error (e, fldOff fs 0x13, 0)
              | .ok x =>
                let l : Launch :=
                  { id := id, pkt := pkt, img := img.hdl, ents := [kern.enta, kern.entv, kern.entm], levels := levels, prio := bits h 8 3, bkd := bkd
                    gang := gang, tiles := kern.tiles, xctx := v.xctx, jobs := jobs
                    svec := if v.sys then kern.svec.getD (Config.partHandler p v.part) else Config.partHandler p v.part }
                let arg := spotsRead s argS
                let s := setPkg s p { x with nextLaunch := id + 1, launches := x.launches ++ [l] }
                match makeAreas s p id v.xctx arg kern.caps jobs kOff dies with
                | .error e => .error e
                | .ok s =>
                  let s := modPkt s p pkt fun k => { k with launch := id }
                  if !bkd then .ok (dies.foldl wakeDie s)
                  else
                    let l := ((getPkg s p).launches.find? fun y => y.id == id).getD l
                    match tasksFor s p l v.sys tpl (if gang then jobs.take 1 else jobs) with
                    | (_, .error e) => .error e
                    | (s, .ok bs) => .ok (submitTasks s p id bs)

/-- LAUNCH (R397): the packet of queue `ev.k` of package `ev.n` starts and is expanded into jobs. -/
def execLaunch (s : State) : Host.Outcome State Fault Refusal :=
  .next (startPacket s (fun t _ => t == 1) fun s p id v fs =>
    match tryLaunch s p id v fs with
    | .error (st, off, ext) => endPkt s p id st off ext
    | .ok s => s)

/-! ### Completion (R390, R392, R394, R399) -/

/-- A job ended by a double fault (01 R36). -/
def ctxDied (s : State) (p id : Nat) (w : Who) (c : Ctx) : Bool :=
  (c.job.any fun j => j.pkg == p && j.launch == id) && !(ctxRuns s p id w c)

/-- How a launch ends, once it does (R399, R400). -/
def launchEnd (s : State) (p : Nat) (l : Launch) : Option Refusing :=
  if launchRuns s p l.id then none
  else
    match l.jobs.find? fun k => k.st ≥ 4 with
    | some k => some (if k.st = 14 then (0x0B, 0, 0) else (0x0C, 0, k.st - 4))
    | none =>
      if l.jobs.any fun k => k.st == 0 then none
      else if anyCtx s (ctxDied s p l.id) then some (0x0D, 0, 0)
      else some (0, 0, 0)

/-- A packet's value of a field type. -/
def pktScan (k : Pkt) (ty : Nat) : Option (List Word) := scanField ty (pktWords k).length ((pktWords k).drop 2)

/-- A CONFIG packet's operation and first operand. -/
def cfgOf (k : Pkt) : Nat × Word :=
  match (if pktType k = 6 then pktScan k 0x60 else none) with
  | some (op :: a :: _) => (op.toNat, a)
  | _ => (0, 0)

/-- A POWER packet ends once no die of its mask has its change before it: with POWER where a trip has come between. -/
def powerEnd (s : State) (p : Nat) (k : Pkt) (a : Word) : Option Refusing :=
  let ds := ((List.range 8).filter fun j => bit a j).map (pkgDie p)
  let st := fun d => (getDie s d).power
  if ds.any fun d => (st d).target.isSome && (st d).pkt == k.id then none
  else if ds.all fun d => (st d).state == bits a 8 4 && !(st d).trip then some (0, 0, 0) else some (0x0B, 0, 0)

/-- How a started packet ends, once it does. -/
def pktEnd (s : State) (p : Nat) (k : Pkt) : Option Refusing :=
  match k.ended with
  | some e => some e
  | none =>
    if k.launch ≠ 0 then
      match (getPkg s p).launches.find? fun l => l.id == k.launch with
      | some l => launchEnd s p l
      | none => none
    else
      match cfgOf k with
      | (0x02, q) => if queueBusy (getPkg s p) q.toNat then none else some (0, 0, 0)
      | (0x20, a) => powerEnd s p k a
      | _ => none

/-- Every effect of a launch's jobs is released at system scope (R392). -/
def releaseDies (s : State) (l : Launch) : State :=
  ((l.jobs.map LJob.die).eraseDups).foldl (fun s d =>
    let s := granRelease s d
    (List.range 4).foldl (fun s c => wcDrain s d c) s) s

/-- Bookings of a failed launch whose jobs have not started are withdrawn (R394). -/
def dropTasks (s : State) (p id : Nat) : State :=
  s.dies.foldl (fun s (d, _) =>
    ((getDie s d).reeve.bks.filter fun (_, b) => bkLive b && b.fe.any fun f => f.1 == p && f.2.1 == id && f.2.2 != 0).foldl (fun s (i, _) =>
      let s := if (getBk (getDie s d) i).st = .preparing || (getBk (getDie s d) i).st = .committing then unplaceBk s d i else s
      finishBk (modBk s d i fun b => { b with bound := false, fe := none }) d i 0x0C) s) s

/-- A launch leaves: its areas, ranges and remaining bookings go. -/
def endLaunch (s : State) (p : Nat) (l : Launch) (ok : Bool) : State :=
  let s := if ok then releaseDies s l else dropTasks s p l.id
  modPkg (freeAreas s l) p fun x => { x with launches := x.launches.filter fun y => y.id != l.id, rngs := x.rngs.filter fun r => r.2.2.2 != l.id }

/-- PACKET_COMPLETE (R392, R394): packet `ev.k` among those started of package `ev.n` completes. -/
def execPacketComplete (s : State) : Host.Outcome State Fault Refusal :=
  let p := s.ev.n
  match (getPkg s p).pkts[s.ev.k]? with
  | none => .next s
  | some k =>
    match pktEnd s p k with
    | none => .next s
    | some (st, off, ext) =>
      let v := getQueue (getPkg s p) k.q
      let s := match (getPkg s p).launches.find? fun l => l.pkt == k.id with
        | some l => endLaunch s p l (st == 0)
        | none => s
      let s := match cfgOf k with
        | (0x02, q) => if st = 0 then modQueue s p q.toNat fun _ => {} else s
        | _ => s
      let s := match pktScan k 2 with
        | some [r] =>
          match sigSpots s v r 3 with
          | .ok t => spotsWrite s t (plainBytes (wordBytes8 (if st = 0 then spotsWord s t - 1 else - w64 st)))
          | .error _ => s
        | _ => s
      let s := match pktScan k 3 with
        | some [i] => if 2 ≤ i.toNat && i.toNat ≤ 65 then raiseVec s p i.toNat else s
        | _ => s
      let s := modPkg s p fun x => { x with pkts := x.pkts.eraseIdx s.ev.k }
      let s := modQueue s p k.q fun v => if v.log2 = 0 then v else { v with emptyAt := pkgNow s p }
      .next (if st = 0 then s else queueError s p k.q st off ext k.off)

end Sys2Proof.Machine
end

