-- ==== Sys2Proof/Machine/Portable.lean ====
section
/-!
DEFINITION. The portable section of a kernel image: its records, what rejects it, and its translation to native words (02 R65, R66; 16 R407).
-/
namespace Sys2Proof.Machine
open Sys2Proof

/-- A portable instruction record (R65). -/
structure PortRec where
  opn : Nat
  count : Nat
  flg : Nat
  fr : Nat
  pu : Nat
  gap : Nat
  opix : Nat
  imm : BitVec 32
deriving DecidableEq, Repr

def portRecAt (b : List Byte) (o : Nat) : PortRec :=
  { opn := leAt b o 2, count := leAt b (o + 2) 1, flg := leAt b (o + 3) 1, fr := leAt b (o + 4) 1, pu := leAt b (o + 5) 1,
    gap := leAt b (o + 6) 2, opix := leAt b (o + 8) 4, imm := BitVec.ofNat 32 (leAt b (o + 12) 4) }

/-- A portable operand record (R66). -/
structure PortOpnd where
  kind : Nat
  ofl : Nat
  sym : Nat
  val : Nat
deriving DecidableEq, Repr

def portOpndAt (b : List Byte) (o : Nat) : PortOpnd :=
  { kind := leAt b o 1, ofl := leAt b (o + 1) 1, sym := leAt b (o + 2) 2, val := leAt b (o + 4) 4 }

/-! ### Operation numbers -/

/-- Major opcodes of format AR, whose selector is funct5 (R50). -/
def arOps : List Nat :=
  [0x00, 0x01, 0x02, 0x26, 0x27, 0x28, 0x29, 0x37, 0x38, 0x3A, 0x3B, 0x40, 0x41, 0x42, 0x43, 0x44, 0x45, 0x46, 0x47, 0x50, 0x51, 0x52, 0x54,
   0x58, 0x59, 0x5A, 0x5B, 0x62, 0x6A, 0x6B, 0x6D, 0x6E, 0x74]

/-- The bits that an access-core operation number fixes in a word: the major opcode, and funct5 or cond; a word of another format has
selector 0 (notes/assumptions/53.md).  CPYG and CPYS take a channel in rs1, here ch0. -/
def accessOpBits (n : Nat) : Option Nat :=
  let op := n / 32
  let sel := n % 32
  if op = 0x43 || op = 0x44 then some (op + 2 ^ 18 + sel * 2 ^ 27)
  else if op = 0x20 then (if sel < 8 then some (op + sel * 2 ^ 7) else none)
  else if arOps.contains op then some (op + sel * 2 ^ 27)
  else if sel = 0 then some op
  else none

/-- An assigned opcode and selector: with its other fields at their least values, the word has an instruction. -/
def opAssigned : Except DecErr Instr → Bool
  | .ok _ => true
  | .error _ => false

/-- The Loom's fields in a word that has its opcode alone. -/
def bareLoom : LForm :=
  { modf := 0, b := .vreg 0 0 0 0, a := .vreg 0 0 0 0, d := .vreg 0 0 0 0, sat := false, rnd := .rne, fmt := .fp32, pred := 0 }

/-- The engine of a portable record. -/
def portEng (r : PortRec) : Option Eng :=
  match r.opn / 2 ^ 14 with
  | 0 => some .access
  | 1 => some .loom
  | 2 => some .mill
  | _ => none

/-- An operation number that is an L3 instruction of its engine. -/
def l3Op (e : Eng) (n : Nat) : Bool :=
  match e with
  | .access => n < 2 ^ 12 && match accessOpBits n with | some w => opAssigned (decAccessFields w) | none => false
  | .loom => n < 2 ^ 10 && opAssigned (loomOf n bareLoom)
  | .mill => n < 2 ^ 8 && match mformOf n with | .ok f => opAssigned (millOf n f) | .error _ => false

/-! ### What R66 rejects -/

/-- A record holds no reserved value and no reserved bit, and its operation is one of L3. -/
def portRecOk (r : PortRec) : Bool :=
  (match portEng r with | some e => l3Op e (r.opn % 2 ^ 14) | none => false) &&
    r.count ≤ 6 && r.flg < 4 && r.fr < 128 && (fmtOf (r.fr % 16)).isSome && r.fr / 16 ≤ 5 && r.pu < 64 && r.gap == 0

/-- An operand record holds no reserved value and no reserved bit, and its symbol lies in the string table of `strs` entries. -/
def portOpndOk (strs : Nat) (x : PortOpnd) : Bool := x.kind ≤ 8 && x.ofl < 4 && (x.sym == 0 || x.sym < strs)

def portRecs (b : List Byte) : List PortRec :=
  let t := Config.portTables b
  (List.range t.recs).map fun k => portRecAt b (t.recAt + 16 * k)

def portOpnds (b : List Byte) : List PortOpnd :=
  let t := Config.portTables b
  (List.range t.opnds).map fun k => portOpndAt b (t.opndAt + 8 * k)

/-- The portable section holds nothing that R66 rejects. -/
def portableOk (b : List Byte) : Bool :=
  (portRecs b).all portRecOk && (portOpnds b).all (portOpndOk (Config.portTables b).strings)

/-! ### Translation (16 R407) -/

/-- `w` with bits `lo` to `lo + n - 1` replaced by those of `v`. -/
def putBits (w lo n v : Nat) : Nat := w - fld w lo n * 2 ^ lo + v % 2 ^ n * 2 ^ lo

/-- The operands of a record. -/
def portArgs (b : List Byte) (r : PortRec) : List PortOpnd := ((portOpnds b).drop r.opix).take r.count

/-- The native word of record `k`: its operation, format, rounding, saturation, predicate and use are the record's; the translator binds
the rest, which the spec does not give (notes/assumptions/53.md). -/
def portWord (b : List Byte) (k : Nat) (r : PortRec) : List Byte :=
  let bound := Config.portBind b k ((portArgs b r).map fun x => (x.kind, x.ofl, x.sym, x.val)) r.imm
  let n := r.opn % 2 ^ 14
  match portEng r with
  | some .access =>
    let w := putBits bound 0 7 (n / 32)
    leBytes 4 (if n / 32 = 0x20 then putBits w 7 3 n else if arOps.contains (n / 32) then putBits w 27 5 n else w)
  | some .loom =>
    leBytes 12 (putBits (putBits (putBits (putBits (putBits bound 0 10 n) 10 3 r.pu) 13 4 r.fr) 17 3 (r.fr / 16)) 20 1 r.flg)
  | some .mill => leBytes 24 (putBits (putBits bound 0 8 n) 73 3 (r.pu / 8))
  | none => []

/-- The native code that the portable section of an image translates to: a function of its bytes alone. -/
def portableCode (b : List Byte) : List Byte := (portRecs b).zipIdx.flatMap fun (r, k) => portWord b k r

end Sys2Proof.Machine
end

