-- ==== Sys2Proof/Machine/Host.lean ====
section
/-!
DEFINITION. The host, firmware and power: images, configuration records, boot and its measurements, power states and trips, the Almanac's
packet, the Granary's link, the HDM window, SPDM (16 R377, R402 to R413; 00 R6; 13 R346).
-/
namespace Sys2Proof.Machine
open Sys2Proof

/-! ### Measurements (R409) -/

/-- The chain extended by an item. -/
def extendM (m : BitVec 512) (x : List Byte) : BitVec 512 :=
  Config.sha512 (leBytes 64 m.toNat ++ leBytes 64 (Config.sha512 x).toNat)

/-- The measurement blocks, index 1 to 5. -/
def measBlocks (x : Pkg) : List (BitVec 512) := [x.romM, x.fwM, x.cfgM, x.imgM, x.chain]

/-- A configuration record, or an image's D, is measured. -/
def measCfg (x : Pkg) (raw : List Byte) : Pkg := { x with cfgM := extendM x.cfgM raw, chain := extendM x.chain raw }

def measImg (x : Pkg) (d : BitVec 512) : Pkg :=
  { x with imgM := extendM x.imgM (leBytes 64 d.toNat), chain := extendM x.chain (leBytes 64 d.toNat) }

/-! ### Kernel images (R405 to R407) -/

/-- A section of an image. -/
structure Sect where
  typ : Nat
  flg : Nat
  gen : Nat
  off : Nat
  len : Nat
deriving DecidableEq, Repr

def sectAt (b : List Byte) (k : Nat) : Sect :=
  let o := 64 + 32 * k
  { typ := leAt b o 2, flg := leAt b (o + 3) 1, gen := leAt b (o + 4) 4, off := leAt b (o + 8) 8, len := leAt b (o + 16) 8 }

/-- The section entry breaks no rule of R405. -/
def sectOk (b : List Byte) (n k : Nat) : Bool :=
  let x := sectAt b k
  leAt b (64 + 32 * k + 24) 8 == 0 && leAt b (64 + 32 * k + 2) 1 == 0 && x.flg ≤ 1 && x.off % 64 == 0 && 64 + 32 * n ≤ x.off &&
    x.off + x.len ≤ b.length && (x.typ == 3 || x.gen == 0)

def sectsMeet (a b : Sect) : Bool := a.off < b.off + b.len && b.off < a.off + a.len

/-- No two sections overlap. -/
def sectsApart : List Sect → Bool
  | [] => true
  | x :: t => t.all (fun y => !(sectsMeet x y)) && sectsApart t

/-- The sections of an image, or the status that refuses it (R405, R406). -/
def imageSects (b : List Byte) : Except Nat (List Sect) :=
  let n := leAt b 12 4
  if b.length < 64 || b.length > 2 ^ 28 || leAt b 0 4 ≠ 0x00444C5A || leAt b 4 4 ≠ 1 || leAt b 16 8 ≠ b.length || leAt b 32 32 ≠ 0
      || n < 2 || n > 64 || 64 + 32 * n > b.length || !((List.range n).all (sectOk b n)) then .error 7
  else
    let l := (List.range n).map (sectAt b)
    let last := sectAt b (n - 1)
    if !(sectsApart l) || last.typ ≠ 6 || last.len ≠ 96 || (l.dropLast.any fun x => x.typ == 6 || last.off < x.off) then .error 7
    else if l.any fun x => (x.typ = 0 || x.typ > 6) && x.flg = 1 then .error 1
    else .ok l

/-- FEAT leaf 0: GEN and MINGEN. -/
def partGen : Nat := 0x03

def partMinGen : Nat := 0x03

/-- The code chosen (R407): the generation of a native section, 0xFFFFFFFF where the portable one is translated, none. -/
def codeChoice (b : List Byte) (l : List Sect) : Option Nat :=
  let ok := (l.filter fun x => x.typ == 3 && partMinGen ≤ x.gen && x.gen ≤ partGen).map Sect.gen
  match ok with
  | g :: t => some (t.foldl max g)
  | [] => if l.any (fun x => x.typ == 1) && portableOk b then some 0xFFFFFFFF else none

/-- The native code of an image for the choice made: the section's bytes, or the translation of the portable section (R407). -/
def imageCode (b : List Byte) (l : List Sect) (g : Nat) : List Byte :=
  if g = 0xFFFFFFFF then portableCode b
  else
    match l.find? fun x => x.typ == 3 && x.gen == g with
    | some x => (b.drop x.off).take x.len
    | none => []

/-- D and the verdict on the signature (R406): Ed25519 over D under a key of the installed list. -/
def imageDigest (b : List Byte) (l : List Sect) : BitVec 512 := Config.sha512 (b.take ((l.getLast?.map Sect.off).getD 0))

def imageSigned (x : Pkg) (b : List Byte) (l : List Sect) : Bool :=
  let o := (l.getLast?.map Sect.off).getD 0
  let key := (b.drop o).take 32
  (Config.cfgKeys ((cfgPayload x 1).getD [])).contains key &&
    Config.ed25519 key (leBytes 64 (imageDigest b l).toNat) ((b.drop (o + 32)).take 64)

/-- The lowest handle that no image holds. -/
def freeHandle (x : Pkg) : Nat := ((List.range 257).find? fun h => !(x.images.any fun i => i.hdl == h + 1)).getD 256 + 1

/-- The image of some bytes as it is loaded, or the status that refuses it. -/
def loadImage (x : Pkg) (b : List Byte) : Except Nat Image :=
  match imageSects b with
  | .error e => .error e
  | .ok l =>
    if !(imageSigned x b l) then .error 7
    else
      match codeChoice b l with
      | none => .error 1
      | some g =>
        if x.images.length ≥ 256 then .error 0x0E
        else
          let h := freeHandle x
          .ok { hdl := h, digest := imageDigest b l, gen := g, code := imageCode b l g, kerns := Config.imageKernels b g h, tasks := Config.imageTasks b }

/-- IMAGE_LOAD (R406) of queue `ev.k` of package `ev.n`. -/
def execImageLoad (s : State) : Host.Outcome State Fault Refusal :=
  .next (startPacket s (fun t o => t == 6 && o == 0x10) fun s p id v fs =>
    let off := fldOff fs 0x60
    match refSpots s v (fldWord fs 0x60 1) (fldWord fs 0x60 2).toNat 1, refSpots s v (fldWord fs 0x60 3) 8 2 with
    | some a, some r =>
      let ms := spotsRead s a
      if ms.any Prod.snd then endPkt s p id 0x0A off 0
      else
        match loadImage (getPkg s p) (ms.map Prod.fst) with
        | .error e => endPkt s p id e off 0
        | .ok i =>
          let s := modPkg s p fun x => measImg { x with
            images := x.images ++ [i], cache := if i.gen = 0xFFFFFFFF then (i :: x.cache.filter fun c => c.digest != i.digest).take 256 else x.cache } i.digest
          endPkt (spotsWrite s r (plainBytes (leBytes 4 i.hdl ++ leBytes 4 i.gen))) p id 0 0 0
    | _, _ => endPkt s p id 3 off 0)

/-- IMAGE_UNLOAD (R389). -/
def execImageUnload (s : State) : Host.Outcome State Fault Refusal :=
  .next (startPacket s (fun t o => t == 6 && o == 0x11) fun s p id _ fs =>
    let h := (fldWord fs 0x60 1).toNat
    if (getPkg s p).launches.any fun l => l.img == h then endPkt s p id 5 (fldOff fs 0x60) 0
    else endPkt (modPkg s p fun x => { x with images := x.images.filter fun i => i.hdl != h }) p id 0 0 0)

/-! ### Configuration records (R410) -/

/-- The record signed by the Keamon root, or, but for OWNER, by an owner key that is installed. -/
def cfgSigned (x : Pkg) (typ sig : Nat) (raw : List Byte) : Bool :=
  let d := leBytes 64 (Config.sha512 (raw.take sig)).toNat
  let g := (raw.drop sig).take 64
  Config.ed25519 Config.rootKey d g ||
    (typ != 0 && (Config.cfgKeys ((cfgPayload x 0).getD [])).any fun k => Config.ed25519 k d g)

/-- The record in force of its type. -/
def cfgSeq (x : Pkg) (typ : Nat) : Option Nat := (x.cfg.find? fun c => c.typ == typ).map CfgRec.seq

/-- A record comes into force; FWMIN raises the sealed minimum. -/
def applyCfg (x : Pkg) (r : CfgRec) : Pkg :=
  let x := { x with cfg := x.cfg.filter (fun c => c.typ != r.typ) ++ [r] }
  measCfg (if r.typ = 6 then { x with fwmin := max x.fwmin (Config.cfgNumber r.payload) } else x) r.raw

/-- The record of some bytes for a package, or the status that refuses it. -/
def cfgRecord (x : Pkg) (p : Nat) (raw : List Byte) : Except Nat CfgRec :=
  match Config.cfgParse raw with
  | none => .error 2
  | some (typ, seq, ser, sig, payload) =>
    if typ > 6 then .error 2
    else if !(cfgSigned x typ sig raw) || (ser ≠ 0 && ser ≠ Config.serial p) || (cfgSeq x typ).any (fun n => seq ≤ n) then .error 5
    else .ok { typ := typ, seq := seq, payload := payload, raw := raw }

/-- CFG_INSTALL (R410). -/
def execCfgInstall (s : State) : Host.Outcome State Fault Refusal :=
  .next (startPacket s (fun t o => t == 6 && o == 0x30) fun s p id v fs =>
    let off := fldOff fs 0x60
    match refSpots s v (fldWord fs 0x60 1) (fldWord fs 0x60 2).toNat 1 with
    | none => endPkt s p id 3 off 0
    | some a =>
      let ms := spotsRead s a
      if ms.any Prod.snd then endPkt s p id 0x0A off 0
      else
        match cfgRecord (getPkg s p) p (ms.map Prod.fst) with
        | .error e => endPkt s p id e off 0
        | .ok r => endPkt (modPkg s p fun x => { applyCfg x r with flash := x.flash ++ [r] }) p id 0 0 0)

/-! ### Boot (R408) -/

/-- A firmware copy whose signature by the Keamon root verifies. -/
def fwValid (c : FwCopy) : Bool := Config.ed25519 Config.rootKey (leBytes 64 (Config.sha512 c.bytes).toNat) c.sig

/-- The valid copy of highest version that is not below the sealed minimum. -/
def fwPick (x : Pkg) : Option FwCopy :=
  (x.fw.filter fun c => fwValid c && x.fwmin ≤ c.version).foldl (fun m c =>
    match m with
    | some b => if b.version < c.version then some c else m
    | none => some c) none

/-- The records of flash applied, each type's by rising sequence where it verifies: the highest of each stays. -/
def applyFlash (p : Nat) (x : Pkg) : Pkg :=
  x.flash.foldl (fun x r =>
    match cfgRecord x p r.raw with
    | .ok r => applyCfg x r
    | .error _ => x) x

/-- HDM and GRANARY take effect (R403, R404, R410); with no GRANARY record every port with an expander is enabled. -/
def applyPorts (x : Pkg) : Pkg :=
  let w := ((cfgPayload x 2).map Config.cfgNumber).getD 0
  let on := match cfgPayload x 4 with
    | some b => Config.cfgPorts b
    | none => [0, 1, 2, 3]
  { x with hdm := min w 60, gon := spOfFn false 4 fun k => on.contains k, gfail := [] }

/-- The Moot sets the base of each die's export window table, in the die's HBM and on an entry's boundary (17 R431). -/
def setWindows (s : State) (p : Nat) : State :=
  (List.range 8).foldl (fun s i =>
    let d := pkgDie p i
    modDie s d fun x => { x with fab := { x.fab with ewbase := w64 ((Config.ewBase d).toNat % (hbmSize - 2 ^ 15) / 32 * 32) } }) s

/-- BOOT (R408, R409): the boot ROM of package `ev.n`. -/
def execBoot (s : State) : Host.Outcome State Fault Refusal :=
  let p := s.ev.n
  let x := getPkg s p
  if !(pkgOk s p) || x.ready || x.err then .next s
  else
    match fwPick x with
    | none => .next (setPkg s p { x with err := true, boot := Config.bootStatus p false })
    | some c =>
      let rom := Config.romBytes p
      let x := { x with
        ready := true, boot := Config.bootStatus p true, cfg := [], romM := Config.sha512 rom, fwM := Config.sha512 c.bytes
        cfgM := 0, imgM := 0, chain := extendM (extendM 0 rom) c.bytes }
      .next (setWindows (setPkg s p (applyPorts (applyFlash p x))) p)

/-! ### Power (R411 to R413) -/

/-- Slots that bookings of a die, its own and others', hold. -/
def slotsHeld (d : Die) : List Nat :=
  (d.reeve.bks.flatMap fun (_, b) => b.uses.flatMap fun u => if u.ended then [] else u.slots) ++
    d.reeve.others.flatMap fun o => o.marks.flatMap fun m => m.slots

/-- The first slot, past the present one, from which no booking holds a slot. -/
def windowSlot (s : State) (d : Nat) : Nat := ((slotsHeld (getDie s d)).map (· + 1)).foldl max (slotNow s d + 1)

/-- The change window (12 R305): a booking of the front end's at priority 7 of slot `n` on every exclusive calendar of die `d`; its handle. -/
def bookWindow (s : State) (d n : Nat) : State :=
  match freeBk (getDie s d) with
  | none => s
  | some i =>
    let (s, stamp) := drawStamp s d
    let b : Booking := { st := .booked, gen := spGet 1 (getDie s d).reeve.gens i, stamp := stamp, prio := 7, level := 7, sys := true, isGang := true,
                         tried := true, uses := [{ dur := 1, placed := true, slots := [n] }] }
    modDie s d fun x =>
      let x := (List.range 96).foldl (fun x cal => exPut x cal n (BitVec.ofNat 25 (handleOf i b * 32 + 2))) (setBk x i b)
      { x with power := { x.power with wbk := handleOf i b } }

/-- A change window not yet reached is given up. -/
def dropWindow (s : State) (d : Nat) : State :=
  match liveIdx (getDie s d) (getDie s d).power.wbk with
  | none => s
  | some i =>
    let n := (getDie s d).power.window
    finishBk (modDie s d fun x => { (List.range 96).foldl (fun x cal => exPut x cal n 0) x with power := { x.power with wbk := 0, window := 0 } }) d i 0x0C

/-- The die holds a job. -/
def dieJobs (d : Die) : Bool := d.cores.any fun (_, y) => y.k0.job.isSome || y.k1.job.isSome

/-- A POWER packet asks a die for a state: nothing where it is there; a drain or a change window from P0; waking from idle. -/
def askPower (s : State) (id t : Nat) (drn : Bool) (d : Nat) : State :=
  let x := getDie s d
  let w := x.power
  if w.state = t && !w.trip && !w.waking && w.target.isNone then s
  else if w.state = 3 then
    modDie s d fun x => { x with power := { w with
      target := some t, pkt := id, waking := true, relockEnd := if w.waking then w.relockEnd else x.time.osc + 50000 } }
  else
    let s := dropWindow s d
    let n := if w.state = 0 && !drn && !w.trip then windowSlot s d else 0
    let s := modDie s d fun x => { x with power := { x.power with target := some t, pkt := id, drain := w.state = 0 && drn && !w.trip, window := n } }
    if n = 0 then s else bookWindow s d n

/-- POWER (R411, R412) of queue `ev.k` of package `ev.n`. -/
def execPower (s : State) : Host.Outcome State Fault Refusal :=
  .next (startPacket s (fun t o => t == 6 && o == 0x20) fun s p id _ fs =>
    let a := fldWord fs 0x60 1
    (((List.range 8).filter fun j => bit a j).map (pkgDie p)).foldl (askPower · id (bits a 8 4) (bit a 12)) s)

/-- The drain has ended: no booking of the die, no job. -/
def drained (d : Die) : Bool := !(d.reeve.bks.any fun b => bkLive b.2) && d.reeve.others.isEmpty && !(dieJobs d)

/-- POWER_CHANGE (R412): the change of die `ev.w.die` begins: after the drain, at the slot of its change window, or at once where no
calendar runs; into idle once the die holds no job. -/
def execPowerChange (s : State) : Host.Outcome State Fault Refusal :=
  let d := s.ev.w.die
  let x := getDie s d
  let w := x.power
  let due := if w.drain then drained x else (w.window = 0 || w.window ≤ slotNow s d) && (w.target != some 3 || !(dieJobs x))
  if dieOk s d && w.target.isSome && !w.relock && !w.waking && due then
    let s := match liveIdx x w.wbk with
      | some i => finishBk s d i 0x0D
      | none => s
    .next (modDie s d fun x => { x with power := { w with relock := true, relockEnd := x.time.osc + 20000 } })
  else .next s

/-- RELOCK_COMPLETE (R412): 20 µs after its change began die `ev.w.die` runs at its new clock, or is idle. -/
def execRelockComplete (s : State) : Host.Outcome State Fault Refusal :=
  let d := s.ev.w.die
  let w := (getDie s d).power
  if dieOk s d && w.relock && w.relockEnd ≤ (getDie s d).time.osc then
    .next (modDie s d fun x => { x with power := { state := w.target.getD w.state } })
  else .next s

/-- IDLE_WAKE (R412): 50 µs after a packet needed it die `ev.w.die` has woken. -/
def execIdleWake (s : State) : Host.Outcome State Fault Refusal :=
  let d := s.ev.w.die
  let w := (getDie s d).power
  if dieOk s d && w.waking && w.relockEnd ≤ (getDie s d).time.osc then
    .next (modDie s d fun x => { x with power := { state := w.target.getD 0 } })
  else .next s

/-- EMERGENCY_TRIP (R413) of die `ev.w.die`: by temperature, which takes it to P2, or with `ev.b` by its supply, which halts it. -/
def execEmergencyTrip (s : State) : Host.Outcome State Fault Refusal :=
  let d := s.ev.w.die
  let p := pkgOf d
  if !(dieOk s d) then .next s
  else
    let w := (getDie s d).power
    let s := modDie s d fun x => { x with power := if s.ev.b then { state := w.state, trip := true } else { state := 2 } }
    let j := dieX d % 2 + 2 * (dieY d % 2) + 4 * (dieZ d % 2)
    let s := modPkg s p fun x => { x with emerg := x.emerg ||| w64 ((if s.ev.b then 2 else 1) + 2 ^ (8 + j)) }
    let m := Config.tripCheck s.ev.b
    let s := machineCheck s ⟨d, 0, 0⟩ m.1 m.2.1 false 0 m.2.2
    .next (((getDie s d).reeve.bks.filter fun b => bkLive b.2).foldl (fun s (i, _) =>
      withdrawBk s d i 0x0A) s)

/-! ### The Almanac's packet (R389; 13 R346) -/

/-- The records of a log up to the first that is zero. -/
def logRecords (bs : List Byte) : List (BitVec 256) := (recordsOf (bs.length / 32) bs).takeWhile fun r => r != 0

/-- Recording and replay of a die as the packet sets them. -/
def setAlm (d : Nat) (rec_ rply : Bool) (log : List (BitVec 256)) (slot : Nat) (x : Die) : Die :=
  let a := x.alm
  { x with alm := { a with
      logging := rec_ && !rply, rply := rply, atPt := false
      div := a.div && a.rply == rply
      cnt := if a.logging = (rec_ && !rply) && a.rply = rply then a.cnt else []
      go := if rply then a.go else []
      waits := []
      log := if rply then log.filter fun r => recDie r = d else []
      start := if rply then slot else 0 } }

/-- ALMANAC (R389): recording and replay of the package's dies start or stop. -/
def execAlmanac (s : State) : Host.Outcome State Fault Refusal :=
  .next (startPacket s (fun t o => t == 6 && o == 0x40) fun s p id v fs =>
    let f := fldWord fs 0x60 1
    let r := fldWord fs 0x60 2
    let room := (capTop (refCap v r) + 1 - capBot (refCap v r)) * 2 ^ capExp (refCap v r) - bits r 0 62
    match (if bit f 1 then refSpots s v r (room / 32 * 32) 1 else some []) with
    | none => endPkt s p id 3 (fldOff fs 0x60) 0
    | some a =>
      let log := logRecords ((spotsRead s a).map Prod.fst)
      let ds := ((List.range 8).map (pkgDie p)).filter (dieOk s)
      endPkt (ds.foldl (fun s d => modDie s d (setAlm d (bit f 0) (bit f 1) log (slotNow s d + 1))) s) p id 0 0 0)

/-! ### Faults of the I/O die (R377, R404) -/

/-- GRANARY_LINK_FAIL (R404): the link of port `ev.k` of package `ev.n` fails: a machine check of kind 6; from then on the port reads
poisoned. -/
def execGranaryLinkFail (s : State) : Host.Outcome State Fault Refusal :=
  let p := s.ev.n
  if pkgOk s p && s.ev.k < 4 && !(spGet false (getPkg s p).gfail s.ev.k) then
    .next (machineCheck (modPkg s p fun x => { x with gfail := spSet false x.gfail s.ev.k true }) ⟨pkgDie p 0, 0, 0⟩ 6 5 false 0 s.ev.k)
  else .next s

/-- MOOT_SRAM_ERROR (R377): the firmware of package `ev.n` halts. -/
def execMootSramError (s : State) : Host.Outcome State Fault Refusal :=
  if pkgOk s s.ev.n && (getPkg s s.ev.n).ready then
    .next (raiseVec (modPkg s s.ev.n fun x => { x with ready := false, err := true }) s.ev.n 0)
  else .next s

/-! ### The HDM window (R403) -/

/-- Where host offset `o` of a package's window lies: the die, and the address in its HBM. -/
def hdmPlace (p w o : Nat) : Nat × Nat := (pkgDie p (o / 4096 % 8), hbmSize - w * 2 ^ 30 + o / 32768 * 4096 + o % 4096)

/-- `n` bytes from offset `o` as runs that stay within 4 KiB. -/
def hdmSpots (p w : Nat) : Nat → Nat → Nat → List Spot
  | 0, _, _ => []
  | k + 1, o, n =>
    let m := min n (4096 - o % 4096)
    if n = 0 then [] else ⟨(hdmPlace p w o).1, .hbm, (hdmPlace p w o).2, m⟩ :: hdmSpots p w k (o + m) (n - m)

/-- The access lies in the window of package `p`. -/
def hdmOk (s : State) (p o n : Nat) : Bool := pkgOk s p && o + n ≤ 8 * (getPkg s p).hdm * 2 ^ 30

/-- HOST_HDM_READ (R403): the host reads `ev.k` bytes at offset `ev.v` of the window of package `ev.n`. -/
def execHostHdmRead (s : State) : Host.Outcome State Fault Refusal :=
  let p := s.ev.n
  let o := s.ev.v.toNat
  if hdmOk s p o s.ev.k then
    let ts := hdmSpots p (getPkg s p).hdm (s.ev.k / 4096 + 2) o s.ev.k
    let ms := spotsRead s ts
    .next { ts.foldl spotDetect s with out := ms.map Prod.fst, outPois := ms.any Prod.snd }
  else .next s

/-- HOST_HDM_WRITE (R403): the host writes `ev.bytes` at offset `ev.v` of the window of package `ev.n`. -/
def execHostHdmWrite (s : State) : Host.Outcome State Fault Refusal :=
  let p := s.ev.n
  let o := s.ev.v.toNat
  let n := s.ev.bytes.length
  if hdmOk s p o n then .next (spotsWrite s (hdmSpots p (getPkg s p).hdm (n / 4096 + 2) o n) (plainBytes s.ev.bytes)) else .next s

/-! ### DOE, SPDM (R402, R409; 00 R6) -/

/-- The request codes of SPDM 1.2 that 00 R6 lists, by kind: GET_VERSION, GET_CAPABILITIES, NEGOTIATE_ALGORITHMS, GET_DIGESTS, GET_CERTIFICATE,
CHALLENGE, GET_MEASUREMENTS (log 60). -/
def spdmCodes : List Byte := [0x84, 0xE1, 0xE3, 0x81, 0x82, 0x83, 0xE0]

/-- The code that an SPDM request carries. -/
def spdmCode (b : List Byte) : Byte := b.getD 1 0

/-- The answer to a listed SPDM request (00 R6): version 1.2 alone; the capabilities of certificates, challenge and signed measurements and
no other; else what the standard defines (log 60). -/
def spdmReply (k : Nat) (t : List (List Byte)) (m : List (BitVec 512)) : List Byte :=
  match k with
  | 0 => [0x10, 0x04, 0, 0, 0, 1, 0, 0x12]
  | 1 => [0x12, 0x61, 0, 0, 0, Config.spdmTiming, 0, 0, 0x16, 0, 0, 0] ++ wordBytes8 Config.spdmSizes
  | _ => Config.spdmAnswer k t m

/-- An SPDM request `ev.bytes` of kind `k` at package `ev.n` is answered, while firmware runs; GET_VERSION begins the transcript anew.
A request of another code is not this step's. -/
def spdmRequest (s : State) (k : Nat) : State :=
  let x := getPkg s s.ev.n
  if !(pkgOk s s.ev.n && x.ready && spdmCodes[k]? == some (spdmCode s.ev.bytes)) then s
  else
    let t := (if k = 0 then [] else x.spdm) ++ [s.ev.bytes]
    setPkg s s.ev.n { x with spdm := t, doe := x.doe ++ [spdmReply k t (measBlocks x)] }

/-- GET_VERSION. -/
def execGetVersion (s : State) : Host.Outcome State Fault Refusal := .next (spdmRequest s 0)

/-- GET_CAPABILITIES. -/
def execGetCapabilities (s : State) : Host.Outcome State Fault Refusal := .next (spdmRequest s 1)

/-- NEGOTIATE_ALGORITHMS. -/
def execNegotiateAlgorithms (s : State) : Host.Outcome State Fault Refusal := .next (spdmRequest s 2)

/-- GET_DIGESTS. -/
def execGetDigests (s : State) : Host.Outcome State Fault Refusal := .next (spdmRequest s 3)

/-- GET_CERTIFICATE. -/
def execGetCertificate (s : State) : Host.Outcome State Fault Refusal := .next (spdmRequest s 4)

/-- CHALLENGE. -/
def execChallenge (s : State) : Host.Outcome State Fault Refusal := .next (spdmRequest s 5)

/-- GET_MEASUREMENTS (R409). -/
def execGetMeasurements (s : State) : Host.Outcome State Fault Refusal := .next (spdmRequest s 6)

/-- The answer to a DOE discovery request for index `i` (R402): one of the three protocols served, discovery, CMA and SPDM, and the next index;
past them, no protocol (log 60). -/
def doeProtocol (i : Nat) : List Byte := if i < 3 then [1, 0, BitVec.ofNat 8 i, BitVec.ofNat 8 ((i + 1) % 3)] else [0xFF, 0xFF, 0, 0]

/-- DOE_DISCOVERY (R402): the mailbox of package `ev.n` answers request `ev.bytes` with a protocol it serves. -/
def execDoeDiscovery (s : State) : Host.Outcome State Fault Refusal :=
  if pkgOk s s.ev.n then .next (modPkg s s.ev.n fun x => { x with doe := x.doe ++ [doeProtocol (s.ev.bytes.getD 0 0).toNat] }) else .next s

/-- UNSUPPORTED_REQUEST (00 R6): the host's request `ev.bytes` at package `ev.n` uses a feature that is not listed, and receives the response
that the standard prescribes: an SPDM request (`ev.k` = 0) of a code outside the list, an ERROR of code UnsupportedRequest that names it
(log 60); a request of the standard numbered `ev.k`, that standard's. -/
def execUnsupportedRequest (s : State) : Host.Outcome State Fault Refusal :=
  let c := spdmCode s.ev.bytes
  let put := fun (b : List Byte) => Host.Outcome.next (modPkg s s.ev.n fun x => { x with doe := x.doe ++ [b] })
  if !pkgOk s s.ev.n then .next s
  else if s.ev.k = 0 then (if spdmCodes.contains c then .next s else put [0x12, 0x7F, 0x07, c])
  else put (Config.unsupported s.ev.k s.ev.bytes)

end Sys2Proof.Machine
end

