-- ==== Sys2Proof/Machine/System.lean ====
section
/-!
DEFINITION. FEAT, traps, returns and events of the access core (04 R116 to R121; 18 R461), and resuming a halted context (14 R361).
-/
namespace Sys2Proof.Machine
open Sys2Proof

/-- FEAT (04 R116). -/
def execFeat (d a : RC) (s : State) : Host.Outcome State Fault Refusal :=
  runAccess s fun s => withOps s (wordOf (.feat d a)) [rcSrc a] [] d fun s vs =>
    .ok (putDst s d (featWord s (me s) (opv vs 0).toNat)) .seq

/-- ECALL (04 R118). -/
def execEcall (s : State) : Host.Outcome State Fault Refusal := runAccess s fun _ => .trap 0x16 0

/-- EBREAK (04 R118). -/
def execEbreak (s : State) : Host.Outcome State Fault Refusal := runAccess s fun _ => .trap 0x12 0

/-- ULIRET (04 R119): outside the handler it raises 0x01.  DESIGN CHOICE: the return goes through whatever `ulepc` holds; a pc that is no
instruction address (R94) is met at the next fetch (notes/assumptions/64.md). -/
def execUliret (s : State) : Host.Outcome State Fault Refusal :=
  runAccess s fun s =>
    let c := getCtx s (me s)
    if c.acc.uli then .ok (setCtx s (me s) (userReturn c)) (.raw c.csr.ulepc) else .trap 0x01 (wordOf .uliret)

/-- SRET (04 R120). -/
def execSret (s : State) : Host.Outcome State Fault Refusal :=
  runAccess s fun s =>
    let c := getCtx s (me s)
    if c.acc.sys then .ok (setCtx s (me s) (sysReturn c)) (.raw c.csr.sepc) else .trap 0x02 (wordOf .sret)

/-- WFE (04 R121). -/
def execWfe (d : RC) (s : State) : Host.Outcome State Fault Refusal :=
  runAccess s fun s =>
    withOps s (wordOf (.wfe d)) [] [] d fun s _ =>
      let c := (getCtx s (me s)).csr
      let got := timingVal s (c.evpend &&& c.evmask)
      if c.evmask = 0 then putTiming s d 0
      else if got ≠ 0 then putTiming (modCsr s (me s) fun c => { c with evpend := c.evpend &&& ~~~got }) d got
      else .wait 8 0 0

/-- FTIME (18 R461). -/
def execFtime (d : RC) (s : State) : Host.Outcome State Fault Refusal :=
  runAccess s fun s => withOps s (wordOf (.ftime d)) [] [] d fun s _ => putTiming s d (w64 (ftimeNow s (me s).die))

/-- A context of the die is halted. -/
def anyHalted (d : Die) : Bool := d.cores.any fun (_, y) => y.k0.halted || y.k1.halted

/-- HALT_RESUME (14 R361): the Moot resumes context `ev.w`; with the last one the die's ingress opens again (17 R452). -/
def execHaltResume (s : State) : Host.Outcome State Fault Refusal :=
  if whoOk s s.ev.w then
    let s := modCtx s s.ev.w fun c => { c with halted := false, stop := none }
    .next (modDie s s.ev.w.die fun d => { d with stopped := d.stopped && anyHalted d })
  else .next s

end Sys2Proof.Machine
end

