-- ==== Sys2Proof/Machine/VecArith.lean ====
section
/-!
DEFINITION. The Loom's element-wise instructions: arithmetic, compare, select, logic, shifts, integers, conversion, quantisation
(06 R164 to R171).
-/
namespace Sys2Proof.Machine
open Sys2Proof

/-! ### Floating-point arithmetic (06 R164) -/

/-- Round the result of element `e` (R164). -/
def ewRound (c : Ctx) (f : LForm) (e : Nat) (x : FNum) : Nat := roundTo x f.fmt f.rnd f.sat (loomSr c e)

/-- Round down decides the sign of an exact zero sum (03 R81). -/
def rdnOf (f : LForm) : Bool := f.rnd == .rdn

def valAt (f : LForm) (vs : List Nat) (k : Nat) : FNum := valueOf f.fmt (vs.getD k 0)

/-- d(e) from a(e), and b(e), rounded once. -/
def arith2 (i : Instr) (f : LForm) (fn : FNum → FNum → FNum) (s : State) : Res :=
  ewBody i f [(f.a, f.fmt), (f.b, f.fmt)] f.fmt true (fun e vs => ewRound (getCtx s (me s)) f e (fn (valAt f vs 0) (valAt f vs 1))) s

def arith1 (i : Instr) (f : LForm) (fn : FNum → FNum) (s : State) : Res :=
  ewBody i f [(f.a, f.fmt)] f.fmt true (fun e vs => ewRound (getCtx s (me s)) f e (fn (valAt f vs 0))) s

/-- The fused forms, which read D. -/
def arith3 (i : Instr) (f : LForm) (fn : FNum → FNum → FNum → FNum) (s : State) : Res :=
  ewBody i f [(f.a, f.fmt), (f.b, f.fmt), (f.d, f.fmt)] f.fmt true
    (fun e vs => ewRound (getCtx s (me s)) f e (fn (valAt f vs 0) (valAt f vs 1) (valAt f vs 2))) s

def execVadd (f : LForm) (s : State) : Host.Outcome State Fault Refusal :=
  runLoomF s f (arith2 (.vadd f) f fun a b => numAdd a b (rdnOf f))

def execVsub (f : LForm) (s : State) : Host.Outcome State Fault Refusal :=
  runLoomF s f (arith2 (.vsub f) f fun a b => numAdd a (numNeg b) (rdnOf f))

def execVmul (f : LForm) (s : State) : Host.Outcome State Fault Refusal := runLoomF s f (arith2 (.vmul f) f numMul)

def execVfma (f : LForm) (s : State) : Host.Outcome State Fault Refusal :=
  runLoomF s f (arith3 (.vfma f) f fun a b d => numAdd (numMul a b) d (rdnOf f))

def execVfms (f : LForm) (s : State) : Host.Outcome State Fault Refusal :=
  runLoomF s f (arith3 (.vfms f) f fun a b d => numAdd (numMul a b) (numNeg d) (rdnOf f))

def execVfnma (f : LForm) (s : State) : Host.Outcome State Fault Refusal :=
  runLoomF s f (arith3 (.vfnma f) f fun a b d => numAdd d (numNeg (numMul a b)) (rdnOf f))

def execVdiv (f : LForm) (s : State) : Host.Outcome State Fault Refusal := runLoomF s f (arith2 (.vdiv f) f numDiv)

def execVsqrt (f : LForm) (s : State) : Host.Outcome State Fault Refusal := runLoomF s f (arith1 (.vsqrt f) f numSqrt)

def execVrcp (f : LForm) (s : State) : Host.Outcome State Fault Refusal := runLoomF s f (arith1 (.vrcp f) f numRcp)

def execVrsq (f : LForm) (s : State) : Host.Outcome State Fault Refusal := runLoomF s f (arith1 (.vrsq f) f numRsq)

def execVexp2 (f : LForm) (s : State) : Host.Outcome State Fault Refusal := runLoomF s f (arith1 (.vexp2 f) f numExp2)

def execVlog2 (f : LForm) (s : State) : Host.Outcome State Fault Refusal := runLoomF s f (arith1 (.vlog2 f) f numLog2)

def execVtanh (f : LForm) (s : State) : Host.Outcome State Fault Refusal := runLoomF s f (arith1 (.vtanh f) f numTanh)

def execVsinp (f : LForm) (s : State) : Host.Outcome State Fault Refusal := runLoomF s f (arith1 (.vsinp f) f numSinPi)

def execVcosp (f : LForm) (s : State) : Host.Outcome State Fault Refusal := runLoomF s f (arith1 (.vcosp f) f numCosPi)

/-! ### Rows that involve no rounding -/

/-- d(e) from the encodings of a(e) and b(e). -/
def bits2 (i : Instr) (f : LForm) (fn : Nat → Nat → Nat) (s : State) : Res :=
  ewBody i f [(f.a, f.fmt), (f.b, f.fmt)] f.fmt false (fun _ vs => fn (vs.getD 0 0) (vs.getD 1 0)) s

def bits1 (i : Instr) (f : LForm) (fn : Nat → Nat) (s : State) : Res :=
  ewBody i f [(f.a, f.fmt)] f.fmt false (fun _ vs => fn (vs.getD 0 0)) s

def signBit (f : LForm) : Nat := 2 ^ (fmtBits f.fmt - 1)

def execVmin (f : LForm) (s : State) : Host.Outcome State Fault Refusal :=
  runLoomF s f (bits2 (.vmin f) f fun a b => if totalLess b a f.fmt then b else a)

def execVmax (f : LForm) (s : State) : Host.Outcome State Fault Refusal :=
  runLoomF s f (bits2 (.vmax f) f fun a b => if totalLess a b f.fmt then b else a)

def execVabs (f : LForm) (s : State) : Host.Outcome State Fault Refusal :=
  runLoomF s f (bits1 (.vabs f) f fun a => a % signBit f)

def execVneg (f : LForm) (s : State) : Host.Outcome State Fault Refusal :=
  runLoomF s f (bits1 (.vneg f) f fun a => a ^^^ signBit f)

def execVcpys (f : LForm) (s : State) : Host.Outcome State Fault Refusal :=
  runLoomF s f (bits2 (.vcpys f) f fun a b => a % signBit f + b / signBit f % 2 * signBit f)

/-- The class code of an encoding (R164). -/
def classCode (g : Fmt) (x : Nat) : Nat :=
  let neg := x / 2 ^ (fmtBits g - 1) % 2 = 1
  match valueOf g x with
  | .nan => 0
  | .inf n => if n then 1 else 8
  | .num _ _ _ =>
    let ex := x / 2 ^ fracBits g % 2 ^ expBits g
    let fr := x % 2 ^ fracBits g
    if ex = 0 then (if fr = 0 then (if neg then 4 else 5) else if neg then 3 else 6) else if neg then 2 else 7

def execVcls (f : LForm) (s : State) : Host.Outcome State Fault Refusal := runLoomF s f (bits1 (.vcls f) f (classCode f.fmt))

/-! ### Compare and select (06 R165, R166) -/

/-- All ones or all zeros in the format's width. -/
def maskOf (g : Fmt) (b : Bool) : Nat := if b then 2 ^ fmtBits g - 1 else 0

def cmpBody (i : Instr) (f : LForm) (fn : Bool → Bool → Bool) (s : State) : Res :=
  bits2 i f (fun a b => maskOf f.fmt (fn (totalLess a b f.fmt) (totalLess b a f.fmt))) s

def execVcmpEq (f : LForm) (s : State) : Host.Outcome State Fault Refusal := runLoomF s f (cmpBody (.vcmpEq f) f fun l g => !l && !g)

def execVcmpNe (f : LForm) (s : State) : Host.Outcome State Fault Refusal := runLoomF s f (cmpBody (.vcmpNe f) f fun l g => l || g)

def execVcmpLt (f : LForm) (s : State) : Host.Outcome State Fault Refusal := runLoomF s f (cmpBody (.vcmpLt f) f fun l _ => l)

def execVcmpLe (f : LForm) (s : State) : Host.Outcome State Fault Refusal := runLoomF s f (cmpBody (.vcmpLe f) f fun _ g => !g)

def execVcmpGt (f : LForm) (s : State) : Host.Outcome State Fault Refusal := runLoomF s f (cmpBody (.vcmpGt f) f fun _ g => g)

def execVcmpGe (f : LForm) (s : State) : Host.Outcome State Fault Refusal := runLoomF s f (cmpBody (.vcmpGe f) f fun l _ => !l)

/-- Element `e` of register `k` with no window, in a format's width. -/
def flatElem (c : Ctx) (k wb e : Nat) : Nat := vBits (getV c k) (flatBit c.loom.shape wb e) wb

def execVsel (f : LForm) (s : State) : Host.Outcome State Fault Refusal :=
  runLoomF s f fun s =>
    let c := getCtx s (me s)
    if fmtBits f.fmt > 8 * shW c.loom.shape then .trap 0x01 (parcel0 (.vsel f))
    else
      readsLocs s (opndLocs c.loom.shape (.vreg (Fin.ofNat 16 (modBits f 0 4)) 0 0 0) (active c f) (fmtBits f.fmt)) <| ewBody (.vsel f) f [(f.a, f.fmt), (f.b, f.fmt)] f.fmt false
        (fun e vs => if flatElem c (modBits f 0 4) (fmtBits f.fmt) e ≠ 0 then vs.getD 0 0 else vs.getD 1 0) s

/-! ### Logic and shifts (06 R167) -/

def execVand (f : LForm) (s : State) : Host.Outcome State Fault Refusal := runLoomF s f (bits2 (.vand f) f fun a b => a &&& b)

def execVor (f : LForm) (s : State) : Host.Outcome State Fault Refusal := runLoomF s f (bits2 (.vor f) f fun a b => a ||| b)

def execVxor (f : LForm) (s : State) : Host.Outcome State Fault Refusal := runLoomF s f (bits2 (.vxor f) f fun a b => a ^^^ b)

def execVnot (f : LForm) (s : State) : Host.Outcome State Fault Refusal :=
  runLoomF s f (bits1 (.vnot f) f fun a => 2 ^ fmtBits f.fmt - 1 - a)

def execVshl (f : LForm) (s : State) : Host.Outcome State Fault Refusal :=
  runLoomF s f (bits2 (.vshl f) f fun a b => if b ≥ fmtBits f.fmt then 0 else a * 2 ^ b % 2 ^ fmtBits f.fmt)

def execVshr (f : LForm) (s : State) : Host.Outcome State Fault Refusal :=
  runLoomF s f (bits2 (.vshr f) f fun a b => if b ≥ fmtBits f.fmt then 0 else a / 2 ^ b)

def execVsha (f : LForm) (s : State) : Host.Outcome State Fault Refusal :=
  runLoomF s f (bits2 (.vsha f) f fun a b =>
    wrapInt (fmtBits f.fmt) (sintOf (fmtBits f.fmt) a / ((2 ^ min b (fmtBits f.fmt) : Nat) : Int)))

/-! ### Integers (06 R168) -/

/-- An exact integer result kept modulo 2^w, or clamped. -/
def intResult (g : Fmt) (sat : Bool) (v : Int) : Nat := wrapInt (fmtBits g) (if sat then clampInt (intMin g) (intMax g) v else v)

def int2 (i : Instr) (f : LForm) (fn : Int → Int → Int) (s : State) : Res :=
  bits2 i f (fun a b => intResult f.fmt f.sat (fn (intValue f.fmt a) (intValue f.fmt b))) s

def execViadd (f : LForm) (s : State) : Host.Outcome State Fault Refusal := runLoomF s f (int2 (.viadd f) f fun a b => a + b)

def execVisub (f : LForm) (s : State) : Host.Outcome State Fault Refusal := runLoomF s f (int2 (.visub f) f fun a b => a - b)

def execVimul (f : LForm) (s : State) : Host.Outcome State Fault Refusal := runLoomF s f (int2 (.vimul f) f fun a b => a * b)

/-! ### Conversion and quantisation (06 R169 to R171) -/

/-- The source format in the modifier. -/
def srcFmt (f : LForm) : Fmt := (fmtOf (modBits f 0 4)).getD .fp32

def nanOpt (f : LForm) : Bool := modBits f 14 1 == 1

def execVcvt (f : LForm) (s : State) : Host.Outcome State Fault Refusal :=
  runLoomF s f fun s =>
    let c := getCtx s (me s)
    ewBody (.vcvt f) f [(f.a, srcFmt f)] f.fmt true
      (fun e vs => convert (srcFmt f) f.fmt f.rnd f.sat (nanOpt f) (loomSr c e) (vs.getD 0 0)) s

/-- The exponent of a format's largest finite value (R170). -/
def emax : Fmt → Nat
  | .e4m3 => 8
  | .e5m2 => 15
  | .ps8 => 1
  | .hs4 => 2
  | .hs8 => 6
  | _ => 0

/-- The scale of a block (R170). -/
def blockScale (g : Fmt) (xs : List FNum) : Nat :=
  if xs.any fun x => match x with | .num _ _ _ => false | _ => true then 0xFF
  else
    let a := xs.foldl (fun m x => match x with | .num _ a _ => max m a | _ => m) 0
    if a = 0 then 0 else (clampInt 0 254 ((Nat.log2 a : Int) - uexp - emax g + 127)).toNat

/-- A value times 2^k. -/
def scaleNum (x : FNum) (k : Int) : FNum :=
  match x with
  | .num n a t => if 0 ≤ k then .num n (a <<< k.toNat) t else .num n (a >>> (-k).toNat) (t || (a % 2 ^ (-k).toNat != 0))
  | y => y

/-- Active elements of block `k` of row `i`. -/
def blockEls (cols n i k : Nat) : List Nat := ((List.range 32).map fun j => i * cols + 32 * k + j).filter fun e => e < n

/-- The blocks of a shape with an active element, as row and block, in ascending flat order. -/
def blocksOf (rows cols n : Nat) : List (Nat × Nat) :=
  ((List.range rows).flatMap fun i => (List.range (cols / 32)).map fun k => (i, k)).filter fun b => b.1 * cols + 32 * b.2 < n

def execVqnt (f : LForm) (s : State) : Host.Outcome State Fault Refusal :=
  runLoomF s f fun s =>
    let c := getCtx s (me s)
    let sh := c.loom.shape
    let n := active c f
    let g := srcFmt f
    if shCols sh % 32 ≠ 0 then .trap 0x01 (parcel0 (.vqnt f))
    else
      let bl := blocksOf (shRows sh) (shCols sh) n
      loomFlow s (.vqnt f) [{ o := f.a, n := n, wb := fmtBits g, fmt := some g }]
        [{ o := f.d, wb := fmtBits f.fmt, fmt := some f.fmt, n := n }, { o := f.b, wb := 8, fmt := some .e8m0, n := bl.length }] none
        (beatsOf n (fmtBits g)) fun vs =>
          let val := fun e => valueOf g (lv vs 0 e)
          let sc := bl.map fun b => (b, blockScale f.fmt ((blockEls (shCols sh) n b.1 b.2).map val))
          let ds := sc.flatMap fun (b, k) => (blockEls (shCols sh) n b.1 b.2).map fun e =>
            (e, if k = 0xFF then nanRule f.fmt
                else roundOpt (scaleNum (val e) (127 - (k : Int))) f.fmt f.rnd f.sat (nanOpt f) (loomSr c e))
          { outs := [ds, sc.map fun (b, k) => (b.1 * shCols sh + b.2, k)], sr := srAdvances f n }

def execVdqt (f : LForm) (s : State) : Host.Outcome State Fault Refusal :=
  runLoomF s f fun s =>
    let c := getCtx s (me s)
    let sh := c.loom.shape
    let cols := shCols sh
    let n := active c f
    let g := srcFmt f
    if cols % 32 ≠ 0 then .trap 0x01 (parcel0 (.vdqt f))
    else
      let bl := blocksOf (shRows sh) cols n
      -- a scale register is read at flat index i × C + k; a stream gives one scale a block, in order
      let nb := match f.b with
        | .vreg _ _ _ _ => shN sh
        | _ => bl.length
      let at_ := fun (vs : List (List Nat)) (i k : Nat) => match f.b with
        | .vreg _ _ _ _ => lv vs 1 (i * cols + k)
        | _ => lv vs 1 (i * (cols / 32) + k)
      loomFlow s (.vdqt f)
        [{ o := f.a, n := n, wb := fmtBits g, fmt := some g }, { o := f.b, n := nb, wb := 8, fmt := some .e8m0 }]
        [{ o := f.d, wb := fmtBits f.fmt, fmt := some f.fmt, n := n }] none (beatsOf n (fmtBits f.fmt)) fun vs =>
          { outs := [(List.range n).map fun e =>
              let k := at_ vs (e / cols) (e % cols / 32)
              (e, if k = 0xFF then nanRule f.fmt
                  else roundTo (scaleNum (valueOf g (lv vs 0 e)) ((k : Int) - 127)) f.fmt f.rnd f.sat (loomSr c e))],
            sr := srAdvances f n }

end Sys2Proof.Machine
end

