-- ==== Sys2Proof/Machine/VecGroup.lean ====
section
/-!
DEFINITION. The Loom's reductions, scans, top-k, sort, arrangement, shape, moves, predicates, random numbers and control (06 R172 to R179,
R183 to R187).
-/
namespace Sys2Proof.Machine
open Sys2Proof

/-! ### Reductions and scans (06 R172, R173) -/

def grpLen (f : LForm) : Nat := 2 ^ modBits f 3 3

/-- The result format. -/
def redFmt (f : LForm) : Fmt := (fmtOf (modBits f 7 4)).getD .fp32

/-- Groups with an active element, as row and group, in ascending flat order. -/
def groupsOf (sh : Word) (g n : Nat) : List (Nat × Nat) :=
  ((List.range (shRows sh)).flatMap fun i => (List.range (shCols sh / g)).map fun k => (i, k)).filter fun b => b.1 * shCols sh + g * b.2 < n

/-- Active elements of a group. -/
def groupEls (sh : Word) (g n i k : Nat) : List Nat := ((List.range g).map fun j => i * shCols sh + g * k + j).filter fun e => e < n

/-- The sum of some encodings, an old result among the addends (R172). -/
def redSum (f : LForm) (r : Nat) (xs : List Nat) (old : Option Nat) : Nat :=
  let g := redFmt f
  if fmtIsInt f.fmt then
    let v := (xs.map (intValue f.fmt)).foldl (· + ·) (match old with | some o => intValue g o | none => 0)
    intResult g f.sat v
  else
    let addends := xs.map (valueOf f.fmt) ++ (match old with | some o => [valueOf g o] | none => [])
    if addends = [] then 0 else windowSum addends g f.rnd f.sat r

/-- The least or greatest of some encodings, the first of equals winning (R172). -/
def redPick (less : Nat → Nat → Bool) (xs : List Nat) : Nat :=
  match xs with
  | [] => 0
  | x :: t => t.foldl (fun m y => if less y m then y else m) x

/-- One group's result: `op` 0 sum, 1 minimum, 2 maximum. -/
def redOne (f : LForm) (op r : Nat) (xs : List Nat) (old : Option Nat) : Nat :=
  match op with
  | 0 => redSum f r xs old
  | 1 => redPick (fun a b => totalLess a b f.fmt) (old.toList ++ xs)
  | _ => redPick (fun a b => totalLess b a f.fmt) (old.toList ++ xs)

def redBody (i : Instr) (op : Nat) (f : LForm) (s : State) : Res :=
  let c := getCtx s (me s)
  let sh := c.loom.shape
  let g := grpLen f
  let n := active c f
  let gs := groupsOf sh g n
  let acc := modBits f 6 1 = 1
  let rw := fmtBits (redFmt f)
  let isCh := opndIsChan f.d
  if shCols sh % g ≠ 0 || (isCh && gs.length > 16) then .trap 0x01 (parcel0 i)
  else
    let src : LIn := { o := f.a, n := n, wb := fmtBits f.fmt, fmt := some f.fmt }
    let old : List LIn := if acc then [{ o := f.d, n := shN sh, wb := rw, fmt := some (redFmt f) }] else []
    let push := match f.d with
      | .chan m _ => some (m.val, gs.length)
      | _ => none
    loomFlow s i (src :: old) [{ o := if isCh then .const 0 else f.d, wb := rw, fmt := some (redFmt f), n := gs.length }] push
      (beatsOf n (max rw (fmtBits f.fmt))) fun vs =>
        let rs := gs.map fun (a, k) =>
          let e := a * shCols sh + k
          (e, redOne f op (loomSr c e) ((groupEls sh g n a k).map fun x => lv vs 0 x) (if acc then some (lv vs 1 e) else none))
        { outs := [if isCh then [] else rs], push := if isCh then rs.map fun r => w64 r.2 else [], sr := srAdvances f n }

def execVredSum (f : LForm) (s : State) : Host.Outcome State Fault Refusal := runLoomF s f (redBody (.vredSum f) 0 f)

def execVredMin (f : LForm) (s : State) : Host.Outcome State Fault Refusal := runLoomF s f (redBody (.vredMin f) 1 f)

def execVredMax (f : LForm) (s : State) : Host.Outcome State Fault Refusal := runLoomF s f (redBody (.vredMax f) 2 f)

def scanBody (i : Instr) (op : Nat) (f : LForm) (s : State) : Res :=
  let c := getCtx s (me s)
  let sh := c.loom.shape
  let g := grpLen f
  let n := active c f
  let excl := modBits f 6 1 = 1
  let rw := fmtBits (redFmt f)
  if shCols sh % g ≠ 0 then .trap 0x01 (parcel0 i)
  else
    loomFlow s i [{ o := f.a, n := n, wb := fmtBits f.fmt, fmt := some f.fmt }]
      [{ o := f.d, wb := rw, fmt := some (redFmt f), n := n }] none (beatsOf n (max rw (fmtBits f.fmt))) fun vs =>
        { outs := [(List.range n).map fun e =>
            let j := e % shCols sh % g
            let xs := (List.range (if excl then j else j + 1)).map fun k => lv vs 0 (e - j + k)
            (e, redOne f op (loomSr c e) xs none)]
          sr := srAdvances f n }

def execVscanSum (f : LForm) (s : State) : Host.Outcome State Fault Refusal := runLoomF s f (scanBody (.vscanSum f) 0 f)

def execVscanMin (f : LForm) (s : State) : Host.Outcome State Fault Refusal := runLoomF s f (scanBody (.vscanMin f) 1 f)

def execVscanMax (f : LForm) (s : State) : Host.Outcome State Fault Refusal := runLoomF s f (scanBody (.vscanMax f) 2 f)

/-! ### Top-k and sort (06 R174) -/

/-- A candidate: encoding, global index, place. -/
abbrev Cand := Nat × Nat × Nat

def candBefore (g : Fmt) (asc : Bool) (x y : Cand) : Bool :=
  if totalLess x.1 y.1 g then asc
  else if totalLess y.1 x.1 g then !asc
  else if x.2.1 ≠ y.2.1 then x.2.1 < y.2.1
  else x.2.2 ≤ y.2.2

/-- The candidates in order. -/
def mergeCands (before : Cand → Cand → Bool) (xs : List Cand) : List Cand := sortBy before xs

def sortBody (i : Instr) (topk : Bool) (f : LForm) (s : State) : Res :=
  let w := me s
  let c := getCtx s w
  let sh := c.loom.shape
  let n := active c f
  let wb := fmtBits f.fmt
  let vg := match f.b with
    | .const k => getVg c k.val
    | _ => 0
  let ix := opndLocs sh (.vreg (Fin.ofNat 16 (modBits f 0 4)) 0 0 0) n 32
  if shW sh ≠ 4 then .trap 0x01 (parcel0 i)
  else
    readsLocs s (constLocs [f.b] ++ if modBits f 8 1 = 1 then ix else []) <| loomFlow s i [{ o := f.a, n := n, wb := wb, fmt := some f.fmt }] [{ o := f.d, wb := wb, fmt := some f.fmt, n := 0 }] none
      (beatsOf n (max wb 32)) fun vs =>
        let idx := fun e => if modBits f 8 1 = 1 then flatElem c (modBits f 0 4) 32 e else (bits vg 0 32 + e) % 2 ^ 32
        let cs := mergeCands (candBefore f.fmt (modBits f 9 1 == 1)) ((List.range n).map fun e => (lv vs 0 e, idx e, e))
        let q := if topk then cs.take (bits vg 48 16) else cs
        { outs := [q.mapIdx fun e x => (e, x.1)], regs := [(modBits f 4 4, 32, q.mapIdx fun e x => (flatBit sh 32 e, x.2.1))] }

def execVtopk (f : LForm) (s : State) : Host.Outcome State Fault Refusal := runLoomF s f (sortBody (.vtopk f) true f)

def execVsort (f : LForm) (s : State) : Host.Outcome State Fault Refusal := runLoomF s f (sortBody (.vsort f) false f)

/-! ### Arrangement (06 R175 to R177) -/

/-- The register of a class 0 operand. -/
def opndReg : LOpnd → Nat
  | .vreg x _ _ _ => x.val
  | _ => 0

/-- The shape with rows and columns exchanged. -/
def shTrans (sh : Word) : Word := w64 (bits sh 32 2 * 2 ^ 32 + shRows sh * 2 ^ 16 + shCols sh)

def execVtrn (f : LForm) (s : State) : Host.Outcome State Fault Refusal :=
  runLoomF s f fun s =>
    let c := getCtx s (me s)
    let sh := c.loom.shape
    let wb := fmtBits f.fmt
    if !(shapeValid (shTrans sh)) then .trap 0x01 (parcel0 (.vtrn f))
    else
      loomFlow s (.vtrn f) [{ o := f.a, n := shN sh, wb := wb, fmt := some f.fmt }] [{ o := f.d, wb := wb, fmt := some f.fmt, n := 0 }]
        none (beatsOf (shN sh) wb) fun vs =>
          { outs := [[]]
            regs := [(opndReg f.d, wb, (List.range (shN sh)).map fun e =>
              (flatBit (shTrans sh) wb (e % shCols sh * shRows sh + e / shCols sh), lv vs 0 e))] }

def execVperm (f : LForm) (s : State) : Host.Outcome State Fault Refusal :=
  runLoomF s f fun s =>
    let c := getCtx s (me s)
    let sh := c.loom.shape
    let n := active c f
    let wb := fmtBits f.fmt
    let ix := srcFmt { f with modf := f.modf &&& 0xF }
    loomFlow s (.vperm f)
      [{ o := f.a, n := shN sh, wb := wb, fmt := some f.fmt }, { o := f.b, n := n, wb := fmtBits ix, fmt := some ix }]
      [{ o := f.d, wb := wb, fmt := some f.fmt, n := n }] none (beatsOf (shN sh) (max wb (fmtBits ix))) fun vs =>
        { outs := [(List.range n).map fun e =>
            let x := lv vs 1 e
            (e, lv vs 0 (if modBits f 4 1 = 1 then x % shN sh else e / shCols sh * shCols sh + x % shCols sh))] }

/-- VBCST: `pick` names the element of A that goes to element (i, j); `cnt` elements of A are read. -/
def bcstBody (i : Instr) (f : LForm) (cnt : Nat → Nat) (pick : Nat → Nat → Nat) (s : State) : Res :=
  let c := getCtx s (me s)
  let sh := c.loom.shape
  let n := active c f
  let wb := fmtBits f.fmt
  loomFlow s i [{ o := f.a, n := if n = 0 then 0 else cnt (shN sh), wb := wb, fmt := some f.fmt }]
    [{ o := f.d, wb := wb, fmt := some f.fmt, n := n }] none (beatsOf n wb) fun vs =>
      { outs := [(List.range n).map fun e => (e, lv vs 0 (pick (e / shCols sh) (e % shCols sh)))] }

def execVbcst (f : LForm) (s : State) : Host.Outcome State Fault Refusal :=
  runLoomF s f (bcstBody (.vbcst f) f (fun _ => 1) fun _ _ => 0)

def execVbcstRow (f : LForm) (s : State) : Host.Outcome State Fault Refusal :=
  runLoomF s f (bcstBody (.vbcstRow f) f id fun _ j => j)

def execVbcstColumn (f : LForm) (s : State) : Host.Outcome State Fault Refusal :=
  runLoomF s f fun s => bcstBody (.vbcstColumn f) f id (fun i _ => i * shCols (getCtx s (me s)).loom.shape) s

/-! ### Shape and moves (06 R178, R179) -/

/-- VSHAPE: a shape that is not valid raises 0x01. -/
def shapeBody (i : Instr) (v : Word) (s : State) : Res :=
  if shapeValid v then .ok (modCtx s (me s) fun c => { c with loom := { c.loom with shape := v }, errs := mend c .shape }) .seq else .trap 0x01 (parcel0 i)

/-- The vg register of a class 3 operand. -/
def constVal (c : Ctx) : LOpnd → Word
  | .const k => getVg c k.val
  | _ => 0

def execVshape (f : LForm) (s : State) : Host.Outcome State Fault Refusal :=
  runLoom s fun s => readsLocs s (constLocs [f.a]) (shapeBody (.vshape f) (constVal (getCtx s (me s)) f.a) s)

def execVshapeImmediate (f : LForm) (s : State) : Host.Outcome State Fault Refusal :=
  runLoom s (shapeBody (.vshapeImmediate f) (w64 (modBits f 8 2 * 2 ^ 32 + 2 ^ modBits f 4 4 * 2 ^ 16 + 2 ^ modBits f 0 4)))

def execVmov (f : LForm) (s : State) : Host.Outcome State Fault Refusal := runLoomF s f (bits1 (.vmov f) f id)

def execVmovS (f : LForm) (s : State) : Host.Outcome State Fault Refusal :=
  runLoomF s f fun s =>
    let whole := opndIsChan f.a || opndIsConst f.a
    let wb := if whole then 64 else fmtBits f.fmt
    loomFlow s (.vmovS f) [{ o := f.a, n := 1, wb := wb, fmt := some f.fmt }] [] none 0 fun vs =>
      let v := lv vs 0 0
      { vg := [(opndReg f.d, if !whole && fmtIsSigned f.fmt then BitVec.ofInt 64 (sintOf wb v) else w64 v)] }

def execVmovI (f : LForm) (s : State) : Host.Outcome State Fault Refusal :=
  runLoom s fun s =>
    readsLocs s (constLocs [f.a]) <| .ok (modCtx s (me s) fun c => setVg c (opndReg f.d) (constVal c f.a + (f.modf.extractLsb' 2 13).signExtend 64)) .seq

def execVmovQ (f : LForm) (s : State) : Host.Outcome State Fault Refusal :=
  runLoom s fun s =>
    let n := match f.d with
      | .chan m _ => m.val
      | _ => 0
    readsLocs s (constLocs [f.a]) <| loomFlow s (.vmovQ f) [] [] (some (n, 1)) 0 fun _ => { push := [constVal (getCtx s (me s)) f.a] }

/-! ### Predicates and random numbers (06 R183, R184) -/

def setPred (s : State) (t v : Nat) : State :=
  modCtx s (me s) fun c => setP c t v

def predT (f : LForm) : Nat := modBits f 0 3

def execVpred (f : LForm) (s : State) : Host.Outcome State Fault Refusal :=
  runLoom s fun s => readsLocs s (constLocs [f.a]) <| .ok (setPred s (predT f) (min (constVal (getCtx s (me s)) f.a).toNat 65535)) .seq

def execVpredMin (f : LForm) (s : State) : Host.Outcome State Fault Refusal :=
  runLoomF s f fun s =>
    let c := getCtx s (me s)
    readsLocs s (constLocs [f.a]) <| .ok (setPred s (predT f) (min (predRaw c f.pred.val (shN c.loom.shape)) (min (constVal c f.a).toNat 65535))) .seq

def execVpredZero (f : LForm) (s : State) : Host.Outcome State Fault Refusal :=
  runLoomF s f fun s =>
    let c := getCtx s (me s)
    let n := active c f
    loomFlow s (.vpredZero f) [{ o := f.a, n := n, wb := fmtBits f.fmt, fmt := some f.fmt }] [] none 0 fun vs =>
      { preds := [(predT f, ((List.range n).find? fun e => lv vs 0 e == 0).getD n)] }

/-- The element that VRAND takes from a KMIX-6 value (R184). -/
def randElem (g : Fmt) (u : Nat) : Nat :=
  let frac := fun (m k : Nat) => roundTo (.num false (unitsOf m (-(k : Int))) false) g .rne false 0
  match g with
  | .u32 => u
  | .i32 => u
  | .u16 => u / 2 ^ 16
  | .i16 => u / 2 ^ 16
  | .u8 => u / 2 ^ 24
  | .i8 => u / 2 ^ 24
  | .fp32 => frac (u / 2 ^ 8) 24
  | .fp16 => frac (u / 2 ^ 21) 11
  | .bf16 => frac (u / 2 ^ 24) 8
  | _ => 0

def execVrand (f : LForm) (s : State) : Host.Outcome State Fault Refusal :=
  runLoomF s f fun s =>
    let c := getCtx s (me s)
    let n := active c f
    let key := constVal c f.a
    let ctr := constVal c f.b
    let k := match f.b with
      | .const k => k.val
      | _ => 0
    readsLocs s (constLocs [f.a, f.b]) <| loomFlow s (.vrand f) [] [{ o := f.d, wb := fmtBits f.fmt, fmt := some f.fmt, n := n }] none (beatsOf n (fmtBits f.fmt))
      fun _ =>
        { outs := [(List.range n).map fun e => (e, randElem f.fmt (kmix6 key ctr (w64 e)).toNat)]
          vg := if n = 0 then [] else [(k, ctr + 1)] }

/-! ### Stream control (06 R185 to R187) -/

/-- The offset in the modifier, in bytes. -/
def vOff (f : LForm) : Word := f.modf.signExtend 64 * 12

def execVloop (f : LForm) (s : State) : Host.Outcome State Fault Refusal :=
  runLoom s fun s =>
    let c := getCtx s (me s)
    let n := constVal c f.a
    let pc := c.loom.pc
    readsLocs s (constLocs [f.a]) <|
    if n = 0 then .ok s (.skip (pc + vOff f + 12))
    else if c.loom.loops.length ≥ 4 then .trap 0x01 (parcel0 (.vloop f))
    else .ok (setCtx s (me s) (setLoops c .loom ({ start := pc + 12, last := pc + vOff f, count := n } :: c.loom.loops))) .seq

def vbrBody (k : Cond) (f : LForm) (s : State) : Res :=
  let c := getCtx s (me s)
  let t := c.loom.pc + vOff f
  readsLocs s (constLocs [f.a, f.b]) <|
  if condHolds k (constVal c f.a) (constVal c f.b) then (if canonical t then .ok s (.jump t) else .trap 0x04 t) else .ok s .seq

def execVbrEq (f : LForm) (s : State) : Host.Outcome State Fault Refusal := runLoom s (vbrBody .eq f)

def execVbrNe (f : LForm) (s : State) : Host.Outcome State Fault Refusal := runLoom s (vbrBody .ne f)

def execVbrLt (f : LForm) (s : State) : Host.Outcome State Fault Refusal := runLoom s (vbrBody .lt f)

def execVbrGe (f : LForm) (s : State) : Host.Outcome State Fault Refusal := runLoom s (vbrBody .ge f)

def execVbrLtu (f : LForm) (s : State) : Host.Outcome State Fault Refusal := runLoom s (vbrBody .ltu f)

def execVbrGeu (f : LForm) (s : State) : Host.Outcome State Fault Refusal := runLoom s (vbrBody .geu f)

/-- VRDV (01 R24). -/
def execVrdv (s : State) : Host.Outcome State Fault Refusal := runLoom s fun _ => .wait 7 0 0

/-- VEXIT (01 R26). -/
def execVexit (s : State) : Host.Outcome State Fault Refusal := runLoom s fun s => .exit s

end Sys2Proof.Machine
end

