-- ==== Sys2Proof/Machine/VecMem.lean ====
section
/-!
DEFINITION. The Loom's scratchpad and global accesses: VLD, VST, VGTH, VSCT, VLDFF (06 R180 to R182).
-/
namespace Sys2Proof.Machine
open Sys2Proof

/-- The base of a memory instruction. -/
def memBase (c : Ctx) (f : LForm) : Nat := (getVg c (modBits f 0 4)).toNat

/-- The format of an index register (R181). -/
def ixFmt (f : LForm) : Nat × Bool := if modBits f 4 2 = 0 then (16, false) else if modBits f 4 2 = 1 then (32, false) else (32, true)

/-- The address of an element by its index: base + x × wf ÷ 8, modulo 2^64. -/
def ixAddr (f : LForm) (base x wb : Nat) : Nat :=
  let m := (ixFmt f).1
  if (ixFmt f).2 && x ≥ 2 ^ (m - 1) then (base + 2 ^ 64 - (2 ^ m - x) * wb / 8) % 2 ^ 64 else (base + x * wb / 8) % 2 ^ 64

/-- The first element that is misaligned; where none is, the first outside the scratchpad or the context's ways (R180, R181). -/
def offsFault (c : Ctx) (wb : Nat) (offs : List Nat) : Option (Nat × Nat) :=
  match offs.find? fun o => o % ((wb + 7) / 8) ≠ 0 with
  | some o => some (0x03, o)
  | none => offs.findSome? fun o => (badOffset c o ((wb + 7) / 8)).map fun b => (0x04, b)

/-- Read elements as `m` says into D. -/
def vecRead (s : State) (i : Instr) (f : LForm) (wb : Nat) (beats : Nat) (m : LMem) : Res :=
  loomMem s i [] [{ o := f.d, wb := wb, fmt := some f.fmt, n := m.rd.length }] none beats m fun vs =>
    { outs := [(vs.headD []).mapIdx fun e v => (e, v)] }

/-- Write the elements of A as `m` says. -/
def vecWrite (s : State) (i : Instr) (f : LForm) (wb : Nat) (beats : Nat) (m : LMem) : Res :=
  loomMem s i [{ o := f.a, n := m.wr.length, wb := wb, fmt := some f.fmt }] [] none beats m fun vs => { mem := vs.headD [] }

/-- The checks of a contiguous access of `n` elements at `o`: alignment, then range. -/
def contigFault (c : Ctx) (wb o n : Nat) : Option (Nat × Nat) :=
  if o % ((wb + 7) / 8) ≠ 0 then some (0x03, o)
  else if n = 0 then none
  else (badOffset c o ((n * wb + 7) / 8)).map fun b => (0x04, b)

/-- The bit positions of `n` elements from offset `o` up. -/
def contigPos (wb o n : Nat) : List Nat := (List.range n).map fun e => o * 8 + e * wb

def execVld (f : LForm) (s : State) : Host.Outcome State Fault Refusal :=
  runLoomF s f fun s =>
    let c := getCtx s (me s)
    let wb := fmtBits f.fmt
    let n := active c f
    readsLocs s [.vg (modBits f 0 4)] <| vecRead s (.vld f) f wb (beatsOf n wb)
      { rd := contigPos wb (memBase c f) n, wb := wb, paz := modBits f 6 1 == 1, bad := contigFault c wb (memBase c f) n }

def execVst (f : LForm) (s : State) : Host.Outcome State Fault Refusal :=
  runLoomF s f fun s =>
    let c := getCtx s (me s)
    let wb := fmtBits f.fmt
    let n := active c f
    readsLocs s [.vg (modBits f 0 4)] <| vecWrite s (.vst f) f wb (beatsOf n wb) { wr := contigPos wb (memBase c f) n, wb := wb, bad := contigFault c wb (memBase c f) n }

/-- The addresses of the active elements by an index register. -/
def ixAddrs (s : State) (f : LForm) (ix : LOpnd) (n wb : Nat) : List Nat :=
  let c := getCtx s (me s)
  (inVals s (me s) c.loom.shape { o := ix, n := n, wb := (ixFmt f).1, fmt := none } none).map fun x => ixAddr f (memBase c f) x wb

/-- The places that hold an instruction's base and indices. -/
def ixLocs (c : Ctx) (f : LForm) (ix : LOpnd) : List Loc :=
  .vg (modBits f 0 4) :: opndLocs c.loom.shape ix (active c f) (ixFmt f).1

/-- The beats of `n` elements that an index register selects (R162). -/
def ixBeats (f : LForm) (n : Nat) : Nat := beatsOf n (max (fmtBits f.fmt) (ixFmt f).1)

def execVgth (f : LForm) (s : State) : Host.Outcome State Fault Refusal :=
  runLoomF s f fun s =>
    let c := getCtx s (me s)
    let wb := fmtBits f.fmt
    let offs := ixAddrs s f f.a (active c f) wb
    if !(opndFits c.loom.shape f.a (ixFmt f).1) then .trap 0x01 (parcel0 (.vgth f))
    else
      readsLocs s (ixLocs c f f.a) <| vecRead s (.vgth f) f wb (ixBeats f offs.length)
        { rd := offs.map (8 * ·), wb := wb, paz := modBits f 6 1 == 1, bad := offsFault c wb offs }

def execVsct (f : LForm) (s : State) : Host.Outcome State Fault Refusal :=
  runLoomF s f fun s =>
    let c := getCtx s (me s)
    let wb := fmtBits f.fmt
    let offs := ixAddrs s f f.b (active c f) wb
    if !(opndFits c.loom.shape f.b (ixFmt f).1) then .trap 0x01 (parcel0 (.vsct f))
    else readsLocs s (ixLocs c f f.b) <| vecWrite s (.vsct f) f wb (ixBeats f offs.length) { wr := offs.map (8 * ·), wb := wb, bad := offsFault c wb offs }

/-! ### VLDFF (R182) -/

/-- One element of a first-fault gather: its value, or its cause with the state in which the error was met. -/
def ffElem (s : State) (paz : Bool) (wb a : Nat) : State × Except Nat Nat :=
  let w := me s
  let n := wb / 8
  if a % n ≠ 0 then (s, .error 0x03)
  else
    match translate s w.die (.core w.core) (getCtx s w).dbg.xctx (w64 a) with
    | (s, none) => (s, .error 0x04)
    | (s, some l) =>
      if !(pteRD l.pte) then (s, .error 0x05)
      else
        let x := mkAcc w .load (w64 a) n l
        match accRead s { x with pz := x.pz || paz } true with
        | (s, .ok bs) => (s, .ok (leNat bs))
        | (s, .error c) => (s, .error c)

/-- The elements in flat order up to the first that fails: their values, and its cause and address. -/
def ffRun (paz : Bool) (wb : Nat) : List Nat → State → State × List Nat × Option (Nat × Nat)
  | [], s => (s, [], none)
  | a :: t, s =>
    match ffElem s paz wb a with
    | (s, .error c) => (s, [], some (c, a))
    | (s, .ok v) =>
      let r := ffRun paz wb t s
      (r.1, v :: r.2.1, r.2.2)

/-- The first watched byte of some global addresses: the lowest. -/
def watchAddrs (c : Ctx) (as : List Nat) (n : Nat) : Option Nat :=
  if c.dbg.wpb = [] then none
  else as.foldl (fun m a =>
    match watchHit c false false .read a n, m with
    | some x, some y => some (min x y)
    | some x, none => some x
    | none, m => m) none

/-- VLDFF (R182).  A stream destination waits for and is checked over every active element; it takes those that are written. -/
def execVldff (f : LForm) (s : State) : Host.Outcome State Fault Refusal :=
  runLoomF s f fun s =>
    let w := me s
    let c := getCtx s w
    let wb := fmtBits f.fmt
    let as := ixAddrs s f f.a (active c f) wb
    let out : LOut := { o := f.d, wb := wb, fmt := some f.fmt, n := as.length }
    if !(opndFits c.loom.shape f.a (ixFmt f).1) then .trap 0x01 (parcel0 (.vldff f))
    else
      readsLocs s (ixLocs c f f.a) <| loomWaits s (.vldff f) [] [out] none fun _ oks fulls empties =>
        let wk := oks.filterMap id
        let wrs := posSectors (wk.flatMap fun k => k.els.map Prod.snd)
        loomRange s (.vldff f) (wk.map Walk1.ix) [] wrs
          (sensed s (sectorTiles wrs) (if !(leavesTurn s w [] wk 1) ||
              as.any (fun a => a % (wb / 8) == 0 && xlWaits s w.die (.core w.core) c.dbg.xctx (w64 a)) then .hold else
           let r := ffRun (modBits f 6 1 == 1) wb as s
           let n := r.2.1.length
           match n, r.2.2 with
           | 0, some (cause, a) => .found r.1 cause (w64 a)
           | _, fail =>
             let oks := oks.map (Option.map fun k => { k with els := k.els.take n })
             let s' := loomCommit (tagsObserved r.1 w 1 fulls empties) w c.loom.shape [] [] [{ out with n := n }] oks none
               { outs := [r.2.1.mapIdx fun e v => (e, v)], preds := if fail.isSome then [(f.pred.val, n)] else [] }
             loomEnd s s' (ixBeats f as.length) ((watchAddrs c (as.take n) (wb / 8)).orElse fun _ => walksWatch c [] oks {})))

end Sys2Proof.Machine
end

