-- ==== Sys2Proof/Machine/Dispatch.lean ====
section
/-!
DEFINITION. The dispatch: one arm for each constructor of `Instr`, each a call of its meaning.
-/
namespace Sys2Proof.Machine
open Sys2Proof

def exec (i : Instr) (s : State) : Host.Outcome State Fault Refusal :=
  match i with
  | .add d a b => Sys2Proof.Machine.execAdd d a b s
  | .sub d a b => Sys2Proof.Machine.execSub d a b s
  | .and d a b => Sys2Proof.Machine.execAnd d a b s
  | .or d a b => Sys2Proof.Machine.execOr d a b s
  | .xor d a b => Sys2Proof.Machine.execXor d a b s
  | .shl d a b => Sys2Proof.Machine.execShl d a b s
  | .shr d a b => Sys2Proof.Machine.execShr d a b s
  | .sha d a b => Sys2Proof.Machine.execSha d a b s
  | .slt d a b => Sys2Proof.Machine.execSlt d a b s
  | .sltu d a b => Sys2Proof.Machine.execSltu d a b s
  | .min d a b => Sys2Proof.Machine.execMin d a b s
  | .max d a b => Sys2Proof.Machine.execMax d a b s
  | .minu d a b => Sys2Proof.Machine.execMinu d a b s
  | .maxu d a b => Sys2Proof.Machine.execMaxu d a b s
  | .sel d a b => Sys2Proof.Machine.execSel d a b s
  | .mul d a b => Sys2Proof.Machine.execMul d a b s
  | .mulh d a b => Sys2Proof.Machine.execMulh d a b s
  | .mulhu d a b => Sys2Proof.Machine.execMulhu d a b s
  | .div d a b => Sys2Proof.Machine.execDiv d a b s
  | .divu d a b => Sys2Proof.Machine.execDivu d a b s
  | .rem d a b => Sys2Proof.Machine.execRem d a b s
  | .remu d a b => Sys2Proof.Machine.execRemu d a b s
  | .clz d a => Sys2Proof.Machine.execClz d a s
  | .ctz d a => Sys2Proof.Machine.execCtz d a s
  | .popc d a => Sys2Proof.Machine.execPopc d a s
  | .addi d a xi => Sys2Proof.Machine.execAddi d a xi s
  | .andi d a xi => Sys2Proof.Machine.execAndi d a xi s
  | .ori d a xi => Sys2Proof.Machine.execOri d a xi s
  | .xori d a xi => Sys2Proof.Machine.execXori d a xi s
  | .shli d a xi => Sys2Proof.Machine.execShli d a xi s
  | .shri d a xi => Sys2Proof.Machine.execShri d a xi s
  | .shai d a xi => Sys2Proof.Machine.execShai d a xi s
  | .slti d a xi => Sys2Proof.Machine.execSlti d a xi s
  | .bfx d a p wd => Sys2Proof.Machine.execBfx d a p wd s
  | .bfi d a p wd => Sys2Proof.Machine.execBfi d a p wd s
  | .lui d xi => Sys2Proof.Machine.execLui d xi s
  | .auipc d xi => Sys2Proof.Machine.execAuipc d xi s
  | .bEq a b xi => Sys2Proof.Machine.execBEq a b xi s
  | .bNe a b xi => Sys2Proof.Machine.execBNe a b xi s
  | .bLt a b xi => Sys2Proof.Machine.execBLt a b xi s
  | .bGe a b xi => Sys2Proof.Machine.execBGe a b xi s
  | .bLtu a b xi => Sys2Proof.Machine.execBLtu a b xi s
  | .bGeu a b xi => Sys2Proof.Machine.execBGeu a b xi s
  | .j xi => Sys2Proof.Machine.execJ xi s
  | .jal d xi => Sys2Proof.Machine.execJal d xi s
  | .jr a xi => Sys2Proof.Machine.execJr a xi s
  | .jalr d a xi => Sys2Proof.Machine.execJalr d a xi s
  | .loop a xi => Sys2Proof.Machine.execLoop a xi s
  | .rdv => Sys2Proof.Machine.execRdv s
  | .exit => Sys2Proof.Machine.execExit s
  | .nop => Sys2Proof.Machine.execNop s
  | .chcfg n b => Sys2Proof.Machine.execChcfg n b s
  | .chcnt d n => Sys2Proof.Machine.execChcnt d n s
  | .sbw m => Sys2Proof.Machine.execSbw m s
  | .ldl d b o xs => Sys2Proof.Machine.execLdl d b o xs s
  | .stl x b o xs => Sys2Proof.Machine.execStl x b o xs s
  | .spl x b o xs => Sys2Proof.Machine.execSpl x b o xs s
  | .fil d b o xs => Sys2Proof.Machine.execFil d b o xs s
  | .ld d b o k xs => Sys2Proof.Machine.execLd d b o k xs s
  | .ldNt d b o k xs => Sys2Proof.Machine.execLdNt d b o k xs s
  | .st x b o k xs => Sys2Proof.Machine.execSt x b o k xs s
  | .stNt x b o k xs => Sys2Proof.Machine.execStNt x b o k xs s
  | .ldq n b o k xs => Sys2Proof.Machine.execLdq n b o k xs s
  | .atomAdd d a b z => Sys2Proof.Machine.execAtomAdd d a b z s
  | .atomSub d a b z => Sys2Proof.Machine.execAtomSub d a b z s
  | .atomAnd d a b z => Sys2Proof.Machine.execAtomAnd d a b z s
  | .atomOr d a b z => Sys2Proof.Machine.execAtomOr d a b z s
  | .atomXor d a b z => Sys2Proof.Machine.execAtomXor d a b z s
  | .atomMin d a b z => Sys2Proof.Machine.execAtomMin d a b z s
  | .atomMax d a b z => Sys2Proof.Machine.execAtomMax d a b z s
  | .atomMinu d a b z => Sys2Proof.Machine.execAtomMinu d a b z s
  | .atomMaxu d a b z => Sys2Proof.Machine.execAtomMaxu d a b z s
  | .atomXchg d a b z => Sys2Proof.Machine.execAtomXchg d a b z s
  | .cas d a b z => Sys2Proof.Machine.execCas d a b z s
  | .fenceAll xs => Sys2Proof.Machine.execFenceAll xs s
  | .fenceAcq xs => Sys2Proof.Machine.execFenceAcq xs s
  | .fenceRelSt => Sys2Proof.Machine.execFenceRelSt s
  | .fenceRelCo => Sys2Proof.Machine.execFenceRelCo s
  | .fenceRelCl => Sys2Proof.Machine.execFenceRelCl s
  | .fenceRelDi => Sys2Proof.Machine.execFenceRelDi s
  | .fenceRelPk => Sys2Proof.Machine.execFenceRelPk s
  | .fenceRelSy => Sys2Proof.Machine.execFenceRelSy s
  | .cwb a b xs => Sys2Proof.Machine.execCwb a b xs s
  | .cinv a b xs => Sys2Proof.Machine.execCinv a b xs s
  | .ldAcq d b o k xs sc => Sys2Proof.Machine.execLdAcq d b o k xs sc s
  | .stRel x b o k xs sc => Sys2Proof.Machine.execStRel x b o k xs sc s
  | .ldAcqSy d b o k xs => Sys2Proof.Machine.execLdAcqSy d b o k xs s
  | .stRelSy x b o k xs => Sys2Proof.Machine.execStRelSy x b o k xs s
  | .tlkp d a => Sys2Proof.Machine.execTlkp d a s
  | .tset d a b => Sys2Proof.Machine.execTset d a b s
  | .tinv d a => Sys2Proof.Machine.execTinv d a s
  | .tstat d a => Sys2Proof.Machine.execTstat d a s
  | .tfull a => Sys2Proof.Machine.execTfull a s
  | .ttake d a b => Sys2Proof.Machine.execTtake d a b s
  | .twait a => Sys2Proof.Machine.execTwait a s
  | .tgrant d a b => Sys2Proof.Machine.execTgrant d a b s
  | .sbind n a => Sys2Proof.Machine.execSbind n a s
  | .srel n => Sys2Proof.Machine.execSrel n s
  | .sqry d n b => Sys2Proof.Machine.execSqry d n b s
  | .sskip n a => Sys2Proof.Machine.execSskip n a s
  | .cpy x a l u c e => Sys2Proof.Machine.execCpy x a l u c e s
  | .cpyg x n l u c e => Sys2Proof.Machine.execCpyg x n l u c e s
  | .cpys x n l u c e => Sys2Proof.Machine.execCpys x n l u c e s
  | .cpym x a l u c e => Sys2Proof.Machine.execCpym x a l u c e s
  | .tsend x cr l u c e => Sys2Proof.Machine.execTsend x cr l u c e s
  | .tget x cr l u c e => Sys2Proof.Machine.execTget x cr l u c e s
  | .cwait d a m => Sys2Proof.Machine.execCwait d a m s
  | .binit a b => Sys2Proof.Machine.execBinit a b s
  | .bexp a b => Sys2Proof.Machine.execBexp a b s
  | .arv a b => Sys2Proof.Machine.execArv a b s
  | .bwait d a => Sys2Proof.Machine.execBwait d a s
  | .btest d a => Sys2Proof.Machine.execBtest d a s
  | .book d a => Sys2Proof.Machine.execBook d a s
  | .bqry d a b => Sys2Proof.Machine.execBqry d a b s
  | .bcan d a => Sys2Proof.Machine.execBcan d a s
  | .bdone d a b => Sys2Proof.Machine.execBdone d a b s
  | .ldcr c b o k => Sys2Proof.Machine.execLdcr c b o k s
  | .stcr c b o k => Sys2Proof.Machine.execStcr c b o k s
  | .cmovc d a => Sys2Proof.Machine.execCmovc d a s
  | .cbnd d a b => Sys2Proof.Machine.execCbnd d a b s
  | .cprm d a b => Sys2Proof.Machine.execCprm d a b s
  | .cadd d a b => Sys2Proof.Machine.execCadd d a b s
  | .cget d a b => Sys2Proof.Machine.execCget d a b s
  | .ctag d a => Sys2Proof.Machine.execCtag d a s
  | .cclr d => Sys2Proof.Machine.execCclr d s
  | .rld d c o k xs => Sys2Proof.Machine.execRld d c o k xs s
  | .rst x c o k xs => Sys2Proof.Machine.execRst x c o k xs s
  | .ratomAdd d c b cmb z => Sys2Proof.Machine.execRatomAdd d c b cmb z s
  | .ratomSub d c b z => Sys2Proof.Machine.execRatomSub d c b z s
  | .ratomAnd d c b z => Sys2Proof.Machine.execRatomAnd d c b z s
  | .ratomOr d c b z => Sys2Proof.Machine.execRatomOr d c b z s
  | .ratomXor d c b z => Sys2Proof.Machine.execRatomXor d c b z s
  | .ratomMin d c b z => Sys2Proof.Machine.execRatomMin d c b z s
  | .ratomMax d c b z => Sys2Proof.Machine.execRatomMax d c b z s
  | .ratomMinu d c b z => Sys2Proof.Machine.execRatomMinu d c b z s
  | .ratomMaxu d c b z => Sys2Proof.Machine.execRatomMaxu d c b z s
  | .ratomXchg d c b z => Sys2Proof.Machine.execRatomXchg d c b z s
  | .rcas d c b z => Sys2Proof.Machine.execRcas d c b z s
  | .rldq n c o k xs => Sys2Proof.Machine.execRldq n c o k xs s
  | .bndo n a => Sys2Proof.Machine.execBndo n a s
  | .bnds n c => Sys2Proof.Machine.execBnds n c s
  | .bndc d n => Sys2Proof.Machine.execBndc d n s
  | .bndr d n => Sys2Proof.Machine.execBndr d n s
  | .bndq d n b => Sys2Proof.Machine.execBndq d n b s
  | .ftime d => Sys2Proof.Machine.execFtime d s
  | .csrr d c => Sys2Proof.Machine.execCsrr d c s
  | .csrw d a c => Sys2Proof.Machine.execCsrw d a c s
  | .csrs d a c => Sys2Proof.Machine.execCsrs d a c s
  | .csrc d a c => Sys2Proof.Machine.execCsrc d a c s
  | .feat d a => Sys2Proof.Machine.execFeat d a s
  | .ecall => Sys2Proof.Machine.execEcall s
  | .ebreak => Sys2Proof.Machine.execEbreak s
  | .uliret => Sys2Proof.Machine.execUliret s
  | .sret => Sys2Proof.Machine.execSret s
  | .wfe d => Sys2Proof.Machine.execWfe d s
  | .trcm a => Sys2Proof.Machine.execTrcm a s
  | .snap d a => Sys2Proof.Machine.execSnap d a s
  | .tlbi a b => Sys2Proof.Machine.execTlbi a b s
  | .tpre d a b => Sys2Proof.Machine.execTpre d a b s
  | .ctxs d a b => Sys2Proof.Machine.execCtxs d a b s
  | .ctxr d a b => Sys2Proof.Machine.execCtxr d a b s
  | .halt a => Sys2Proof.Machine.execHalt a s
  | .vadd f => Sys2Proof.Machine.execVadd f s
  | .vsub f => Sys2Proof.Machine.execVsub f s
  | .vmul f => Sys2Proof.Machine.execVmul f s
  | .vfma f => Sys2Proof.Machine.execVfma f s
  | .vfms f => Sys2Proof.Machine.execVfms f s
  | .vfnma f => Sys2Proof.Machine.execVfnma f s
  | .vdiv f => Sys2Proof.Machine.execVdiv f s
  | .vsqrt f => Sys2Proof.Machine.execVsqrt f s
  | .vrcp f => Sys2Proof.Machine.execVrcp f s
  | .vrsq f => Sys2Proof.Machine.execVrsq f s
  | .vexp2 f => Sys2Proof.Machine.execVexp2 f s
  | .vlog2 f => Sys2Proof.Machine.execVlog2 f s
  | .vtanh f => Sys2Proof.Machine.execVtanh f s
  | .vsinp f => Sys2Proof.Machine.execVsinp f s
  | .vcosp f => Sys2Proof.Machine.execVcosp f s
  | .vmin f => Sys2Proof.Machine.execVmin f s
  | .vmax f => Sys2Proof.Machine.execVmax f s
  | .vabs f => Sys2Proof.Machine.execVabs f s
  | .vneg f => Sys2Proof.Machine.execVneg f s
  | .vcpys f => Sys2Proof.Machine.execVcpys f s
  | .vcls f => Sys2Proof.Machine.execVcls f s
  | .vcmpEq f => Sys2Proof.Machine.execVcmpEq f s
  | .vcmpNe f => Sys2Proof.Machine.execVcmpNe f s
  | .vcmpLt f => Sys2Proof.Machine.execVcmpLt f s
  | .vcmpLe f => Sys2Proof.Machine.execVcmpLe f s
  | .vcmpGt f => Sys2Proof.Machine.execVcmpGt f s
  | .vcmpGe f => Sys2Proof.Machine.execVcmpGe f s
  | .vsel f => Sys2Proof.Machine.execVsel f s
  | .vand f => Sys2Proof.Machine.execVand f s
  | .vor f => Sys2Proof.Machine.execVor f s
  | .vxor f => Sys2Proof.Machine.execVxor f s
  | .vnot f => Sys2Proof.Machine.execVnot f s
  | .vshl f => Sys2Proof.Machine.execVshl f s
  | .vshr f => Sys2Proof.Machine.execVshr f s
  | .vsha f => Sys2Proof.Machine.execVsha f s
  | .viadd f => Sys2Proof.Machine.execViadd f s
  | .visub f => Sys2Proof.Machine.execVisub f s
  | .vimul f => Sys2Proof.Machine.execVimul f s
  | .vcvt f => Sys2Proof.Machine.execVcvt f s
  | .vqnt f => Sys2Proof.Machine.execVqnt f s
  | .vdqt f => Sys2Proof.Machine.execVdqt f s
  | .vredSum f => Sys2Proof.Machine.execVredSum f s
  | .vredMin f => Sys2Proof.Machine.execVredMin f s
  | .vredMax f => Sys2Proof.Machine.execVredMax f s
  | .vscanSum f => Sys2Proof.Machine.execVscanSum f s
  | .vscanMin f => Sys2Proof.Machine.execVscanMin f s
  | .vscanMax f => Sys2Proof.Machine.execVscanMax f s
  | .vtopk f => Sys2Proof.Machine.execVtopk f s
  | .vsort f => Sys2Proof.Machine.execVsort f s
  | .vtrn f => Sys2Proof.Machine.execVtrn f s
  | .vperm f => Sys2Proof.Machine.execVperm f s
  | .vbcst f => Sys2Proof.Machine.execVbcst f s
  | .vbcstRow f => Sys2Proof.Machine.execVbcstRow f s
  | .vbcstColumn f => Sys2Proof.Machine.execVbcstColumn f s
  | .vshape f => Sys2Proof.Machine.execVshape f s
  | .vshapeImmediate f => Sys2Proof.Machine.execVshapeImmediate f s
  | .vmov f => Sys2Proof.Machine.execVmov f s
  | .vmovS f => Sys2Proof.Machine.execVmovS f s
  | .vmovI f => Sys2Proof.Machine.execVmovI f s
  | .vmovQ f => Sys2Proof.Machine.execVmovQ f s
  | .vld f => Sys2Proof.Machine.execVld f s
  | .vst f => Sys2Proof.Machine.execVst f s
  | .vldff f => Sys2Proof.Machine.execVldff f s
  | .vgth f => Sys2Proof.Machine.execVgth f s
  | .vsct f => Sys2Proof.Machine.execVsct f s
  | .vpred f => Sys2Proof.Machine.execVpred f s
  | .vpredMin f => Sys2Proof.Machine.execVpredMin f s
  | .vpredZero f => Sys2Proof.Machine.execVpredZero f s
  | .vrand f => Sys2Proof.Machine.execVrand f s
  | .vloop f => Sys2Proof.Machine.execVloop f s
  | .vbrEq f => Sys2Proof.Machine.execVbrEq f s
  | .vbrNe f => Sys2Proof.Machine.execVbrNe f s
  | .vbrLt f => Sys2Proof.Machine.execVbrLt f s
  | .vbrGe f => Sys2Proof.Machine.execVbrGe f s
  | .vbrLtu f => Sys2Proof.Machine.execVbrLtu f s
  | .vbrGeu f => Sys2Proof.Machine.execVbrGeu f s
  | .vrdv => Sys2Proof.Machine.execVrdv s
  | .vexit => Sys2Proof.Machine.execVexit s
  | .mstep f => Sys2Proof.Machine.execMstep f s
  | .mclr f => Sys2Proof.Machine.execMclr f s
  | .mswap f => Sys2Proof.Machine.execMswap f s
  | .mlda f => Sys2Proof.Machine.execMlda f s
  | .msta f => Sys2Proof.Machine.execMsta f s
  | .mpro f => Sys2Proof.Machine.execMpro f s
  | .mepi f => Sys2Proof.Machine.execMepi f s
  | .minj => Sys2Proof.Machine.execMinj s
  | .mrpgR f => Sys2Proof.Machine.execMrpgR f s
  | .mrpgW f => Sys2Proof.Machine.execMrpgW f s
  | .mrpgI f => Sys2Proof.Machine.execMrpgI f s
  | .mrpgA f => Sys2Proof.Machine.execMrpgA f s
  | .mloop f => Sys2Proof.Machine.execMloop f s
  | .mbrEq f => Sys2Proof.Machine.execMbrEq f s
  | .mbrNe f => Sys2Proof.Machine.execMbrNe f s
  | .mbrLt f => Sys2Proof.Machine.execMbrLt f s
  | .mbrGe f => Sys2Proof.Machine.execMbrGe f s
  | .mbrLtu f => Sys2Proof.Machine.execMbrLtu f s
  | .mbrGeu f => Sys2Proof.Machine.execMbrGeu f s
  | .mj f => Sys2Proof.Machine.execMj f s
  | .mrdv => Sys2Proof.Machine.execMrdv s
  | .mexit => Sys2Proof.Machine.execMexit s
  | .jobResident => Sys2Proof.Machine.execJobResident s
  | .gangStart => Sys2Proof.Machine.execGangStart s
  | .waitSatisfied => Sys2Proof.Machine.execWaitSatisfied s
  | .channelTimeout => Sys2Proof.Machine.execChannelTimeout s
  | .meetingOpen => Sys2Proof.Machine.execMeetingOpen s
  | .jobRetire => Sys2Proof.Machine.execJobRetire s
  | .engineFaultDelivery => Sys2Proof.Machine.execEngineFaultDelivery s
  | .haltResume => Sys2Proof.Machine.execHaltResume s
  | .preempt => Sys2Proof.Machine.execPreempt s
  | .carterCommandResume => Sys2Proof.Machine.execCarterCommandResume s
  | .carterCommandStart => Sys2Proof.Machine.execCarterCommandStart s
  | .carterCommandComplete => Sys2Proof.Machine.execCarterCommandComplete s
  | .carterCommandFail => Sys2Proof.Machine.execCarterCommandFail s
  | .injectionQueueEntry => Sys2Proof.Machine.execInjectionQueueEntry s
  | .permitArrival => Sys2Proof.Machine.execPermitArrival s
  | .permitEnter => Sys2Proof.Machine.execPermitEnter s
  | .landingArrival => Sys2Proof.Machine.execLandingArrival s
  | .landingWrite => Sys2Proof.Machine.execLandingWrite s
  | .landingAck => Sys2Proof.Machine.execLandingAck s
  | .tileStep => Sys2Proof.Machine.execTileStep s
  | .millEpilogue => Sys2Proof.Machine.execMillEpilogue s
  | .millRetire => Sys2Proof.Machine.execMillRetire s
  | .accessComplete => Sys2Proof.Machine.execAccessComplete s
  | .atomicPerform => Sys2Proof.Machine.execAtomicPerform s
  | .translationWalk => Sys2Proof.Machine.execTranslationWalk s
  | .tlbiRetire => Sys2Proof.Machine.execTlbiRetire s
  | .slotStart => Sys2Proof.Machine.execSlotStart s
  | .intakeAgeing => Sys2Proof.Machine.execIntakeAgeing s
  | .bookResult => Sys2Proof.Machine.execBookResult s
  | .prep => Sys2Proof.Machine.execPrep s
  | .bookingAck => Sys2Proof.Machine.execBookingAck s
  | .bookingNack => Sys2Proof.Machine.execBookingNack s
  | .bookingCommit => Sys2Proof.Machine.execBookingCommit s
  | .bookingCommitAck => Sys2Proof.Machine.execBookingCommitAck s
  | .bookingCommitNack => Sys2Proof.Machine.execBookingCommitNack s
  | .bookingAbort => Sys2Proof.Machine.execBookingAbort s
  | .wound => Sys2Proof.Machine.execWound s
  | .refuse => Sys2Proof.Machine.execRefuse s
  | .tentativeMarkTimeout => Sys2Proof.Machine.execTentativeMarkTimeout s
  | .remoteAnswerTimeout => Sys2Proof.Machine.execRemoteAnswerTimeout s
  | .gangProposal => Sys2Proof.Machine.execGangProposal s
  | .scrub => Sys2Proof.Machine.execScrub s
  | .sampleRecord => Sys2Proof.Machine.execSampleRecord s
  | .stopAtCut => Sys2Proof.Machine.execStopAtCut s
  | .snapTrigger => Sys2Proof.Machine.execSnapTrigger s
  | .replayOrderPoint => Sys2Proof.Machine.execReplayOrderPoint s
  | .statusWordWrite => Sys2Proof.Machine.execStatusWordWrite s
  | .streamPcWrite => Sys2Proof.Machine.execStreamPcWrite s
  | .evpendWrite => Sys2Proof.Machine.execEvpendWrite s
  | .chlimWrite => Sys2Proof.Machine.execChlimWrite s
  | .roundingKeyWrite => Sys2Proof.Machine.execRoundingKeyWrite s
  | .uldelWrite => Sys2Proof.Machine.execUldelWrite s
  | .dbgctlWrite => Sys2Proof.Machine.execDbgctlWrite s
  | .rgbaseWrite => Sys2Proof.Machine.execRgbaseWrite s
  | .rgrdpWrite => Sys2Proof.Machine.execRgrdpWrite s
  | .evselWrite => Sys2Proof.Machine.execEvselWrite s
  | .registerWrite => Sys2Proof.Machine.execRegisterWrite s
  | .fectlWrite => Sys2Proof.Machine.execFectlWrite s
  | .doorbell => Sys2Proof.Machine.execDoorbell s
  | .emergClear => Sys2Proof.Machine.execEmergClear s
  | .queueMap => Sys2Proof.Machine.execQueueMap s
  | .queueUnmap => Sys2Proof.Machine.execQueueUnmap s
  | .queueAgeing => Sys2Proof.Machine.execQueueAgeing s
  | .launch => Sys2Proof.Machine.execLaunch s
  | .bookPacket => Sys2Proof.Machine.execBookPacket s
  | .copy => Sys2Proof.Machine.execCopy s
  | .barrierAnd => Sys2Proof.Machine.execBarrierAnd s
  | .barrierAndRead => Sys2Proof.Machine.execBarrierAndRead s
  | .signal => Sys2Proof.Machine.execSignal s
  | .queueCreate => Sys2Proof.Machine.execQueueCreate s
  | .queueDestroy => Sys2Proof.Machine.execQueueDestroy s
  | .queueReset => Sys2Proof.Machine.execQueueReset s
  | .imageLoad => Sys2Proof.Machine.execImageLoad s
  | .imageUnload => Sys2Proof.Machine.execImageUnload s
  | .power => Sys2Proof.Machine.execPower s
  | .powerChange => Sys2Proof.Machine.execPowerChange s
  | .relockComplete => Sys2Proof.Machine.execRelockComplete s
  | .cfgInstall => Sys2Proof.Machine.execCfgInstall s
  | .almanac => Sys2Proof.Machine.execAlmanac s
  | .packetComplete => Sys2Proof.Machine.execPacketComplete s
  | .boot => Sys2Proof.Machine.execBoot s
  | .emergencyTrip => Sys2Proof.Machine.execEmergencyTrip s
  | .granaryLinkFail => Sys2Proof.Machine.execGranaryLinkFail s
  | .mootSramError => Sys2Proof.Machine.execMootSramError s
  | .hostHdmRead => Sys2Proof.Machine.execHostHdmRead s
  | .hostHdmWrite => Sys2Proof.Machine.execHostHdmWrite s
  | .getVersion => Sys2Proof.Machine.execGetVersion s
  | .getCapabilities => Sys2Proof.Machine.execGetCapabilities s
  | .negotiateAlgorithms => Sys2Proof.Machine.execNegotiateAlgorithms s
  | .getDigests => Sys2Proof.Machine.execGetDigests s
  | .getCertificate => Sys2Proof.Machine.execGetCertificate s
  | .challenge => Sys2Proof.Machine.execChallenge s
  | .getMeasurements => Sys2Proof.Machine.execGetMeasurements s
  | .flitReceive => Sys2Proof.Machine.execFlitReceive s
  | .linkRetrain => Sys2Proof.Machine.execLinkRetrain s
  | .beaconSend => Sys2Proof.Machine.execBeaconSend s
  | .beacon => Sys2Proof.Machine.execBeacon s
  | .linkDelayMeasure => Sys2Proof.Machine.execLinkDelayMeasure s
  | .beaconTimeout => Sys2Proof.Machine.execBeaconTimeout s
  | .parentPortAssign => Sys2Proof.Machine.execParentPortAssign s
  | .remoteOperation => Sys2Proof.Machine.execRemoteOperation s
  | .remoteReply => Sys2Proof.Machine.execRemoteReply s
  | .combining => Sys2Proof.Machine.execCombining s
  | .combinedReply => Sys2Proof.Machine.execCombinedReply s
  | .splitRecordTimeout => Sys2Proof.Machine.execSplitRecordTimeout s
  | .bndsLineRequest => Sys2Proof.Machine.execBndsLineRequest s
  | .bndsComplete => Sys2Proof.Machine.execBndsComplete s
  | .prepare => Sys2Proof.Machine.execPrepare s
  | .bundleCommit => Sys2Proof.Machine.execBundleCommit s
  | .bundleAbort => Sys2Proof.Machine.execBundleAbort s
  | .readCurrent => Sys2Proof.Machine.execReadCurrent s
  | .readExact => Sys2Proof.Machine.execReadExact s
  | .bundleAck => Sys2Proof.Machine.execBundleAck s
  | .busy => Sys2Proof.Machine.execBusy s
  | .bundleStale => Sys2Proof.Machine.execBundleStale s
  | .bundleBackoff => Sys2Proof.Machine.execBundleBackoff s
  | .bundleCommitAck => Sys2Proof.Machine.execBundleCommitAck s
  | .bundleCommitNack => Sys2Proof.Machine.execBundleCommitNack s
  | .abortAck => Sys2Proof.Machine.execAbortAck s
  | .bndrRoundComplete => Sys2Proof.Machine.execBndrRoundComplete s
  | .pendingVersionTimeout => Sys2Proof.Machine.execPendingVersionTimeout s
  | .outcomeQuery => Sys2Proof.Machine.execOutcomeQuery s
  | .committed => Sys2Proof.Machine.execCommitted s
  | .unknown => Sys2Proof.Machine.execUnknown s
  | .outcomeTimeout => Sys2Proof.Machine.execOutcomeTimeout s
  | .systemStopBroadcast => Sys2Proof.Machine.execSystemStopBroadcast s
  | .snapshotBroadcast => Sys2Proof.Machine.execSnapshotBroadcast s
  | .replayStart => Sys2Proof.Machine.execReplayStart s
  | .replayHaltBroadcast => Sys2Proof.Machine.execReplayHaltBroadcast s
  | .illegalInstruction => Sys2Proof.Machine.execIllegalInstruction s
  | .fetchFault => Sys2Proof.Machine.execFetchFault s
  | .trainingComplete => Sys2Proof.Machine.execTrainingComplete s
  | .mootLinkRetrain => Sys2Proof.Machine.execMootLinkRetrain s
  | .idleWake => Sys2Proof.Machine.execIdleWake s
  | .contextSaveComplete => Sys2Proof.Machine.execContextSaveComplete s
  | .contextRestoreComplete => Sys2Proof.Machine.execContextRestoreComplete s
  | .linkStatusRead => Sys2Proof.Machine.execLinkStatusRead s
  | .unsupportedRequest => Sys2Proof.Machine.execUnsupportedRequest s
  | .doeDiscovery => Sys2Proof.Machine.execDoeDiscovery s

end Sys2Proof.Machine
end

