-- ==== Sys2Proof/Machine/Step.lean ====
section
/-!
DEFINITION. One step: the next turn of the agenda, or a cycle of the stream that moves (notes/assumptions/1.md).
-/
namespace Sys2Proof.Machine
open Sys2Proof

/-- The stream that moves has its turn: what its boundary brings, or its next instruction. -/
def runStream (s : State) : Host.Outcome State Fault Refusal :=
  if whoOk s s.cur.w then
    match boundary s with
    | some s' => .next s'
    | none => exec (fetchInstr s).1 (fetchInstr s).2
  else .fault .noSuchObject

/-- One step. -/
def step (s : State) : Host.Outcome State Fault Refusal :=
  match s.agenda with
  | [] => runStream (advance s 10)
  | t :: rest =>
    let s := advance { s with agenda := rest } t.dt
    match t.ev with
    | none => runStream { s with cur := t.cur }
    | some i => if isEvent i then exec i { s with ev := t.arg } else .next s

/-- The state with an instruction placed where the next step fetches it. -/
def State.withFetchWord (s : State) (nbits w : Nat) : State :=
  placeWord s (if nbits ≤ 32 then .access else if nbits ≤ 96 then .loom else .mill) w

end Sys2Proof.Machine
end

