-- ==== Sys2Proof/Safety.lean ====
section
/-!
DEFINITION. The terms that claims are stated in: what counts as a safe step, when the operands of an access-core instruction are at hand,
and what is read and written when an instruction completes.
-/
namespace Sys2Proof
open Sys2Proof.Machine

/-- The step answers a next state. -/
def Goes (s : State) : Prop := ∃ t, step s = .next t

namespace Claims

/-- The context whose stream moves. -/
def here (s : State) : Ctx := getCtx s (me s)

/-- The die of the stream that moves. -/
def hereDie (s : State) : Die := getDie s (me s).die

/-- No Almanac records or replays on a die, and no agent stands at an order point (13 R342 to R346). -/
def quietDie (d : Die) : Bool := !d.alm.logging && !d.alm.rply && !d.alm.atPt

def Quiet (s : State) : Prop := quietDie (hereDie s) = true

/-- A channel's head entry can be taken by the access core (04 R93, 02 R47). -/
def headFilled (x : Chan) : Bool :=
  match x.q with
  | [] => false
  | e :: _ => e.filled && !e.bad

/-- What a source operand holds (02 R46). -/
def srcVal (s : State) : Src → Word
  | .g r => readG (here s) r
  | .pop n => ((getChan (here s) n.val).q.headD {}).val
  | .peek n => ((getChan (here s) n.val).q.headD {}).val

/-- The state once a source operand has been taken: a pop removes the head entry, nothing else changes anything. -/
def taken (s : State) : Src → State
  | .pop n => chDrop s (me s) 0 n.val
  | _ => s

/-- A source operand is at hand: no load is to write its register, which is not in error; its channel is enabled, the access core consumes it, and its head is
filled. -/
def srcReady (s : State) : Src → Bool
  | .g r => !(pendingG s (me s) r) && !(lostG (here s) r)
  | .pop n => let x := getChan (here s) n.val; chEn x && chCons x == 0 && headFilled x
  | .peek n => let x := getChan (here s) n.val; chEn x && chCons x == 0 && headFilled x

/-- Sources in their order, each taken before the next. -/
def srcsReady (s : State) : List Src → Bool
  | [] => true
  | a :: t => srcReady s a && srcsReady (taken s a) t

def heldVals (s : State) : List Src → List Word
  | [] => []
  | a :: t => srcVal s a :: heldVals (taken s a) t

def takenAll (s : State) (l : List Src) : State := l.foldl taken s

/-- A destination can be written after the pops: no load is to write its register; its channel is enabled, the access core produces into
it, and it has room. -/
def dstReady (s s1 : State) : RC → Bool
  | .g r => !(pendingG s (me s) r)
  | .ch n => let x := getChan (here s1) n.val; chEn x && chProd x == 0 && decide (x.q.length < 16)

/-- The operands of an access-core instruction are at hand: its sources, further registers, its destination. -/
def Ready (s : State) (srcs : List Src) (regs : List GReg) (dst : RC) : Prop :=
  (srcsReady s srcs && regs.all (fun r => !(pendingG s (me s) r) && !(lostG (here s) r)) && dstReady s (takenAll s srcs) dst) = true

/-- A capability register is at hand: no LDCR is to write it, and it is not in error. -/
def capHeld (s : State) (r : CapReg) : Bool := !(pendingC s (me s) r) && !(lostC (here s) r)

/-- The access-core stream that moves retires its instruction in `t`, the state its effect has made of `s`, and goes on as `n` says: a
wait it stood in ends, the program counter and the loop stack move, `instret` counts (04 R103, R113; 01 R12). -/
def retired (s t : State) (n : Nxt) : State :=
  retireAccess (clearWait t (me s) .access (waitSetBy s (me s) .access)) (me s) (here s).acc.stat.bps n

/-- The state in which an access-core instruction with sources `srcs` has written `v` to `d` and gone on to the next word. -/
def wrote (s : State) (srcs : List Src) (d : RC) (v : Word) : State := retired s (putDst (takenAll s srcs) d v) .seq

end Claims
end Sys2Proof
end

