-- ==== Sys2Proof/Certificates/Slice0/Obligations.lean ====
section
/-!
DEFINITION. The statements for the provers, each the reading of rules of the spec.
-/
open Sys2Proof Sys2Proof.Machine Sys2Proof.Claims

/-! ### Integer and logic instructions (04 R95 to R99) -/

namespace Sys2Proof.Claims

/-- Whether a word is negative, read as two's complement. -/
def isNeg (x : Word) : Bool := x.getLsbD 63

/-- The shift amount b[5:0]. -/
def amount (y : Word) : Nat := (y.extractLsb' 0 6).toNat

/-- Bits [127:64] of a 128-bit product. -/
def high128 (p : BitVec 128) : Word := p.extractLsb' 64 64

/-- The signed quotient and remainder with the edge cases of R96. -/
def quotS (x y : Word) : Word :=
  if y = 0 then BitVec.allOnes 64 else if x = BitVec.intMin 64 ∧ y = BitVec.allOnes 64 then BitVec.intMin 64 else x.sdiv y

def remainS (x y : Word) : Word :=
  if y = 0 then x else if x = BitVec.intMin 64 ∧ y = BitVec.allOnes 64 then 0 else x.srem y

/-- The unsigned quotient and remainder with the edge cases of R96. -/
def quotU (x y : Word) : Word := if y = 0 then BitVec.allOnes 64 else x / y

def remainU (x y : Word) : Word := if y = 0 then x else x % y

/-- Leading zero bits, trailing zero bits, one bits. -/
def leadingZeros (x : Word) : Nat := ((List.range 64).reverse.takeWhile fun k => !(x.getLsbD k)).length

def trailingZeros (x : Word) : Nat := ((List.range 64).takeWhile fun k => !(x.getLsbD k)).length

def oneBits (x : Word) : Nat := ((List.range 64).filter fun k => x.getLsbD k).length

/-- The word whose bit `k` is `f k`. -/
def ofBits (f : Nat → Bool) : Word := (List.range 64).foldl (fun v k => if f k then v ||| BitVec.twoPow 64 k else v) 0

/-- Bits p + w - 1 to p of `x`, zero-extended. -/
def field (x : Word) (p w : Nat) : Word := ofBits fun k => decide (k < w) && x.getLsbD (p + k)

/-- `old` with bits p + w - 1 to p replaced by the low `w` bits of `x`. -/
def withField (old x : Word) (p w : Nat) : Word := ofBits fun k => if p ≤ k ∧ k < p + w then x.getLsbD (k - p) else old.getLsbD k

end Sys2Proof.Claims

/-- R95: the register-register instructions ADD to MAXU, with their operands at hand, complete; the destination gets the value of the
table. -/
def Sys2Proof.Claims.IntegerRegisterResults : Prop :=
  ∀ (s : State) (d : RC) (a b : Src), Quiet s → Ready s [a, b] [] d →
    let x := srcVal s a
    let y := srcVal (taken s a) b
    let r := fun v => Host.Outcome.next (wrote s [a, b] d v)
    exec (.add d a b) s = r (x + y) ∧ exec (.sub d a b) s = r (x - y) ∧
    exec (.and d a b) s = r (x &&& y) ∧ exec (.or d a b) s = r (x ||| y) ∧ exec (.xor d a b) s = r (x ^^^ y) ∧
    exec (.shl d a b) s = r (BitVec.ofNat 64 (x.toNat * 2 ^ amount y)) ∧
    exec (.shr d a b) s = r (BitVec.ofNat 64 (x.toNat / 2 ^ amount y)) ∧
    exec (.sha d a b) s = r (BitVec.ofInt 64 (x.toInt / 2 ^ amount y)) ∧
    exec (.slt d a b) s = r (if x.toInt < y.toInt then 1 else 0) ∧
    exec (.sltu d a b) s = r (if x.toNat < y.toNat then 1 else 0) ∧
    exec (.min d a b) s = r (if x.toInt ≤ y.toInt then x else y) ∧
    exec (.max d a b) s = r (if x.toInt ≤ y.toInt then y else x) ∧
    exec (.minu d a b) s = r (if x.toNat ≤ y.toNat then x else y) ∧
    exec (.maxu d a b) s = r (if x.toNat ≤ y.toNat then y else x)

/-- R95, R96: multiplication and division complete; neither traps on any operand. -/
def Sys2Proof.Claims.MultiplyDivideResults : Prop :=
  ∀ (s : State) (d : RC) (a b : Src), Quiet s → Ready s [a, b] [] d →
    let x := srcVal s a
    let y := srcVal (taken s a) b
    let r := fun v => Host.Outcome.next (wrote s [a, b] d v)
    exec (.mul d a b) s = r (x * y) ∧
    exec (.mulh d a b) s = r (high128 (x.signExtend 128 * y.signExtend 128)) ∧
    exec (.mulhu d a b) s = r (high128 (x.zeroExtend 128 * y.zeroExtend 128)) ∧
    exec (.div d a b) s = r (quotS x y) ∧ exec (.rem d a b) s = r (remainS x y) ∧
    exec (.divu d a b) s = r (quotU x y) ∧ exec (.remu d a b) s = r (remainU x y)

/-- R95: CLZ, CTZ and POPC complete with the counts of their operand's bits. -/
def Sys2Proof.Claims.BitCountResults : Prop :=
  ∀ (s : State) (d : RC) (a : Src), Quiet s → Ready s [a] [] d →
    exec (.clz d a) s = .next (wrote s [a] d (BitVec.ofNat 64 (leadingZeros (srcVal s a)))) ∧
    exec (.ctz d a) s = .next (wrote s [a] d (BitVec.ofNat 64 (trailingZeros (srcVal s a)))) ∧
    exec (.popc d a) s = .next (wrote s [a] d (BitVec.ofNat 64 (oneBits (srcVal s a))))

/-- R97: the register-immediate instructions complete with the result of their register form on the sign-extended immediate or the shift
amount. -/
def Sys2Proof.Claims.IntegerImmediateResults : Prop :=
  ∀ (s : State) (d a : RC) (i : BitVec 13) (n : BitVec 6), Quiet s → Ready s [rcSrc a] [] d →
    let x := srcVal s (rcSrc a)
    let y : Word := i.signExtend 64
    let r := fun v => Host.Outcome.next (wrote s [rcSrc a] d v)
    exec (.addi d a i) s = r (x + y) ∧ exec (.andi d a i) s = r (x &&& y) ∧ exec (.ori d a i) s = r (x ||| y) ∧
    exec (.xori d a i) s = r (x ^^^ y) ∧ exec (.shli d a n) s = r (BitVec.ofNat 64 (x.toNat * 2 ^ n.toNat)) ∧
    exec (.shri d a n) s = r (BitVec.ofNat 64 (x.toNat / 2 ^ n.toNat)) ∧
    exec (.shai d a n) s = r (BitVec.ofInt 64 (x.toInt / 2 ^ n.toNat)) ∧
    exec (.slti d a i) s = r (if x.toInt < y.toInt then 1 else 0)

/-- Every integer result of the access core. -/
def Obligations.IntegerResults : Prop :=
  Claims.IntegerRegisterResults ∧ Claims.MultiplyDivideResults ∧ Claims.BitCountResults ∧ Claims.IntegerImmediateResults

/-- R95, R98, R99: SEL, the bit-field instructions and the upper immediates complete with their results; SEL and BFI read the old value of
their destination. -/
def Obligations.SelectAndFieldResults : Prop :=
  ∀ (s : State), Quiet s →
    (∀ (d : GReg) (a b : Src), Ready s [a, b] [d] (.g d) →
      exec (.sel d a b) s =
        .next (wrote s [a, b] (.g d) (if readG (here s) d ≠ 0 then srcVal s a else srcVal (taken s a) b))) ∧
    (∀ (d a : RC) (p w : BitVec 6), Ready s [rcSrc a] [] d → p.toNat + w.toNat + 1 ≤ 64 →
      exec (.bfx d a p w) s = .next (wrote s [rcSrc a] d (field (srcVal s (rcSrc a)) p.toNat (w.toNat + 1)))) ∧
    (∀ (d : GReg) (a : RC) (p w : BitVec 6), Ready s [rcSrc a] [d] (.g d) → p.toNat + w.toNat + 1 ≤ 64 →
      exec (.bfi d a p w) s =
        .next (wrote s [rcSrc a] (.g d) (withField (readG (here s) d) (srcVal s (rcSrc a)) p.toNat (w.toNat + 1)))) ∧
    (∀ (d : RC) (i : BitVec 19), Ready s [] [] d →
      exec (.lui d i) s = .next (wrote s [] d (BitVec.ofInt 64 (i.toInt * 2 ^ 13))) ∧
      exec (.auipc d i) s = .next (wrote s [] d ((here s).acc.pc + BitVec.ofInt 64 (i.toInt * 2 ^ 13))))

/-! ### Control flow (04 R94, R100 to R104; 01 R26) -/

namespace Sys2Proof.Claims

/-- A target that a transfer accepts (R94): a multiple of 4, bits [63:55] all equal to bit 54. -/
def goodTarget (t : Word) : Prop := t.toNat % 4 = 0 ∧ ∀ k, 55 ≤ k → k < 64 → t.getLsbD k = t.getLsbD 54

/-- The branch conditions of R100. -/
def branchTaken (k : Cond) (x y : Word) : Prop :=
  match k with
  | .eq => x = y
  | .ne => x ≠ y
  | .lt => x.toInt < y.toInt
  | .ge => y.toInt ≤ x.toInt
  | .ltu => x.toNat < y.toNat
  | .geu => y.toNat ≤ x.toNat

/-- The branch instruction of a condition. -/
def branch (k : Cond) (a b : RC) (o : BitVec 10) : Instr :=
  match k with
  | .eq => .bEq a b o
  | .ne => .bNe a b o
  | .lt => .bLt a b o
  | .ge => .bGe a b o
  | .ltu => .bLtu a b o
  | .geu => .bGeu a b o

/-- `pc` plus a signed offset in words. -/
def wordsFrom (pc : Word) (o : Int) : Word := pc + BitVec.ofInt 64 (o * 4)

end Sys2Proof.Claims

/-- R100: a branch pops its channel operands whether taken or not; it goes on at its target or at the next word. -/
def Sys2Proof.Claims.BranchesCompleteTakenOrNot : Prop :=
  ∀ (s : State) (k : Cond) (a b : RC) (o : BitVec 10), Quiet s → Ready s [rcSrc a, rcSrc b] [] (.g 0) →
    let x := srcVal s (rcSrc a)
    let y := srcVal (taken s (rcSrc a)) (rcSrc b)
    let t := wordsFrom (here s).acc.pc o.toInt
    let s1 := takenAll s [rcSrc a, rcSrc b]
    (¬ branchTaken k x y → exec (branch k a b o) s = .next (retired s s1 .seq)) ∧
    (branchTaken k x y → goodTarget t → exec (branch k a b o) s = .next (retired s s1 (.jump t)))

/-- R101: the jumps complete at their target, the link written first and the target computed from the value of rs1 before it. -/
def Sys2Proof.Claims.JumpsCompleteWithLink : Prop :=
  ∀ (s : State) (d a : RC) (o : BitVec 19) (i : BitVec 13), Quiet s →
    let pc := (here s).acc.pc
    let t := wordsFrom pc o.toInt
    let u := srcVal s (rcSrc a) + BitVec.ofInt 64 i.toInt
    (goodTarget t → exec (.j o) s = .next (retired s s (.jump t))) ∧
    (goodTarget t → Ready s [] [] d → exec (.jal d o) s = .next (retired s (putDst s d (pc + 4)) (.jump t))) ∧
    (goodTarget u → Ready s [rcSrc a] [] (.g 0) → exec (.jr a i) s = .next (retired s (takenAll s [rcSrc a]) (.jump u))) ∧
    (goodTarget u → Ready s [rcSrc a] [] d →
      exec (.jalr d a i) s = .next (retired s (putDst (takenAll s [rcSrc a]) d (pc + 4)) (.jump u)))

/-- R94: a transfer to a misaligned target traps with 0x03 and one to a target that is not canonical with 0x04, `sval` the target; no
link is written. -/
def Sys2Proof.Claims.BadTargetsTrapAtTheTransfer : Prop :=
  ∀ (s : State) (d : RC) (a : GReg) (i : BitVec 13), Quiet s → Ready s [.g a] [] d →
    let u := readG (here s) a + BitVec.ofInt 64 i.toInt
    (u.toNat % 4 ≠ 0 → exec (.jalr d (.g a) i) s = .next (takeTrap s (me s) 0x03 u 0 true)) ∧
    (u.toNat % 4 = 0 → ¬ goodTarget u → exec (.jalr d (.g a) i) s = .next (takeTrap s (me s) 0x04 u 0 true))

/-- Transfers of control, and the trap at a bad target. -/
def Obligations.BranchesAndJumps : Prop :=
  Claims.BranchesCompleteTakenOrNot ∧ Claims.JumpsCompleteWithLink ∧ Claims.BadTargetsTrapAtTheTransfer

/-- R102: LOOP skips its body on a count of 0, opens a level otherwise, and traps with its word where the stack is full or its offset is
below 1. -/
def Sys2Proof.Claims.LoopOpensOrSkips : Prop :=
  ∀ (s : State) (a : RC) (o : BitVec 10), Quiet s → Ready s [rcSrc a] [] (.g 0) →
    let n := srcVal s (rcSrc a)
    let pc := (here s).acc.pc
    let s1 := takenAll s [rcSrc a]
    let word := wordOf (.loop a o)
    (o.toInt < 1 → exec (.loop a o) s = .next (takeTrap s (me s) 0x01 word 0 true)) ∧
    (1 ≤ o.toInt → n = 0 → exec (.loop a o) s = .next (retired s s1 (.skip (wordsFrom pc (o.toInt + 1))))) ∧
    (1 ≤ o.toInt → n ≠ 0 → (here s).acc.loops.length = 4 → exec (.loop a o) s = .next (takeTrap s (me s) 0x01 word 0 true)) ∧
    (1 ≤ o.toInt → n ≠ 0 → (here s).acc.loops.length < 4 →
      ∃ t, exec (.loop a o) s = .next (retired s t .seq) ∧
        (here t).acc.loops = { start := pc + 4, last := wordsFrom pc o.toInt, count := n } :: (here s).acc.loops ∧
        (here t).acc.g = (here s).acc.g ∧ (hereDie t).mem = (hereDie s1).mem)

/-- R104, R26: NOP only goes on; EXIT ends the stream; RDV waits for the meeting. -/
def Obligations.NopExitAndRendezvous : Prop :=
  ∀ s : State, almOver s (me s).die = false → (here s).acc.uli = false →
    exec .nop s = .next (retired s s .seq) ∧
    (∃ t, exec .exit s = .next t ∧ (here t).acc.stat.st = .done ∧ (here t).acc.g = (here s).acc.g ∧ (here t).acc.pc = (here s).acc.pc) ∧
    exec .rdv s = .next (enterWait s (me s) .access 7 0 0)

/-! ### Retirement, traps and returns (01 R32, R34, R36; 04 R103, R113, R118 to R120) -/

namespace Sys2Proof.Claims

/-- Where the loop stack and the program counter stand after an instruction at `pc` (R103): `n` tells how it goes on. -/
def afterLoops (ls : List LoopLevel) (pc : Word) : Nxt → List LoopLevel × Word
  | .raw t => (ls, t)
  | .jump t => (ls.dropWhile fun l => decide (t.toNat < l.start.toNat ∨ l.last.toNat < t.toNat), t)
  | .skip t =>
    match ls with
    | l :: r => if l.last = pc then (if l.count - 1 = 0 then (r, t) else ({ l with count := l.count - 1 } :: r, l.start)) else (ls, t)
    | [] => ([], t)
  | .seq =>
    match ls with
    | l :: r => if l.last = pc then (if l.count - 1 = 0 then (r, pc + 4) else ({ l with count := l.count - 1 } :: r, l.start)) else (ls, pc + 4)
    | [] => ([], pc + 4)

/-- The stream that moves runs, without single step: it stands in no wait whose end is recorded. -/
def Running (s : State) : Prop := (here s).acc.stat.st = .run ∧ (here s).acc.stat.sstep = false

/-- What no access-core instruction of the register forms changes: memory of every die and of the host, the scratchpad, the fabric and
the packages. -/
def SameStores (s t : State) : Prop :=
  (∀ e, (getDie t e).mem = (getDie s e).mem) ∧ t.host = s.host ∧ t.net = s.net ∧ t.pkgs = s.pkgs ∧
  (getCore t (me s)).sp = (getCore s (me s)).sp ∧ (getCore t (me s)).wr = (getCore s (me s)).wr ∧
  (getCore t (me s)).tags = (getCore s (me s)).tags

/-- The rest of the context, beside the g registers, channels, program counter, loops and status of the access core. -/
def SameContext (c e : Ctx) : Prop :=
  e.acc.c = c.acc.c ∧ e.acc.sys = c.acc.sys ∧ e.acc.uli = c.acc.uli ∧ e.loom = c.loom ∧ e.mill = c.mill ∧ e.spill = c.spill ∧
  e.desc = c.desc ∧ e.c0 = c.c0 ∧ e.c1 = c.c1 ∧ e.dbg = c.dbg ∧ e.permits = c.permits ∧ e.reports = c.reports ∧ e.bds = c.bds ∧
  (∀ l ∈ e.errs, l ∈ c.errs) ∧
  { e.csr with instret := 0, evpend := 0 } = { c.csr with instret := 0, evpend := 0 }

/-- The register-only instructions: destination, sources, further registers read. -/
def regForm : Instr → Option (RC × List Src × List GReg)
  | .add d a b | .sub d a b | .and d a b | .or d a b | .xor d a b | .shl d a b | .shr d a b | .sha d a b | .slt d a b | .sltu d a b
  | .min d a b | .max d a b | .minu d a b | .maxu d a b | .mul d a b | .mulh d a b | .mulhu d a b | .div d a b | .divu d a b
  | .rem d a b | .remu d a b => some (d, [a, b], [])
  | .sel d a b => some (.g d, [a, b], [d])
  | .clz d a | .ctz d a | .popc d a => some (d, [a], [])
  | .addi d a _ | .andi d a _ | .ori d a _ | .xori d a _ | .slti d a _ => some (d, [rcSrc a], [])
  | .shli d a _ | .shri d a _ | .shai d a _ => some (d, [rcSrc a], [])
  | .bfx d a _ _ => some (d, [rcSrc a], [])
  | .bfi d a _ _ => some (.g d, [rcSrc a], [d])
  | .lui d _ | .auipc d _ => some (d, [], [])
  | .nop => some (.g 0, [], [])
  | _ => none

/-- A state of a context in which a precise trap of its own instruction enters system mode (R32, R34): no double fault, no debug halt,
no delegation. -/
def EntersSystem (s : State) (w : Who) (cause : Nat) : Prop :=
  ¬ ((getCtx s w).acc.sys = true ∧ (getCtx s w).csr.te = false) ∧
  (bit (getCore s w).dbgctl 0 = false ∨ cause < 0x12 ∨ 0x15 < cause) ∧
  (¬ (9 ≤ cause ∧ cause ≤ 0xF ∨ 0x17 ≤ cause ∧ cause ≤ 0x1A ∨ cause = 0x14) ∨ bit (getCtx s w).csr.uldel cause = false ∨
    (getCtx s w).csr.ulvec = 0 ∨ (getCtx s w).acc.uli = true)

end Sys2Proof.Claims

/-- R103, R113: an instruction that retires counts in `instret` and moves the loop stack and the program counter; the registers and every
memory stay. -/
def Sys2Proof.Claims.RetirementMovesPcAndLoopStack : Prop :=
  ∀ (s : State) (w : Who) (b : Bool) (n : Nxt), (getCtx s w).acc.stat.sstep = false →
    let t := retireAccess s w b n
    let c := getCtx s w
    let e := getCtx t w
    (e.acc.loops, e.acc.pc) = afterLoops c.acc.loops c.acc.pc n ∧ e.csr.instret = c.csr.instret + 1 ∧
    e.acc.g = c.acc.g ∧ e.acc.gs = c.acc.gs ∧ e.chans = c.chans ∧ SameContext c e ∧ (∀ d, (getDie t d).mem = (getDie s d).mem)

/-- Hardware loops: opening, skipping, and what retirement does to the program counter. -/
def Obligations.LoopsAndRetirement : Prop :=
  Claims.LoopOpensOrSkips ∧ Claims.RetirementMovesPcAndLoopStack

/-- The frame of the register-only instructions (R95 to R99, NOP): with their operands at hand, every g register but the destination, every
other register of the context and every memory stay; so does everything where an instruction only takes its operands and goes on, as the
branches do. -/
def Sys2Proof.Claims.RegisterInstructionsChangeOnlyTheirDestination : Prop :=
  (∀ (i : Instr) (s t : State) (d : RC) (srcs : List Src) (regs : List GReg), regForm i = some (d, srcs, regs) → Quiet s →
    Ready s srcs regs d → Running s →
    exec i s = .next t →
    SameStores s t ∧ SameContext (here s) (here t) ∧ ∀ r : GReg, d ≠ .g r → readG (here t) r = readG (here s) r) ∧
  (∀ (s : State) (srcs : List Src) (n : Nxt), Quiet s → srcsReady s srcs = true → Running s →
    let t := retired s (takenAll s srcs) n
    SameStores s t ∧ SameContext (here s) (here t) ∧ ∀ r : GReg, readG (here t) r = readG (here s) r)

/-- R10, R46: g0 discards writes and reads zero; a write to another register is read back; a push appends one filled entry. -/
def Sys2Proof.Claims.DestinationWritesAndGZero : Prop :=
  ∀ (s : State) (r q : GReg) (n : Fin 16) (v : Word),
    readG (here s) 0 = 0 ∧ here (putDst s (.g 0) v) = here s ∧
    (r ≠ 0 → readG (here (putDst s (.g r) v)) r = v) ∧
    (q ≠ r → readG (here (putDst s (.g r) v)) q = readG (here s) q) ∧
    (getChan (here (putDst s (.ch n) v)) n.val).q = (getChan (here s) n.val).q ++ [{ val := v }] ∧
    (∀ k, k ≠ n.val → getChan (here (putDst s (.ch n) v)) k = getChan (here s) k) ∧
    readG (here (putDst s (.ch n) v)) q = readG (here s) q

/-- What an instruction with a register or channel destination leaves alone, and what its write does. -/
def Obligations.FramesOfRegisterInstructions : Prop :=
  Claims.RegisterInstructionsChangeOnlyTheirDestination ∧ Claims.DestinationWritesAndGZero

/-- R32: a trap that enters system mode saves the program counter, the cause, the value and the engine, sets MODE, keeps the old one in PM,
clears trap-enable and goes to `svec`; no register of the job changes. -/
def Sys2Proof.Claims.TrapEntrySavesAndEntersSystemMode : Prop :=
  ∀ (s : State) (w : Who) (cause eng : Nat) (val : Word), cause < 256 → EntersSystem s w cause →
    let c := getCtx s w
    let e := getCtx (takeTrap s w cause val eng true) w
    e.csr.sepc = c.acc.pc ∧ e.csr.scause = BitVec.ofNat 64 cause ∧ e.csr.sval = val ∧ e.csr.seng = BitVec.ofNat 64 eng ∧
    e.acc.sys = true ∧ e.csr.pm = c.acc.sys ∧ e.csr.te = false ∧ e.acc.pc = c.csr.svec ∧
    e.acc.g = c.acc.g ∧ e.acc.gs = c.acc.gs ∧ e.acc.c = c.acc.c ∧ e.chans = c.chans ∧ e.acc.loops = c.acc.loops ∧
    e.csr.instret = c.csr.instret

/-- R34, R119: a delegated fault enters the user-level handler: it saves into the `ul` registers, sets ULI and goes to `ulvec`. -/
def Sys2Proof.Claims.DelegatedFaultEntersUserHandler : Prop :=
  ∀ (s : State) (w : Who) (cause eng : Nat) (val : Word), (9 ≤ cause ∧ cause ≤ 0xF ∨ 0x17 ≤ cause ∧ cause ≤ 0x1A) → bit (getCtx s w).csr.uldel cause = true →
    (getCtx s w).csr.ulvec ≠ 0 → (getCtx s w).acc.uli = false → (getCtx s w).acc.sys = false →
    let c := getCtx s w
    let e := getCtx (takeTrap s w cause val eng true) w
    e.csr.ulepc = c.acc.pc ∧ e.csr.ulcause = BitVec.ofNat 64 cause ∧ e.csr.ulval = val ∧ e.csr.uleng = BitVec.ofNat 64 eng ∧
    e.acc.uli = true ∧ e.acc.pc = c.csr.ulvec ∧ e.acc.sys = false ∧ e.csr.sepc = c.csr.sepc ∧ e.csr.te = c.csr.te ∧
    e.acc.g = c.acc.g ∧ e.acc.gs = c.acc.gs ∧ e.acc.c = c.acc.c

/-- R36: a precise trap in system mode with trap-enable clear halts the context; no handler runs: `sepc`, the mode and the program counter
stay, and the Moot is told the cause, `sepc` and `seng`. -/
def Sys2Proof.Claims.DoubleFaultHaltsTheContext : Prop :=
  ∀ (s : State) (w : Who) (cause eng : Nat) (val : Word), (getCtx s w).acc.sys = true → (getCtx s w).csr.te = false →
    let c := getCtx s w
    let t := takeTrap s w cause val eng true
    let e := getCtx t w
    e.halted = true ∧ e.csr.sepc = c.csr.sepc ∧ e.csr.scause = c.csr.scause ∧ e.acc.sys = true ∧ e.acc.pc = c.acc.pc ∧
    { kind := 2, w := w, cause := cause, val := c.csr.sepc, eng := c.csr.seng.toNat } ∈ (getDie t w.die).moot

/-- Taking a trap: in system mode, delegated to user level, and within a trap. -/
def Obligations.TrapEntry : Prop :=
  Claims.TrapEntrySavesAndEntersSystemMode ∧ Claims.DelegatedFaultEntersUserHandler ∧ Claims.DoubleFaultHaltsTheContext

/-- R118 to R120: ECALL enters the trap 0x16 and EBREAK the breakpoint 0x12, both at the instruction's own address with value 0; SRET and
ULIRET return: SRET to `sepc` in the mode of PM with trap-enable set, ULIRET to `ulepc` with ULI clear. -/
def Obligations.SystemCallsAndReturns : Prop :=
  ∀ s : State,
    exec .ecall s = .next (takeTrap s (me s) 0x16 0 0 true) ∧ exec .ebreak s = .next (takeTrap s (me s) 0x12 0 0 true) ∧
    (Quiet s → Running s → (here s).acc.sys = true →
      ∃ t, exec .sret s = .next t ∧ (here t).acc.pc = (here s).csr.sepc ∧ (here t).acc.sys = (here s).csr.pm ∧ (here t).csr.te = true ∧
        (here t).acc.g = (here s).acc.g ∧ (here t).acc.uli = (here s).acc.uli) ∧
    (Quiet s → Running s → (here s).acc.uli = true →
      ∃ t, exec .uliret s = .next t ∧ (here t).acc.pc = (here s).csr.ulepc ∧ (here t).acc.uli = false ∧
        (here t).acc.gs = (here s).acc.gs ∧ (here t).acc.sys = (here s).acc.sys) ∧
    ((here s).acc.sys = false → exec .sret s = .next (takeTrap s (me s) 0x02 0x20000074 0 true)) ∧
    ((here s).acc.uli = false → exec .uliret s = .next (takeTrap s (me s) 0x01 0x18000074 0 true))

/-! ### Scratchpad scalars and the spill bank (04 R105, R106) -/

namespace Sys2Proof.Claims

/-- The number that `n` bytes make, the first the least significant. -/
def littleEndian (f : Nat → Byte) (n : Nat) : Nat := ((List.range n).map fun i => (f i).toNat * 256 ^ i).sum

/-- The `k`-th byte of a word. -/
def byteOf (v : Word) (k : Nat) : Byte := v.extractLsb' (8 * k) 8

/-- Bytes of an access of size `z`. -/
def nBytes : Size → Nat
  | .b => 1
  | .h => 2
  | .w => 4
  | .d => 8

/-- base + sext(off6, 6) × size. -/
def scaled (s : State) (b : GReg) (o : BitVec 6) (n : Nat) : Word := readG (here s) b + BitVec.ofInt 64 (o.toInt * n)

/-- The core of the stream that moves. -/
def hereCore (s : State) : Core := getCore s (me s)

/-- The scratchpad access meets no fault of its own: aligned, inside the scratchpad and the context's ways, no watchpoint, its tag entry not lost
(R105; 05 R126, R151, R154). -/
def ScratchAt (s : State) (a : Word) (n : Nat) (w : Bool) : Prop :=
  a.toNat % n = 0 ∧ a.toNat < 0x600000 ∧ (here s).ways.getLsbD (a.toNat / 4096 % 8) = true ∧
  watchHit (here s) false true (if w then .write else .read) a.toNat n = none ∧ spGet false (hereCore s).tagErr (a.toNat / 4096) = false

/-- Nothing of its own domain holds an access of the access core: no Carter command that overlaps, no acquire load before it (05 R145; 11
R263). -/
def OwnDomainFree (s : State) (o n : Nat) (w : Bool) : Prop := acqPending s (me s) = false ∧ carterBusy (here s) o n w = false

/-- No access of another domain clashes with it: Loom, Mill, a landing being written (05 R146). -/
def NoClash (s : State) (o n : Nat) (w : Bool) : Prop := OwnDomainFree s o n w ∧ localClash (hereCore s) (here s) o n w = none

/-- The range checker lets an access of the access core go on in this turn: it is in flight already, or nothing stands against it and the turn
takes it to its end (05 R144 to R146). -/
def RangeOpen (s : State) (o n : Nat) (w : Bool) : Prop :=
  (here s).acc.fly.isSome = true ∨ (s.cur.begins = false ∧ NoClash s o n w)

def ScratchOpen (s : State) (a : Word) (n : Nat) (w : Bool) : Prop := ScratchAt s a n w ∧ RangeOpen s a.toNat n w

/-- The lowest of the sectors that an access of `n` bytes at `a` shares with accesses of the Loom, the Mill and landings in flight, one of the
two a write. -/
def FirstRaced (s : State) (a : Word) (n : Nat) (w : Bool) (k : Nat) : Prop :=
  let used := millUses (here s) w ++ loomUses (here s) w ++ landUses (hereCore s)
  k ∈ used ∧ a.toNat / 32 ≤ k ∧ k ≤ (a.toNat + n - 1) / 32 ∧ ∀ j ∈ used, a.toNat / 32 ≤ j → j ≤ (a.toNat + n - 1) / 32 → k ≤ j

end Sys2Proof.Claims

/-- R105: LDL reads its bytes of the scratchpad, zero-extended; STL writes its own bytes and no other. -/
def Sys2Proof.Claims.ScratchpadScalarsReadAndWriteTheirBytes : Prop :=
  ∀ (s : State) (b : GReg) (o : BitVec 6) (z : Size), Quiet s →
    let n := nBytes z
    let a := scaled s b o n
    (∀ d : RC, Ready s [] [b] d → ScratchOpen s a n false → spMark (getCore s (me s)) (a.toNat / 32) = 0 →
      exec (.ldl d b o z) s =
        .next (wrote s [] d (BitVec.ofNat 64 (littleEndian (fun i => spByte (getCore s (me s)) (a.toNat + i)) n)))) ∧
    (∀ x : RC, Ready s [rcSrc x] [b] (.g 0) → ScratchOpen (takenAll s [rcSrc x]) a n true →
      ∃ t, exec (.stl x b o z) s = .next (retired s t .seq) ∧
        (∀ k, spByte (getCore t (me s)) k =
          if a.toNat ≤ k ∧ k < a.toNat + n then byteOf (srcVal s (rcSrc x)) (k - a.toNat) else spByte (getCore s (me s)) k) ∧
        (here t).acc = (here s).acc ∧ (here t).spill = (here s).spill ∧ (hereDie t).mem = (hereDie s).mem)

/-- 05 R144, R146: in a turn that takes it only to the start, a scalar access comes into flight over its bytes; nothing is read or written yet.
Rests on readings of the model: notes/assumptions/9.md. -/
def Sys2Proof.Claims.ScalarsComeIntoFlight : Prop :=
  ∀ (s : State) (b : GReg) (o : BitVec 6) (z : Size), Quiet s → s.cur.begins = true → (here s).acc.fly = none →
    let n := nBytes z
    let a := scaled s b o n
    let begun := fun (i : Instr) (w : Bool) =>
      exec i s = .next (modCtx s (me s) fun c => { c with acc := { c.acc with fly := some (a.toNat, n, w) } })
    (∀ d : RC, Ready s [] [b] d → ScratchAt s a n false → NoClash s a.toNat n false → begun (.ldl d b o z) false) ∧
    (∀ x : RC, Ready s [rcSrc x] [b] (.g 0) → ScratchAt (takenAll s [rcSrc x]) a n true → NoClash (takenAll s [rcSrc x]) a.toNat n true →
      begun (.stl x b o z) true)

/-- R106: SPL and FIL do the same in the job's spill bank. -/
def Sys2Proof.Claims.SpillBankReadsAndWritesItsBytes : Prop :=
  ∀ (s : State) (b : GReg) (o : BitVec 6) (z : Size) (r : GReg), Quiet s →
    let n := nBytes z
    let a := scaled s b o n
    a.toNat % n = 0 → a.toNat < 0x10000 →
    (Ready s [] [b] (.g r) → (∀ e ∈ (here s).spillErr, e.1 < a.toNat ∨ a.toNat + n ≤ e.1 ∨ e.2 = 0) →
      exec (.fil r b o z) s =
        .next (wrote s [] (.g r) (BitVec.ofNat 64 (littleEndian (fun i => memGet (here s).spill (a.toNat + i)) n)))) ∧
    (Ready s [.g r] [b] (.g 0) →
      ∃ t, exec (.spl r b o z) s = .next (retired s t .seq) ∧
        (∀ k, memGet (here t).spill k =
          if a.toNat ≤ k ∧ k < a.toNat + n then byteOf (readG (here s) r) (k - a.toNat) else memGet (here s).spill k) ∧
        (here t).acc = (here s).acc ∧ getCore t (me s) = coreSetCtx (getCore s (me s)) (me s).ctx (here t))

/-- 05 R144, R146: a scalar access of a sector that the Loom, the Mill or a landing has in flight, at least one of the two a write, traps with 0x0C and
the offset of the lowest such sector. -/
def Sys2Proof.Claims.RacingScalarsTrap : Prop :=
  ∀ (s : State) (b : GReg) (o : BitVec 6) (z : Size) (k : Nat), Quiet s →
    let n := nBytes z
    let a := scaled s b o n
    (∀ d : RC, Ready s [] [b] d → ScratchAt s a n false → (here s).acc.fly = none → OwnDomainFree s a.toNat n false → FirstRaced s a n false k →
      exec (.ldl d b o z) s = .next (takeTrap s (me s) 0x0C (BitVec.ofNat 64 (32 * k)) 0 true)) ∧
    (∀ x : RC, Ready s [rcSrc x] [b] (.g 0) → ScratchAt (takenAll s [rcSrc x]) a n true → (here s).acc.fly = none →
      OwnDomainFree s a.toNat n true → FirstRaced s a n true k →
      exec (.stl x b o z) s = .next (takeTrap s (me s) 0x0C (BitVec.ofNat 64 (32 * k)) 0 true))

/-- Scalars of the scratchpad and of the spill bank.
Rests on readings of the model: notes/assumptions/9.md. -/
def Obligations.ScratchpadAndSpillBank : Prop :=
  Claims.ScratchpadScalarsReadAndWriteTheirBytes ∧ Claims.ScalarsComeIntoFlight ∧ Claims.SpillBankReadsAndWritesItsBytes ∧ Claims.RacingScalarsTrap

/-! ### Channels and the scoreboard (04 R107 to R109) -/

/-- R107 to R109: CHCFG writes the configuration and empties the channel; a word that breaks its rules traps with the word as `sval`;
CHCNT reads the count and the configuration; SBW goes on once its slots are clear. -/
def Obligations.ChannelSetupAndScoreboard : Prop :=
  ∀ (s : State) (n : Fin 16) (b d : GReg), Quiet s →
    let v := readG (here s) b
    let x := getChan (here s) n.val
    (Ready s [.g b] [] (.g 0) → v.toNat < 512 → v.getLsbD 3 = false → v.getLsbD 7 = false →
      (v.toNat % 8 = 0 ∨ v.toNat % 8 = 1 ∨ v.toNat % 8 = 3 ∨ v.toNat % 8 = 4) →
      (v.toNat / 16 % 8 = 0 ∨ v.toNat / 16 % 8 = 1 ∨ v.toNat / 16 % 8 = 3 ∨ v.toNat / 16 % 8 = 4) →
      ∃ t, exec (.chcfg n b) s = .next (retired s t .seq) ∧ getChan (here t) n.val = { cfg := v } ∧
        ∀ k, k ≠ n.val → getChan (here t) k = getChan (here s) k) ∧
    (Ready s [.g b] [] (.g 0) → 512 ≤ v.toNat ∨ v.toNat % 8 = 2 ∨ 5 ≤ v.toNat % 8 →
      exec (.chcfg n b) s = .next (takeTrap s (me s) 0x01 v 0 true)) ∧
    (Ready s [] [] (.g d) →
      ∃ t, exec (.chcnt d n) s = .next (retired s t .seq) ∧
        (d.val ≠ 0 → readG (here t) d =
          BitVec.ofNat 64 (x.q.length + x.cfg.toNat / 256 % 2 * 256 + x.cfg.toNat % 8 * 65536 + x.cfg.toNat / 16 % 8 * 1048576)) ∧
        getChan (here t) n.val = x) ∧
    (∀ m : BitVec 7, (∀ a ∈ (hereDie s).acc, a.w = me s → a.sb ≠ 0 → m.getLsbD (a.sb - 1) = false) →
      exec (.sbw m) s = .next (retired s s .seq))

/-! ### Global accesses: issue (11 R258 to R266; 04 R110) -/

namespace Sys2Proof.Claims

/-- The translation that an access of the stream that moves gets for an address, and the state that its lookup leaves (13 R310, R311). -/
def xlated (s : State) (a : Word) : State × Option Xl := translate s (me s).die (.access (me s).core) (here s).dbg.xctx a

/-- The translation can enter the die's TLB (13 R313). -/
def XlRoom (s : State) (a : Word) : Prop := xlWaits s (me s).die (.access (me s).core) (here s).dbg.xctx a = false

/-- The checks of R258 pass: the address is a multiple of the size, it has the translation `l`, whose page has the attributes of `need`, and
no watchpoint of kind `kd` meets it. -/
def Reaches (s : State) (a : Word) (n : Nat) (l : Xl) (need : Word → Bool) (kd : WKind) : Prop :=
  a.toNat % n = 0 ∧ XlRoom s a ∧ (xlated s a).2 = some l ∧ need l.pte = true ∧ watchHit (here s) false false kd a.toNat n = none

/-- Page attributes by their bits (13 R308): read, write, atomic, bundle, cached, memory. -/
def mayLoad (e : Word) : Bool := e.getLsbD 2

def mayStore (e : Word) : Bool := e.getLsbD 3 && !(e.getLsbD 5)

def mayAtom (e : Word) : Bool :=
  e.getLsbD 2 && e.getLsbD 3 && e.getLsbD 4 && !(e.getLsbD 5) && !(decide (2 ≤ e.toNat / 128 % 4) && !(e.getLsbD 6))

/-- Scoreboard slot `k` counts fewer than 15 accesses of the stream; slot 0 is none (02 R49). -/
def SlotRoom (s : State) (k : Nat) : Prop := k = 0 ∨ ((hereDie s).acc.filter fun a => a.w == me s && a.sb == k).length < 15

/-- `t` is `s` with one access more in flight, `x` under the next number. -/
def InFlight (s t : State) (x : Access) : Prop :=
  (hereDie t).acc = (hereDie s).acc ++ [{ x with id := (hereDie s).nextId + 1 }] ∧ (hereDie t).nextId = (hereDie s).nextId + 1

/-- Nothing but an access in flight has changed: the registers, what the memories hold. -/
def OnlyIssued (s t : State) : Prop :=
  (here t).acc = (here s).acc ∧ (here t).csr = (here s).csr ∧ (∀ e, (getDie t e).mem = (getDie s e).mem) ∧ t.host = s.host ∧
  t.pkgs = s.pkgs ∧ t.net = s.net

/-- A channel destination has an entry reserved for the access's result (R264). -/
def EntryReserved (s t : State) : RC → Prop
  | .g _ => True
  | .ch n => (getChan (here t) n.val).q = (getChan (here s) n.val).q ++ [{ filled := false, id := (hereDie s).nextId + 1 }]

/-- The load `i` issues: destination, base, offset, slot, size, non-temporal, acquire code. -/
def LoadIssues (s : State) (i : Instr) (d : RC) (b : GReg) (o : BitVec 6) (k : Fin 8) (z : Size) (nt : Bool) (acq : Nat) : Prop :=
  let n := nBytes z
  let a := scaled s b o n
  Ready s [] [b] d → SlotRoom s k.val → ∀ l, Reaches s a n l mayLoad .read →
    let s1 := (xlated s a).1
    ∃ t, exec i s = .next (retired s t .seq) ∧
      InFlight s1 t { mkAcc (me s) .load a n l with sb := k.val, nt := nt, acq := acq, dest := (destOf s1 d).2 } ∧ OnlyIssued s1 t ∧
      EntryReserved s1 t d

/-- The store `i` issues: data, base, offset, slot, size, non-temporal, release code.  One that releases at system scope has its permits
entered (15 R372). -/
def StoreIssues (s : State) (i : Instr) (x : RC) (b : GReg) (o : BitVec 6) (k : Fin 8) (z : Size) (nt : Bool) (rel : Nat) : Prop :=
  let n := nBytes z
  let a := scaled s b o n
  Ready s [rcSrc x] [b] (.g 0) → SlotRoom s k.val → (rel = 6 → grantsOut s (me s) = false) → ∀ l, Reaches s a n l mayStore .write →
    let s1 := (xlated s a).1
    ∃ t, exec i s = .next (retired s t .seq) ∧
      InFlight s1 t { mkAcc (me s) .store a n l with val := srcVal s (rcSrc x), sb := k.val, nt := nt, rel := rel } ∧
      OnlyIssued (takenAll s1 [rcSrc x]) t

/-- The size of an atomic. -/
def atomBytes (z : Bool) : Nat := if z then 8 else 4

/-- The atomic `i` issues: operation code, destination, address register, operand, whether the size is 8. -/
def AtomIssues (s : State) (i : Instr) (op : Nat) (d : RC) (a : GReg) (b : Src) (z : Bool) : Prop :=
  let va := readG (here s) a
  let n := atomBytes z
  Ready s [b] [a] d → ∀ l, Reaches s va n l mayAtom .atomic →
    let s1 := takenAll (xlated s va).1 [b]
    ∃ t, exec i s = .next (retired s t .seq) ∧
      InFlight s1 t { mkAcc (me s) (.atom op) va n l with val := srcVal s b, dest := (destOf s1 d).2 } ∧ OnlyIssued s1 t ∧ EntryReserved s1 t d

/-- The scopes that an acquire or a release word can name, with their codes. -/
def ordScopes : List (Scope × Nat) := [(.co, 2), (.cl, 3), (.di, 4), (.pk, 5)]

end Sys2Proof.Claims

/-- R258 to R260, R263, R264: every load whose checks pass issues and goes on: one access more is in flight, with its address, size,
slot, attributes and destination; no register and no memory changes yet. -/
def Sys2Proof.Claims.LoadsIssueOneAccess : Prop :=
  ∀ (s : State) (d b : GReg) (n : Fin 16) (o : BitVec 6) (k : Fin 8) (z : Size), Quiet s →
    LoadIssues s (.ld d b o k z) (.g d) b o k z false 0 ∧
    LoadIssues s (.ldNt d b o k z) (.g d) b o k z true 0 ∧
    LoadIssues s (.ldq n b o k z) (.ch n) b o k z false 0 ∧
    (∀ p ∈ ordScopes, LoadIssues s (.ldAcq d b o k z p.1) (.g d) b o k z false p.2) ∧
    LoadIssues s (.ldAcqSy d b o k z) (.g d) b o k z false 6

/-- R258, R259, R261, R263: every store whose checks pass issues and goes on, its data taken; memory does not change yet. -/
def Sys2Proof.Claims.StoresIssueOneAccess : Prop :=
  ∀ (s : State) (x : RC) (b : GReg) (o : BitVec 6) (k : Fin 8) (z : Size), Quiet s →
    StoreIssues s (.st x b o k z) x b o k z false 0 ∧
    StoreIssues s (.stNt x b o k z) x b o k z true 0 ∧
    (∀ p ∈ ordScopes, StoreIssues s (.stRel x b o k z p.1) x b o k z false p.2) ∧
    StoreIssues s (.stRelSy x b o k z) x b o k z false 6

/-- R265, R266: every ATOM and CAS whose checks pass issues with its operand; CAS also with the expected value that rd holds at issue. -/
def Sys2Proof.Claims.AtomicsIssueOneAccess : Prop :=
  ∀ (s : State) (d : RC) (a : GReg) (b : Src) (z : Bool), Quiet s →
    AtomIssues s (.atomAdd d a b z) 0 d a b z ∧ AtomIssues s (.atomSub d a b z) 1 d a b z ∧ AtomIssues s (.atomAnd d a b z) 2 d a b z ∧
    AtomIssues s (.atomOr d a b z) 3 d a b z ∧ AtomIssues s (.atomXor d a b z) 4 d a b z ∧ AtomIssues s (.atomMin d a b z) 5 d a b z ∧
    AtomIssues s (.atomMax d a b z) 6 d a b z ∧ AtomIssues s (.atomMinu d a b z) 7 d a b z ∧ AtomIssues s (.atomMaxu d a b z) 8 d a b z ∧
    AtomIssues s (.atomXchg d a b z) 9 d a b z ∧
    ∀ (q : GReg) (l : Xl), Ready s [b] [a, q] (.g q) → Reaches s (readG (here s) a) (atomBytes z) l mayAtom .atomic →
      let s1 := takenAll (xlated s (readG (here s) a)).1 [b]
      ∃ t, exec (.cas q a b z) s = .next (retired s t .seq) ∧
        InFlight s1 t { mkAcc (me s) .cas (readG (here s) a) (atomBytes z) l with
          val := srcVal s b, exp := readG (here s) q, dest := (destOf s1 (.g q)).2 } ∧ OnlyIssued s1 t

/-- Loads, stores and atomics issue one access.
Rests on readings of the model: notes/assumptions/8.md. -/
def Obligations.GlobalAccessesIssue : Prop :=
  Claims.LoadsIssueOneAccess ∧ Claims.StoresIssueOneAccess ∧ Claims.AtomicsIssueOneAccess

/-- R110: LDCR and STCR issue an access to their 16-byte granule; STCR of a tagged capability needs GLOBAL (0x08) and this die's HBM
(0x06). -/
def Sys2Proof.Claims.CapabilityGranuleAccessesIssue : Prop :=
  ∀ (s : State) (c : CapReg) (b : GReg) (o : BitVec 6) (k : Fin 8) (l : Xl), Quiet s → Ready s [] [b] (.g 0) → SlotRoom s k.val →
    pendingC s (me s) c = false →
    let a := scaled s b o 16
    let s1 := (xlated s a).1
    let v := readCap (here s) c
    (Reaches s a 16 l mayLoad .read →
      ∃ t, exec (.ldcr c b o k) s = .next (retired s t .seq) ∧
        InFlight s1 t { mkAcc (me s) .capLoad a 16 l with sb := k.val, dest := .cap c.val } ∧ OnlyIssued s1 t) ∧
    (lostC (here s) c = false → Reaches s a 16 l mayStore .write →
      ((v.tag = false ∨ v.bits.getLsbD 85 = true ∧ l.sp = .hbm) →
        ∃ t, exec (.stcr c b o k) s = .next (retired s t .seq) ∧
          InFlight s1 t { mkAcc (me s) .capStore a 16 l with sb := k.val, capv := v } ∧ OnlyIssued s1 t) ∧
      (v.tag = true → v.bits.getLsbD 85 = false →
        exec (.stcr c b o k) s = .next (takeTrap s (me s) 0x08 (v.bits.extractLsb' 0 64) 0 true)) ∧
      (v.tag = true → v.bits.getLsbD 85 = true → l.sp ≠ .hbm →
        exec (.stcr c b o k) s = .next (takeTrap s (me s) 0x06 (v.bits.extractLsb' 0 64) 0 true)))

/-- R258: the first check that fails is the trap taken, with the address as `sval`: misaligned 0x03, not present 0x04, no read attribute
0x05, a watchpoint 0x13; the load issues nothing. -/
def Sys2Proof.Claims.LoadChecksTrapInOrder : Prop :=
  ∀ (s : State) (d b : GReg) (o : BitVec 6) (k : Fin 8) (z : Size), Ready s [] [b] (.g d) → SlotRoom s k.val →
    let n := nBytes z
    let a := scaled s b o n
    let trap := fun c => exec (.ld d b o k z) s = .next (takeTrap s (me s) c a 0 true)
    let x := xlated s a
    (a.toNat % n ≠ 0 → trap 0x03) ∧
    (a.toNat % n = 0 → XlRoom s a → x.2 = none → trap 0x04) ∧
    (∀ l, a.toNat % n = 0 → XlRoom s a → x.2 = some l → mayLoad l.pte = false → trap 0x05) ∧
    (∀ l m, a.toNat % n = 0 → XlRoom s a → x.2 = some l → mayLoad l.pte = true → watchHit (here s) false false .read a.toNat n = some m →
      exec (.ld d b o k z) s = .next (takeTrap s (me s) 0x13 (BitVec.ofNat 64 m) 0 true))

/-- Capability granules, and the traps that a global load meets, in their order. -/
def Obligations.GranulesAndTheChecksOfALoad : Prop :=
  Claims.CapabilityGranuleAccessesIssue ∧ Claims.LoadChecksTrapInOrder

/-! ### Global accesses: completion (10 R240, R242; 11 R260, R261, R265, R266) -/

namespace Sys2Proof.Claims

/-- Access `a` of the die that the event names can be performed now. -/
def Performable (s : State) (a : Access) : Prop :=
  accAt (getDie s s.ev.w.die) s.ev.k = some a ∧ a.w.die = s.ev.w.die ∧ a.ready = false ∧ accReady (getDie s s.ev.w.die) a = true

/-- It is an access to this die's HBM, of at most 8 bytes, without a scope beyond the die, and its sectors carry no error. -/
def PlainHbm (s : State) (a : Access) : Prop :=
  a.sp = .hbm ∧ a.bn = false ∧ a.acq < 5 ∧ a.rel < 5 ∧ 0 < a.size ∧ a.size ≤ 8 ∧ physErr s a.w.die .hbm a.pa a.size = none

/-- No earlier store of its own stream overlaps it. -/
def NoOwnStore (s : State) (a : Access) : Prop := ∀ x ∈ (getDie s a.w.die).acc, x.kind = .store → accMeets x a = false

/-- The number that `n` bytes of a die's HBM hold. -/
def hbmWord (s : State) (d pa n : Nat) : Nat := littleEndian (fun i => memGet (getDie s d).mem.hbm (pa + i)) n

/-- The number that the bytes of an access hold. -/
def hbmNat (s : State) (a : Access) : Nat := hbmWord s a.w.die a.pa a.size

/-- What the stream sees of a completed access with the value `v`: its register, and the access gone from the list. -/
def Delivered (s t : State) (a : Access) (v : Nat) : Prop :=
  (∀ r, a.dest = .g r false → r ≠ 0 → spGet 0 (getCtx t a.w).acc.g r = BitVec.ofNat 64 v) ∧
  (∀ r, a.dest = .g r true → spGet 0 (getCtx t a.w).acc.gs r = BitVec.ofNat 64 v) ∧
  (getDie t a.w.die).acc = (getDie s a.w.die).acc.filter fun x => x.id ≠ a.id

/-- Every byte and every tag of every die's HBM, and the host's memory, stay. -/
def SameBytes (s t : State) : Prop :=
  (∀ e, (getDie t e).mem.hbm = (getDie s e).mem.hbm ∧ (getDie t e).mem.htags = (getDie s e).mem.htags) ∧ t.host = s.host

/-- Exactly the `n` bytes from `pa` of a die's HBM are written, with the bytes of `v`; the granules they touch lose their tags. -/
def WroteHbm (s t : State) (d pa n v : Nat) : Prop :=
  (∀ p, memGet (getDie t d).mem.hbm p =
    if pa ≤ p ∧ p < pa + n then BitVec.ofNat 8 (v / 256 ^ (p - pa)) else memGet (getDie s d).mem.hbm p) ∧
  (∀ g, spGet false (getDie t d).mem.htags g =
    if pa / 16 ≤ g ∧ g ≤ (pa + n - 1) / 16 then false else spGet false (getDie s d).mem.htags g) ∧
  ∀ e, e ≠ d → (getDie t e).mem.hbm = (getDie s e).mem.hbm ∧ (getDie t e).mem.htags = (getDie s e).mem.htags

/-- The new value of an atomic on `m` bits (R265). -/
def atomValue (m op : Nat) (x y : BitVec m) : BitVec m :=
  match op with
  | 0 => x + y
  | 1 => x - y
  | 2 => x &&& y
  | 3 => x ||| y
  | 4 => x ^^^ y
  | 5 => if x.toInt ≤ y.toInt then x else y
  | 6 => if x.toInt ≤ y.toInt then y else x
  | 7 => if x.toNat ≤ y.toNat then x else y
  | 8 => if x.toNat ≤ y.toNat then y else x
  | _ => y

end Sys2Proof.Claims

/-- R240, R260, R261: a load completes with its bytes, little-endian and zero-extended, in its register; a store completes by writing its
own bytes and no other, the granules it touches losing their tags; a granule load fills its capability register with the bytes and the
tag, a granule store writes both; the read of a descriptor's image finds its bytes. -/
def Sys2Proof.Claims.LoadsAndStoresCompleteInMemory : Prop :=
  ∀ (s : State) (a : Access), Performable s a →
    (a.kind = .load → PlainHbm s a → NoOwnStore s a →
      ∃ t, exec .accessComplete s = .next t ∧ Delivered s t a (hbmNat s a) ∧ SameBytes s t) ∧
    (a.kind = .store → PlainHbm s a →
      ∃ t, exec .accessComplete s = .next t ∧ WroteHbm s t a.w.die a.pa a.size a.val.toNat ∧ t.host = s.host ∧
        (getDie t a.w.die).acc = (getDie s a.w.die).acc.filter (fun x => x.id ≠ a.id) ∧ getCtx t a.w = getCtx s a.w) ∧
    (∀ c, a.kind = .capLoad → a.sp = .hbm → a.bn = false → a.acq = 0 → a.size = 16 → a.dest = .cap c →
      physErr s a.w.die .hbm a.pa 16 = none →
      ∃ t, exec .accessComplete s = .next t ∧ SameBytes s t ∧
        spGet {} (getCtx t a.w).acc.c c =
          { bits := BitVec.ofNat 128 (hbmNat s a), tag := spGet false (getDie s a.w.die).mem.htags (a.pa / 16) }) ∧
    (a.kind = .capStore → a.sp = .hbm → a.rel = 0 → a.size = 16 → a.pa % 16 = 0 →
      ∃ t, exec .accessComplete s = .next t ∧ hbmWord t a.w.die a.pa 16 = a.capv.bits.toNat ∧
        spGet false (getDie t a.w.die).mem.htags (a.pa / 16) = a.capv.tag ∧ getCtx t a.w = getCtx s a.w) ∧
    (a.kind = .image → a.sp = .hbm → a.bn = false → a.acq = 0 → a.size = 64 → physErr s a.w.die .hbm a.pa 64 = none →
      ∃ t x, exec .accessComplete s = .next t ∧ x ∈ (getDie t a.w.die).acc ∧ x.id = a.id ∧ x.ready = true ∧ x.fail = a.fail ∧
        leNat x.data = hbmNat s a ∧ SameBytes s t)

/-- R242, R243, R265, R266: an atomic whose turn has come among the requests of its cycle is performed in one step: the old value reaches its
register, the new one its bytes; CAS writes only where the old value is the expected one. -/
def Sys2Proof.Claims.AtomicsReadAndWriteInOneStep : Prop :=
  ∀ (s : State) (a : Access), Performable s a → PlainHbm s a → (a.size = 4 ∨ a.size = 8) → quietDie (getDie s a.w.die) = true →
    (atomPos s a.w.die (atomKey a) (a.w.core * 2 + a.w.ctx)).isSome = true →
    let m := 8 * a.size
    let old := hbmNat s a
    let b := BitVec.ofNat m a.val.toNat
    (∀ op, a.kind = .atom op →
      ∃ t, exec .atomicPerform s = .next t ∧ Delivered s t a old ∧
        WroteHbm s t a.w.die a.pa a.size (atomValue m op (BitVec.ofNat m old) b).toNat) ∧
    (a.kind = .cas → old = a.exp.toNat % 2 ^ m →
      ∃ t, exec .atomicPerform s = .next t ∧ Delivered s t a old ∧ WroteHbm s t a.w.die a.pa a.size b.toNat) ∧
    (a.kind = .cas → old ≠ a.exp.toNat % 2 ^ m →
      ∃ t, exec .atomicPerform s = .next t ∧ Delivered s t a old ∧ SameBytes s t)

namespace Sys2Proof.Claims

/-- The instruction `i` goes on to a state from which the event `j` performs the access it has issued, to a state for which `P` holds. -/
def IssuesThen (s : State) (i j : Instr) (P : State → Prop) : Prop :=
  ∃ t, exec i s = .next t ∧ ∃ u, exec j { t with ev := { w := me s, k := (hereDie s).nextId + 1 } } = .next u ∧ P u

/-- An access of `n` bytes at `a` finds its page in this die's HBM, no bundle page, at `l`, with the attributes of `need`, and its sectors
carry no error; no other access is in flight on the die, and the stream is not stepped. -/
def AloneInHbm (s : State) (a : Word) (n : Nat) (l : Xl) (need : Word → Bool) (kd : WKind) : Prop :=
  Running s ∧ (hereDie s).acc = [] ∧ Reaches s a n l need kd ∧ l.sp = .hbm ∧ pteBN l.pte = false ∧
  physErr (xlated s a).1 (me s).die .hbm l.pa n = none

end Sys2Proof.Claims

/-- R240, R259 to R261, R263, R264: from issue to completion, with no other access under way, a load brings the bytes of its address, zero-extended,
into its register or channel, and a store writes its own bytes and no other, whatever its scope, its temporal hint and its scoreboard slot. -/
def Sys2Proof.Claims.LoadsAndStoresDoTheirWork : Prop :=
  ∀ (s : State) (b : GReg) (o : BitVec 6) (k : Fin 8) (z : Size) (l : Xl), Quiet s →
    let n := nBytes z
    let a := scaled s b o n
    let v : Word := BitVec.ofNat 64 (hbmWord s (me s).die l.pa n)
    (∀ d : GReg, Ready s [] [b] (.g d) → AloneInHbm s a n l mayLoad .read →
      let loads := fun i => IssuesThen s i .accessComplete fun u =>
        (d ≠ 0 → readG (here u) d = v) ∧ (∀ r, r ≠ d → readG (here u) r = readG (here s) r) ∧
          (∀ e, (getDie u e).mem.hbm = (getDie s e).mem.hbm)
      loads (.ld d b o k z) ∧ loads (.ldNt d b o k z) ∧ (∀ p ∈ ordScopes, loads (.ldAcq d b o k z p.1)) ∧ loads (.ldAcqSy d b o k z)) ∧
    (∀ c : Fin 16, Ready s [] [b] (.ch c) → AloneInHbm s a n l mayLoad .read → (∀ e ∈ (getChan (here s) c.val).q, e.filled = true) →
      IssuesThen s (.ldq c b o k z) .accessComplete fun u =>
        (getChan (here u) c.val).q = (getChan (here s) c.val).q ++ [{ val := v }] ∧ (∀ r, readG (here u) r = readG (here s) r)) ∧
    (∀ x : RC, Ready s [rcSrc x] [b] (.g 0) → AloneInHbm s a n l mayStore .write → grantsOut s (me s) = false →
      let stores := fun i => IssuesThen s i .accessComplete fun u =>
        WroteHbm s u (me s).die l.pa n (srcVal s (rcSrc x)).toNat ∧ ∀ r, readG (here u) r = readG (here s) r
      stores (.st x b o k z) ∧ stores (.stNt x b o k z) ∧ (∀ p ∈ ordScopes, stores (.stRel x b o k z p.1)) ∧ stores (.stRelSy x b o k z))

/-- R242, R265, R266, R110: the same of atomics, which leave the old value in rd and the new one at the address, and of granules, whose tag goes
with their bytes. -/
def Sys2Proof.Claims.AtomicsAndGranulesDoTheirWork : Prop :=
  ∀ (s : State) (b : GReg) (l : Xl), Quiet s →
    (∀ (d : GReg) (y : Src) (z : Bool), Ready s [y] [b, d] (.g d) → AloneInHbm s (readG (here s) b) (atomBytes z) l mayAtom .atomic →
      (atomPos s (me s).die (l.pa / 128 * 4) ((me s).core * 2 + (me s).ctx)).isSome = true →
      let n := atomBytes z
      let m := 8 * n
      let old := hbmWord s (me s).die l.pa n
      let x := BitVec.ofNat m (srcVal s y).toNat
      let gives := fun i v => IssuesThen s i .atomicPerform fun u =>
        (d ≠ 0 → readG (here u) d = BitVec.ofNat 64 old) ∧ (∀ r, r ≠ d → readG (here u) r = readG (here s) r) ∧ WroteHbm s u (me s).die l.pa n v
      let makes := fun i op => gives i (atomValue m op (BitVec.ofNat m old) x).toNat
      makes (.atomAdd (.g d) b y z) 0 ∧ makes (.atomSub (.g d) b y z) 1 ∧ makes (.atomAnd (.g d) b y z) 2 ∧ makes (.atomOr (.g d) b y z) 3 ∧
      makes (.atomXor (.g d) b y z) 4 ∧ makes (.atomMin (.g d) b y z) 5 ∧ makes (.atomMax (.g d) b y z) 6 ∧ makes (.atomMinu (.g d) b y z) 7 ∧
      makes (.atomMaxu (.g d) b y z) 8 ∧ makes (.atomXchg (.g d) b y z) 9 ∧
      (old = (readG (here s) d).toNat % 2 ^ m → gives (.cas d b y z) x.toNat)) ∧
    (∀ (c : CapReg) (o : BitVec 6) (k : Fin 8), Ready s [] [b] (.g 0) →
      let a := scaled s b o 16
      (AloneInHbm s a 16 l mayLoad .read →
        IssuesThen s (.ldcr c b o k) .accessComplete fun u => spGet {} (here u).acc.c c.val =
          { bits := BitVec.ofNat 128 (hbmWord s (me s).die l.pa 16), tag := spGet false (hereDie s).mem.htags (l.pa / 16) }) ∧
      (AloneInHbm s a 16 l mayStore .write → lostC (here s) c = false →
        let v := readCap (here s) c
        (v.tag = false ∨ v.bits.getLsbD 85 = true) → l.pa % 16 = 0 →
        IssuesThen s (.stcr c b o k) .accessComplete fun u =>
          hbmWord u (me s).die l.pa 16 = v.bits.toNat ∧ spGet false (hereDie u).mem.htags (l.pa / 16) = v.tag))

/-- 13 R329, R330, R332: the end-to-end check of bytes is the CRC of polynomial 0x8BB7 with initial value 0, taken bit by bit, the most significant of
each byte first; of zeros it is 0; a sector with a check on record is good where that is the check of its bytes, and has failed where it is not. -/
def Sys2Proof.Claims.SectorChecks : Prop :=
  (∀ bs, t10Dif bs =
    (bs.flatMap fun b => (List.range 8).map fun k => b.getLsbD (7 - k)).foldl
      (fun (c : BitVec 16) x => if c.msb != x then (c <<< 1) ^^^ 0x8BB7#16 else c <<< 1) 0) ∧
  (∀ n, t10Dif (List.replicate n 0) = 0) ∧
  ∀ (m : MemSt) (k c : Nat), spGet 0 m.herr k = c + 16 → hbmMark m k = if c = (t10Dif (memRead m.hbm (32 * k) 32)).toNat then 0 else 2

/-- What an issued load, store, atomic or granule access does when it completes, and what each does from issue to completion; the check of a sector.
Rests on readings of the model: notes/assumptions/8.md. -/
def Obligations.AccessesCompleteInMemory : Prop :=
  Claims.LoadsAndStoresCompleteInMemory ∧ Claims.AtomicsReadAndWriteInOneStep ∧ Claims.LoadsAndStoresDoTheirWork ∧
  Claims.AtomicsAndGranulesDoTheirWork ∧ Claims.SectorChecks

/-! ### Fences and cache maintenance (11 R269, R270) -/

namespace Sys2Proof.Claims

/-- The code of a scope (10 R246). -/
def scopeCode : Scope → Nat
  | .st => 0
  | .co => 1
  | .cl => 2
  | .di => 3
  | .pk => 4
  | .sy => 5

/-- A fence with an acquire or a release part, at scope `k`. -/
def Fences (s : State) (acq rel : Bool) (k : Nat) (i : Instr) : Prop :=
  ((∀ a ∈ (hereDie s).acc, a.w ≠ me s) → (k = 5 → rel = true → grantsOut s (me s) = false) →
    ∃ t, exec i s = .next (retired s t .seq) ∧ (k < 4 → t = s) ∧ here t = here s ∧
      (4 ≤ k → rel = true → ∀ l, (gLine (hereDie t).mem l).dirty = []) ∧
      (4 ≤ k → acq = true → ∀ l j, spGet false (gLine (hereDie t).mem l).held j = true → spGet false (gLine (hereDie t).mem l).dirty j = true) ∧
      (k = 5 → rel = true → wcBuf t (me s).die ((me s).core / 8) = []) ∧
      (hereDie t).mem.hbm = (hereDie s).mem.hbm) ∧
  ((∃ a ∈ (hereDie s).acc, a.w = me s ∧ a.kind ≠ .result ∧ (rel = true ∨ a.kind ≠ .store ∧ a.kind ≠ .capStore ∧ a.kind ≠ .rstore)) →
    exec i s = .next s)

end Sys2Proof.Claims

/-- R269, R246, 15 R372: a fence whose earlier accesses have completed, and at system scope its permits entered, goes on: at die scope and narrower it
changes nothing else; at package scope and wider a release leaves no dirty Granary byte of the die and an acquire no clean one; at system scope a
release empties the cluster's write-combining buffer.  While an access it waits for is in flight it is held. -/
def Sys2Proof.Claims.FencesWaitAndGoOn : Prop :=
  ∀ (s : State), Quiet s →
    (∀ sc, Fences s true true (scopeCode sc) (.fenceAll sc) ∧ Fences s true false (scopeCode sc) (.fenceAcq sc)) ∧
    Fences s false true 0 .fenceRelSt ∧ Fences s false true 1 .fenceRelCo ∧ Fences s false true 2 .fenceRelCl ∧ Fences s false true 3 .fenceRelDi ∧
    Fences s false true 4 .fenceRelPk ∧ Fences s false true 5 .fenceRelSy

/-- R270: CWB and CINV on a range whose pages are present go on, whatever the lines held: HBM, the host and the registers stay; a length of
0 makes them NOPs, one above 0x0100_0000 raises 0x01. -/
def Sys2Proof.Claims.CacheMaintenanceCompletes : Prop :=
  ∀ (s : State) (a : GReg) (b : Src) (sc : Scope), Quiet s → Ready s [b] [a] (.g 0) → (∀ c, b ≠ .peek c) →
    let n := (srcVal s b).toNat
    let va := (readG (here s) a).toNat
    let lo := va / 128 * 128
    let len := (va + n + 127) / 128 * 128 - lo
    (0x1000000 < n → exec (.cwb a b sc) s = .next (takeTrap s (me s) 0x01 (wordOf (.cwb a b sc)) 0 true) ∧
      exec (.cinv a b sc) s = .next (takeTrap s (me s) 0x01 (wordOf (.cinv a b sc)) 0 true)) ∧
    (n = 0 → exec (.cwb a b sc) s = .next (retired s (takenAll s [b]) .seq) ∧
      exec (.cinv a b sc) s = .next (retired s (takenAll s [b]) .seq)) ∧
    (∀ s1 ls, 0 < n → n ≤ 0x1000000 → (∀ x ∈ (hereDie s).acc, x.w ≠ me s) →
      translateRange (takenAll s [b]) (me s).die (.access (me s).core) (here s).dbg.xctx (BitVec.ofNat 64 lo) (fun _ => true) (granules lo len) =
        (s1, .ok ls) →
      ∀ i, i = .cwb a b sc ∨ i = .cinv a b sc →
        ∃ t, exec i s = .next (retired s t .seq) ∧ here t = here (takenAll s [b]) ∧ (hereDie t).mem.hbm = (hereDie s).mem.hbm ∧
          t.host = s.host)

/-- Fences and the maintenance of caches.
Rests on readings of the model: notes/assumptions/5.md, notes/assumptions/32.md, notes/assumptions/61.md. -/
def Obligations.FencesAndCacheMaintenance : Prop :=
  Claims.FencesWaitAndGoOn ∧ Claims.CacheMaintenanceCompletes

/-! ### Tile tags and permits (05 R132 to R137; 08 R208 to R218) -/

namespace Sys2Proof.Claims

/-- Instruction `i` completes in `s`: the effect makes some state `t` for which `P` holds, `v` goes to the destination `d`, and the stream
goes on to the next word. -/
def Completes (s : State) (i : Instr) (d : RC) (v : Word) (P : State → Prop) : Prop :=
  ∃ t, exec i s = .next (retired s (putDst t d v) .seq) ∧ P t

/-- The same for an instruction without a destination. -/
def CompletesWith (s : State) (i : Instr) (P : State → Prop) : Prop := ∃ t, exec i s = .next (retired s t .seq) ∧ P t

/-- It takes the trap `cause` with the value `v`, and has no effect. -/
def Traps (s : State) (i : Instr) (cause : Nat) (v : Word) : Prop := exec i s = .next (takeTrap s (me s) cause v 0 true)

/-- It waits with a WKIND on an object. -/
def Waits (s : State) (i : Instr) (k : Nat) (obj aux : Word) : Prop := exec i s = .next (enterWait s (me s) .access k obj aux)

/-- A tile offset that `check_tile` accepts (R208). -/
def TileOffset (s : State) (o : Word) : Prop :=
  o.toNat < 0x600000 ∧ o.toNat % 4096 = 0 ∧ (here s).ways.getLsbD (o.toNat / 4096 % 8) = true

/-- No tag entry of the core is lost (05 R154). -/
def TagsGood (s : State) : Prop := ∀ j, spGet false (hereCore s).tagErr j = false

/-- FULL of slot `j` may become `b` in this cycle (05 R135): no change that comes later in the cycle's order has been made, and nobody else has
observed it in this cycle. -/
def FullTurn (s : State) (j : Nat) (b : Bool) : Prop := tagTurn s (me s) j b 0 = true

/-- The set of a global address (R132). -/
def setOf (a : Word) : Nat :=
  let x := a.extractLsb' 12 14
  64 * (x.toNat % 3) + (x.extractLsb' 0 6 ^^^ x.extractLsb' 6 6 ^^^ (x.extractLsb' 12 2).zeroExtend 6).toNat

/-- The slots of a set that the context's ways allow. -/
def slotsIn (s : State) (t : Nat) : List Nat := ((List.range 8).filter fun w => (here s).ways.getLsbD w).map (8 * t + ·)

/-- Fields of a tag entry (R133). -/
def entry (s : State) (j : Nat) : Word := spGet 0 (hereCore s).tags j

def entryValid (s : State) (j : Nat) : Bool := (entry s j).getLsbD 0

def entryFull (s : State) (j : Nat) : Bool := (entry s j).getLsbD 1

def entryPin (s : State) (j : Nat) : Bool := (entry s j).getLsbD 3

def entryPcnt (s : State) (j : Nat) : Nat := (entry s j).toNat / 256 % 256

def entryGtag (s : State) (j : Nat) : Nat := (entry s j).toNat / 65536

/-- The tile of a global address (02 R68). -/
def tileNo (a : Word) : Nat := (a.extractLsb' 12 48).toNat

/-- Slot `j` holds the tile of `a`. -/
def holdsTile (s : State) (a : Word) (j : Nat) : Bool := entryValid s j && entryGtag s j == tileNo a

/-- A slot or wait word: offset, option bit, nothing else. -/
def slotWord (x : Word) : Prop := x.toNat / 2 ^ 23 % 2 ^ 9 = 0 ∧ x.toNat / 2 ^ 33 = 0

def wordOffset (x : Word) : Word := (x.extractLsb' 0 23).zeroExtend 64

/-- A grant target of R209 whose die exists. -/
def grantTarget (s : State) (v : Word) : Prop :=
  v.toNat < 2 ^ 22 ∧ (v.getLsbD 21 = true → v.getLsbD 20 = true) ∧ dieOk s (v.toNat % 2 ^ 15) = true

/-- Every entry stays, or every entry but that of slot `j`. -/
def TagsStay (s t : State) : Prop := ∀ k, entry t k = entry s k

def OtherTagsStay (s t : State) (j : Nat) : Prop := ∀ k, k ≠ j → entry t k = entry s k

/-- The tile of slot `j` reads as zeros. -/
def TileZero (t : State) (j : Nat) : Prop := ∀ k, k / 4096 = j → spByte (hereCore t) k = 0

/-- Slot `j` gains a permit, and a message takes it to the target `v` (R209, R218). -/
def Granted (s t : State) (j : Nat) (v : Word) : Prop :=
  entryPcnt t j = entryPcnt s j + 1 ∧ entryGtag t j = entryGtag s j ∧
  ∃ m, t.net = s.net ++ [m] ∧ m.kind = .permit ∧ m.src = (me s).die ∧ m.dst = v.toNat % 2 ^ 15 ∧ m.opnd.toNat = entryGtag s j ∧ m.opnd2 = v

end Sys2Proof.Claims

/-- R132, R212, R214: TLKP finds the lowest slot of the set, among the context's ways, that holds the address's tile, or gives -1; TSTAT
gives the entry. -/
def Sys2Proof.Claims.TagLookupsReadTheEntries : Prop :=
  ∀ (s : State) (d : RC) (a : Src), Quiet s → TagsGood s → Ready s [a] [] d →
    let x := srcVal s a
    Completes s (.tlkp d a) d (match (slotsIn s (setOf x)).find? (holdsTile s x) with
        | some j => BitVec.ofNat 64 j
        | none => BitVec.allOnes 64) (TagsStay s) ∧
    (TileOffset s x → Completes s (.tstat d a) d (entry s (x.toNat / 4096)) (TagsStay s))

/-- R213: TSET and TINV give the status of their table; accepted, they replace the entry and empty the tile of data; refused, they change no
entry. -/
def Sys2Proof.Claims.TagSetAndInvalidate : Prop :=
  ∀ (s : State) (d : RC) (a b : Src), Quiet s → TagsGood s →
    (Ready s [a, b] [] d →
      let x := srcVal s a
      let y := srcVal (taken s a) b
      let j := (wordOffset y).toNat / 4096
      let other := ∃ k ∈ slotsIn s (setOf x), k ≠ j ∧ holdsTile s x k = true
      slotWord y → TileOffset s (wordOffset y) → RangeOpen (takenAll s [a, b]) (wordOffset y).toNat 4096 true →
      (entryPin s j = true → Completes s (.tset d a b) d 1 (TagsStay s)) ∧
      (entryPin s j = false → j / 8 ≠ setOf x → Completes s (.tset d a b) d 2 (TagsStay s)) ∧
      (entryPin s j = false → j / 8 = setOf x → other → Completes s (.tset d a b) d 3 (TagsStay s)) ∧
      (entryPin s j = false → j / 8 = setOf x → ¬ other → FullTurn s j false →
        Completes s (.tset d a b) d 0 fun t => OtherTagsStay s t j ∧ TileZero t j ∧
          entry t j = BitVec.ofNat 64 (tileNo x * 65536 + (if y.getLsbD 32 then 8 else 0) + 1))) ∧
    (Ready s [a] [] d →
      let y := srcVal s a
      let j := (wordOffset y).toNat / 4096
      slotWord y → TileOffset s (wordOffset y) → RangeOpen (takenAll s [a]) (wordOffset y).toNat 4096 true →
      (entryPin s j = true → y.getLsbD 32 = false → Completes s (.tinv d a) d 1 (TagsStay s)) ∧
      (entryPin s j = false ∨ y.getLsbD 32 = true → FullTurn s j false →
        Completes s (.tinv d a) d 0 fun t => OtherTagsStay s t j ∧ TileZero t j ∧ entry t j = 0))

/-- The tag table: searching, reading, filling, emptying. -/
def Obligations.TagTable : Prop :=
  Claims.TagLookupsReadTheEntries ∧ Claims.TagSetAndInvalidate

/-- R215 to R217: TFULL sets FULL without a wait; TTAKE and TWAIT go on where the tile is as they await it and wait otherwise; TTAKE clears
FULL, TWAIT changes no entry. -/
def Sys2Proof.Claims.FullAndEmptyWaits : Prop :=
  ∀ (s : State) (d : RC) (a : Src), Quiet s → TagsGood s →
    let x := srcVal s a
    let j := x.toNat / 4096
    let jw := (wordOffset x).toNat / 4096
    let e := x.getLsbD 32
    (Ready s [a] [] (.g 0) → TileOffset s x → RangeOpen (takenAll s [a]) x.toNat 4096 true → FullTurn s j true →
      CompletesWith s (.tfull a) fun t => OtherTagsStay s t j ∧ entry t j = entry s j ||| 2) ∧
    (Ready s [a, .g 0] [] d → TileOffset s x →
      (entryFull s j = true → RangeOpen (takenAll s [a]) x.toNat 4096 false → FullTurn s j false →
        Completes s (.ttake d a (.g 0)) d 0 fun t => OtherTagsStay s t j ∧ entry t j = entry s j &&& ~~~2 ∧ t.net = s.net) ∧
      (entryFull s j = false →
        Waits s (.ttake d a (.g 0)) 3 (BitVec.ofNat 64 (entryGtag s j)) (BitVec.ofNat 64 (j * 4096)))) ∧
    (Ready s [a] [] (.g 0) → slotWord x → TileOffset s (wordOffset x) →
      (entryFull s jw ≠ e → CompletesWith s (.twait a) (TagsStay s)) ∧
      (entryFull s jw = e →
        Waits s (.twait a) 3 (BitVec.ofNat 64 (entryGtag s jw)) (BitVec.ofNat 64 (jw * 4096 + if e then 1 else 0))))

/-- R209, R216, R218: TGRANT and the grant of TTAKE add 1 to PCNT and send a permit to the target; at 255 nothing is sent and the status is
1; TGRANT of an entry that is not VALID does nothing and gives 2. -/
def Sys2Proof.Claims.GrantsSendPermits : Prop :=
  ∀ (s : State) (d : RC) (a b : Src), Quiet s → TagsGood s → Ready s [a, b] [] d →
    let x := srcVal s a
    let v := srcVal (taken s a) b
    let j := x.toNat / 4096
    TileOffset s x → grantTarget s v →
    (entryValid s j = false → Completes s (.tgrant d a b) d 2 fun t => TagsStay s t ∧ t.net = s.net) ∧
    (entryValid s j = true → entryPcnt s j = 255 → Completes s (.tgrant d a b) d 1 fun t => TagsStay s t ∧ t.net = s.net) ∧
    (entryValid s j = true → entryPcnt s j < 255 → Completes s (.tgrant d a b) d 0 fun t => OtherTagsStay s t j ∧ Granted s t j v) ∧
    (b ≠ .g 0 → entryFull s j = true → RangeOpen (takenAll s [a, b]) x.toNat 4096 false → FullTurn s j false → entryPcnt s j < 255 →
      Completes s (.ttake d a b) d 0 fun t => OtherTagsStay s t j ∧ Granted s t j v ∧ entryFull t j = false) ∧
    (b ≠ .g 0 → entryFull s j = true → RangeOpen (takenAll s [a, b]) x.toNat 4096 false → FullTurn s j false → entryPcnt s j = 255 →
      Completes s (.ttake d a b) d 1 fun t => OtherTagsStay s t j ∧ entryFull t j = false ∧ t.net = s.net)

/-- FULL tags and landing permits. -/
def Obligations.TilesFillAndGrant : Prop :=
  Claims.FullAndEmptyWaits ∧ Claims.GrantsSendPermits

/-! ### Stream descriptors (08 R219 to R222) -/

namespace Sys2Proof.Claims

/-- Field of an image: `n` bits from bit `lo`. -/
def imgField (v : BitVec 512) (lo n : Nat) : Nat := (v.extractLsb' lo n).toNat

/-- POS and the product of the counts. -/
def imgPos (v : BitVec 512) : Nat := imgField v 416 32

def imgTotal (v : BitVec 512) : Nat := imgField v 64 16 * imgField v 128 16 * imgField v 192 16 * imgField v 256 16

def imgWrap (v : BitVec 512) : Bool := v.getLsbD 45

/-- The two images agree outside `n` bits from bit `lo`. -/
def SameImageBut (v u : BitVec 512) (lo n : Nat) : Prop := ∀ k, (k < lo ∨ lo + n ≤ k) → u.getLsbD k = v.getLsbD k

/-- Every descriptor but `n` stays. -/
def OtherDescsStay (s t : State) (n : Nat) : Prop := ∀ k, k ≠ n → getDesc (here t) k = getDesc (here s) k

end Sys2Proof.Claims

/-- R219, R220, R222: SBIND issues the read of its 64 bytes and waits for it; once the read is done it binds them exactly as read, or takes the fault
that the read met; SREL unbinds; both wait while an instruction of the Mill or the Loom that names the descriptor is under way; SQRY gives the
selected word of the image, zero where it is unbound, and clears POISD and GSKP when asked. -/
def Sys2Proof.Claims.DescriptorsBindReleaseAndQuery : Prop :=
  ∀ (s : State) (n : Fin 16) (d : RC) (a : Src), Quiet s →
    let x := srcVal s a
    let img := (getDesc (here s) n.val).getD 0
    let found := translate s (me s).die (.core (me s).core) (here s).dbg.xctx x
    (Ready s [a] [] (.g 0) → descBusy (here s) n.val = false →
      ((∀ y ∈ (hereDie s).acc, y.w = me s → y.kind ≠ .image) → x.toNat % 64 = 0 →
        xlWaits s (me s).die (.core (me s).core) (here s).dbg.xctx x = false → ∀ l, found.2 = some l → mayLoad l.pte = true →
        ∃ t, exec (.sbind n a) s = .next (enterWait t (me s) .access 1 (BitVec.ofNat 64 ((hereDie s).nextId + 1)) 0) ∧
          OnlyIssued found.1 t ∧ ∃ y, InFlight found.1 t y ∧ y.w = me s ∧ y.kind = .image ∧ y.va = x ∧ y.sp = l.sp ∧ y.pa = l.pa ∧ y.size = 64) ∧
      (∀ y, imageRead s (me s) = some y → y.ready = true →
        (y.fail = 0 → CompletesWith s (.sbind n a) fun t => OtherDescsStay s t n.val ∧
          getDesc (here t) n.val = some (BitVec.ofNat 512 (leNat y.data)) ∧ ∀ z ∈ (hereDie t).acc, z.id ≠ y.id) ∧
        (y.fail ≠ 0 → Traps s (.sbind n a) y.fail x))) ∧
    (descBusy (here s) n.val = false →
      CompletesWith s (.srel n) fun t => OtherDescsStay s t n.val ∧ getDesc (here t) n.val = none) ∧
    (descBusy (here s) n.val = true → exec (.srel n) s = .next s) ∧
    (Ready s [a] [] d → x.toNat % 256 < 8 → x.toNat < 512 → (here s).errs.contains (.desc n.val) = false →
      Completes s (.sqry d n a) d (img.extractLsb' (64 * (x.toNat % 8)) 64) fun t =>
        OtherDescsStay s t n.val ∧
        (x.getLsbD 8 = false → getDesc (here t) n.val = getDesc (here s) n.val) ∧
        (x.getLsbD 8 = true → ∀ v, getDesc (here s) n.val = some v →
          ∃ u, getDesc (here t) n.val = some u ∧ SameImageBut v u 56 2 ∧ imgField u 56 2 = 0))

/-- R221: SSKIP moves POS by the signed count, modulo the total where the stream wraps; an unbound descriptor, a count of zero and a move
out of range trap with 0x17 and their reason. -/
def Sys2Proof.Claims.SkipMovesTheCursor : Prop :=
  ∀ (s : State) (n : Fin 16) (a : Src), Quiet s → Ready s [a] [] (.g 0) → descBusy (here s) n.val = false →
    (here s).errs.contains (.desc n.val) = false →
    let c := (srcVal s a).toInt
    let i := Instr.sskip n a
    (getDesc (here s) n.val = none → Traps s i 0x17 (BitVec.ofNat 64 (0x10 + n.val))) ∧
    ∀ v, getDesc (here s) n.val = some v →
      let p : Int := imgPos v + c
      let moved := fun (q : Nat) => CompletesWith s i fun t => OtherDescsStay s t n.val ∧
        ∃ u, getDesc (here t) n.val = some u ∧ SameImageBut v u 416 32 ∧ imgPos u = q % 2 ^ 32
      (imgTotal v = 0 → Traps s i 0x17 (BitVec.ofNat 64 (0x40 + n.val))) ∧
      (imgTotal v ≠ 0 → imgWrap v = true → moved (p % imgTotal v).toNat) ∧
      (imgTotal v ≠ 0 → imgWrap v = false → 0 ≤ p → p ≤ imgTotal v → moved p.toNat) ∧
      (imgTotal v ≠ 0 → imgWrap v = false → (p < 0 ∨ imgTotal v < p) → Traps s i 0x17 (BitVec.ofNat 64 (0x60 + n.val)))

/-- Stream descriptors: binding, reading, moving. -/
def Obligations.StreamDescriptors : Prop :=
  Claims.DescriptorsBindReleaseAndQuery ∧ Claims.SkipMovesTheCursor

/-! ### Barriers (08 R210, R233 to R236) -/

namespace Sys2Proof.Claims

def nameOff (a : Word) : Nat := a.toNat % 2 ^ 23

/-- The core whose scratchpad a barrier name names. -/
def nameCore (s : State) (a : Word) : Nat := if a.getLsbD 28 then a.toNat / 2 ^ 23 % 32 else (me s).core

def namePhase (a : Word) : Nat := a.toNat / 2 ^ 32 % 2 ^ 16

/-- A barrier name that R210 accepts; `ph`: it may carry a phase. -/
def BarrierName (s : State) (a : Word) (ph : Bool) : Prop :=
  a.toNat < 2 ^ 48 ∧ a.toNat / 2 ^ 29 % 8 = 0 ∧ (ph = true ∨ namePhase a = 0) ∧ nameOff a % 32 = 0 ∧ nameOff a < 0x600000 ∧
  (a.getLsbD 28 = false → a.toNat / 2 ^ 23 % 32 = 0 ∧ (here s).ways.getLsbD (nameOff a / 4096 % 8) = true)

/-- The range checker lets the access core at the object, only the owning core's accesses being checked (R233), and no error of its sector or its
tag entry is to be found (05 R129, R154). -/
def BarrierOpen (s : State) (a : Word) (w : Bool) : Prop :=
  (if nameCore s a = (me s).core then RangeOpen s (nameOff a) 32 w else acqPending s (me s) = false) ∧
  barBad (getCore s { me s with core := nameCore s a }) (nameOff a) = false

/-- The object that a name names. -/
def barrierOf (s : State) (a : Word) : BarObj := barRead (getCore s { me s with core := nameCore s a }) (nameOff a)

/-- R235: `while b.PEND == 0`, at most `n` times. -/
def flips (now : Nat) : Nat → BarObj → BarObj
  | 0, b => b
  | n + 1, b =>
    if b.pend = 0 then
      flips now n { b with phase := (b.phase + 1) % 2 ^ 16, pend := ((b.exp - b.next : Int) % 2 ^ 32).toNat, next := 0, ft := now }
    else b

/-- R235: arrive; none is an overrun. -/
def arrive (now u q : Nat) (b : BarObj) : Option BarObj :=
  if (q - b.phase : Int) % 2 ^ 16 = 0 ∧ u ≤ b.pend then some (flips now 2 { b with pend := b.pend - u })
  else if (q - b.phase : Int) % 2 ^ 16 = 1 ∧ b.next + u ≤ b.exp then some (flips now 2 { b with next := b.next + u })
  else none

/-- Phase `ph` of an object is complete (R234). -/
def phaseDone (b : BarObj) (ph : Nat) : Prop := 1 ≤ (b.phase - ph : Int) % 2 ^ 16 ∧ (b.phase - ph : Int) % 2 ^ 16 ≤ 2 ^ 15

end Sys2Proof.Claims

/-- R233, R234: BINIT writes the object, BEXP its EXP alone; BEXP of an object that is not live traps with the name's bit 63 set, one below
NEXT with the name. -/
def Sys2Proof.Claims.BarrierInitAndExpect : Prop :=
  ∀ (s : State) (a b : RC), Quiet s → Ready s [rcSrc a, rcSrc b] [] (.g 0) → (me s).core < 32 → (me s).ctx < 2 →
    let x := srcVal s (rcSrc a)
    let v := srcVal (taken s (rcSrc a)) (rcSrc b)
    let o := barrierOf s x
    BarrierName s x false → x.getLsbD 28 = false → BarrierOpen (takenAll s [rcSrc a, rcSrc b]) x true →
    (v.toNat % 2 ^ 32 ≠ 0 → v.toNat / 2 ^ 34 % 2 ^ 14 = 0 →
      CompletesWith s (.binit a b) fun t => barrierOf t x =
        { exp := v.toNat % 2 ^ 32, pend := v.toNat % 2 ^ 32, next := 0, phase := v.toNat / 2 ^ 48,
          flg := 1 + (if v.getLsbD 32 then 2 else 0) + (if v.getLsbD 33 then 4 else 0), own := (me s).core + 32 * (me s).ctx, ft := 0 }) ∧
    (v.toNat ≠ 0 → v.toNat < 2 ^ 32 →
      (o.flg % 2 = 1 → o.next ≤ v.toNat → CompletesWith s (.bexp a b) fun t => barrierOf t x = { o with exp := v.toNat }) ∧
      (o.flg % 2 = 1 → v.toNat < o.next → Traps s (.bexp a b) 0x0D x) ∧
      (o.flg % 2 = 0 → Traps s (.bexp a b) 0x0D (x ||| BitVec.twoPow 64 63)))

/-- R235, R236: ARV arrives as the function of R235 says, once the stream's earlier accesses have completed; an overrun traps with the name
and leaves the object. -/
def Sys2Proof.Claims.ArrivalsCountAndFlip : Prop :=
  ∀ (s : State) (a b : RC), Quiet s → Ready s [rcSrc a, rcSrc b] [] (.g 0) → (hereDie s).time.ftime < 2 ^ 64 →
    let x := srcVal s (rcSrc a)
    let v := srcVal (taken s (rcSrc a)) (rcSrc b)
    let o := barrierOf s x
    BarrierName s x false → BarrierOpen (takenAll s [rcSrc a, rcSrc b]) x true → v.toNat % 2 ^ 32 ≠ 0 → v.toNat < 2 ^ 48 →
    (∀ y ∈ (hereDie s).acc, y.w ≠ me s) → o.flg % 2 = 1 → (x.getLsbD 28 = true → o.flg / 4 % 2 = 1) →
    (∀ p, arrive (hereDie s).time.ftime (v.toNat % 2 ^ 32) (v.toNat / 2 ^ 32) o = some p →
      CompletesWith s (.arv a b) fun t => barrierOf t x = p) ∧
    (arrive (hereDie s).time.ftime (v.toNat % 2 ^ 32) (v.toNat / 2 ^ 32) o = none → Traps s (.arv a b) 0x0D x)

/-- R234: BWAIT gives PHASE once its phase is complete and waits before; BTEST gives 1 or 0 at once; neither changes the object. -/
def Sys2Proof.Claims.BarrierWaitAndTest : Prop :=
  ∀ (s : State) (d a : RC), Quiet s → Ready s [rcSrc a] [] d →
    let x := srcVal s (rcSrc a)
    let o := barrierOf s x
    BarrierName s x true → BarrierOpen (takenAll s [rcSrc a]) x false → o.flg % 2 = 1 →
    (phaseDone o (namePhase x) →
      Completes s (.bwait d a) d (BitVec.ofNat 64 o.phase) (fun t => barrierOf t x = o) ∧
      Completes s (.btest d a) d 1 (fun t => barrierOf t x = o)) ∧
    (¬ phaseDone o (namePhase x) →
      ((here s).acc.fly = none →
        Waits s (.bwait d a) 4 (BitVec.ofNat 64 (nameOff x)) (BitVec.ofNat 64 (nameCore s x + 32 * namePhase x))) ∧
      Completes s (.btest d a) d 0 (fun t => barrierOf t x = o))

/-- Barrier objects: initialised, expected, arrived at, waited for. -/
def Obligations.Barriers : Prop :=
  Claims.BarrierInitAndExpect ∧ Claims.ArrivalsCountAndFlip ∧ Claims.BarrierWaitAndTest

/-! ### Capability registers (04 R111; 17 R429) -/

namespace Sys2Proof.Claims

/-- Fields of a capability (17 R429). -/
def capF (c : Cap) (lo n : Nat) : Nat := (c.bits.extractLsb' lo n).toNat

def cCursor (c : Cap) : Nat := capF c 0 64

def cPeer (c : Cap) : Nat := capF c 64 15

def cPerm (c : Cap) : Nat := capF c 79 8

def cKind (c : Cap) : Nat := capF c 87 3

/-- The bounds: window base + BOT × 2^E to window base + (TOP + 1) × 2^E. -/
def cBase (c : Cap) : Nat := cCursor c / 2 ^ 54 * 2 ^ 54 + capF c 106 16 * 2 ^ capF c 122 6

def cEnd (c : Cap) : Nat := cCursor c / 2 ^ 54 * 2 ^ 54 + (capF c 90 16 + 1) * 2 ^ capF c 122 6

/-- `n` gives no more than `c`: its bounds lie inside, its permissions are among those of `c`, kind and peer are the same. -/
def Derived (n c : Cap) : Prop :=
  cBase c ≤ cBase n ∧ cEnd n ≤ cEnd c ∧ cPerm n &&& cPerm c = cPerm n ∧ cKind n = cKind c ∧ cPeer n = cPeer c

/-- Register `r` of the stream that moves. -/
def capReg (s : State) (r : CapReg) : Cap := spGet {} (here s).acc.c r.val

/-- Register `d` holds `v`, every other capability register and the g registers stay. -/
def CapWritten (s t : State) (d : CapReg) (v : Cap) : Prop :=
  capReg t d = v ∧ (∀ r, r ≠ d → capReg t r = capReg s r) ∧ (here t).acc.g = (here s).acc.g

/-- The instructions that write capability registers from capability registers. -/
def capForm : Instr → Bool
  | .cmovc _ _ | .cbnd _ _ _ | .cprm _ _ _ | .cadd _ _ _ | .cclr _ | .cget _ _ _ | .ctag _ _ => true
  | _ => false

end Sys2Proof.Claims

/-- R111: CMOVC, CCLR, CTAG, CGET, CADD, CPRM and CBND complete with the values of the table; CGET's fields of a capability whose bounds are
malformed are not stated.
Rests on readings of the model: notes/assumptions/13.md. -/
def Obligations.CapabilityInstructionResults : Prop :=
  ∀ (s : State) (d a : CapReg) (q : RC) (b : Src), Quiet s → capHeld s d = true → capHeld s a = true →
    let c := capReg s a
    let y := srcVal s b
    CompletesWith s (.cmovc d a) (fun t => CapWritten s t d c) ∧
    CompletesWith s (.cclr d) (fun t => CapWritten s t d { capReg s d with tag := false }) ∧
    (Ready s [] [] q → exec (.ctag q a) s = .next (wrote s [] q (if c.tag then 1 else 0))) ∧
    (Ready s [b] [] q →
      (y.toNat ≠ 1 → y.toNat ≠ 2 → exec (.cget q a b) s = .next (wrote s [b] q (BitVec.ofNat 64
        (if y.toNat = 0 then cCursor c else if y.toNat = 3 then cPerm c else if y.toNat = 4 then cKind c else if y.toNat = 5 then cPeer c
         else 0)))) ∧
      (capF c 106 16 ≤ capF c 90 16 → (capF c 90 16 + 1) * 2 ^ capF c 122 6 ≤ 2 ^ 54 →
        (y.toNat = 1 → exec (.cget q a b) s = .next (wrote s [b] q (BitVec.ofNat 64 (cBase c)))) ∧
        (y.toNat = 2 → exec (.cget q a b) s = .next (wrote s [b] q (BitVec.ofNat 64 (cEnd c - cBase c)))))) ∧
    (Ready s [b] [] (.g 0) →
      CompletesWith s (.cadd d a b) (fun t => cCursor (capReg t d) = (cCursor c + y.toNat) % 2 ^ 64 ∧
        (capReg t d).bits.extractLsb' 64 64 = c.bits.extractLsb' 64 64 ∧
        (capReg t d).tag = (c.tag && decide ((cCursor c + y.toNat) % 2 ^ 64 / 2 ^ 54 = cCursor c / 2 ^ 54))) ∧
      (c.tag = false → Traps s (.cprm d a b) 0x06 (BitVec.ofNat 64 (cCursor c)) ∧ Traps s (.cbnd d a b) 0x06 (BitVec.ofNat 64 (cCursor c))) ∧
      (c.tag = true → (cPerm c).testBit 5 = false →
        Traps s (.cprm d a b) 0x08 (BitVec.ofNat 64 (cCursor c)) ∧ Traps s (.cbnd d a b) 0x08 (BitVec.ofNat 64 (cCursor c))) ∧
      (c.tag = true → (cPerm c).testBit 5 = true →
        CompletesWith s (.cprm d a b) (fun t => cPerm (capReg t d) = cPerm c &&& y.toNat % 256 ∧ (capReg t d).tag = true ∧
          cCursor (capReg t d) = cCursor c ∧ cBase (capReg t d) = cBase c ∧ cEnd (capReg t d) = cEnd c) ∧
        (∀ e bot top, cbndFind (cCursor c % 2 ^ 54) y.toNat = some (e, bot, top) →
          let lo := cCursor c / 2 ^ 54 * 2 ^ 54 + bot * 2 ^ e
          let hi := cCursor c / 2 ^ 54 * 2 ^ 54 + (top + 1) * 2 ^ e
          (cBase c ≤ lo → hi ≤ cEnd c → CompletesWith s (.cbnd d a b) (fun t => (capReg t d).tag = true ∧ cBase (capReg t d) = lo ∧
            cEnd (capReg t d) = hi ∧ lo ≤ cCursor c ∧ cCursor c + y.toNat ≤ hi ∧ cPerm (capReg t d) = cPerm c)) ∧
          (lo < cBase c ∨ cEnd c < hi → Traps s (.cbnd d a b) 0x07 (BitVec.ofNat 64 (cCursor c)))))) 

/-- Whatever a capability instruction does, in every state, no tagged capability register comes to give more than some tagged register gave
before it. -/
def Obligations.CapabilityInstructionsNeverAddAuthority : Prop :=
  ∀ (i : Instr) (s t : State) (r : CapReg), capForm i = true → exec i s = .next t → (capReg t r).tag = true →
    ∃ a, (capReg s a).tag = true ∧ Derived (capReg t r) (capReg s a)

/-! ### Carter commands (08 R223 to R232) -/

namespace Sys2Proof.Claims

/-- The fields of the length word (R225). -/
def lenOff (l : Word) : Nat := l.toNat % 2 ^ 23

def lenN (l : Word) : Nat := l.toNat / 2 ^ 24 % 2 ^ 24

/-- Queue `k` of the context: 0 C0, 1 C1. -/
def queueOf (c : Ctx) (k : Nat) : CarterQ := if k = 0 then c.c0 else c.c1

/-- A command's words are in order, its use's gate is open or it needs none, its bytes lie in the scratchpad and the context's ways, its
Carter has room, and no earlier access overlaps (R226 steps 1 to 3, 7, 8). -/
def CarterOpen (s : State) (k : Nat) (q : Cmd) : Prop :=
  xOk q.kind q.arv q.x = true ∧ lOk q.kind q.l = true ∧
  (gateFor s (me s) q.use 1 (2 * (me s).core + k) false = .unbooked ∨ gateFor s (me s) q.use 1 (2 * (me s).core + k) false = .opened) ∧
  lenOff q.l % 32 = 0 ∧ lenOff q.l + lenN q.l ≤ 0x600000 ∧ badOffset (here s) (lenOff q.l) (lenN q.l) = none ∧
  (q.arv = true → badOffset (here s) (q.x.toNat / 2 ^ 8 % 2 ^ 18 * 32) 32 = none) ∧
  (queueOf (here s) k).q.length < 16 ∧ acqPending s (me s) = false ∧ localClash (hereCore s) (here s) (lenOff q.l) (lenN q.l) (cmdWrites q) = none

/-- The global range of a command is mapped with the attributes it needs (R226 step 4). -/
def Mapped (s : State) (a : Word) (n : Nat) (need : Word → Bool) : Prop :=
  a.toNat % 32 = 0 ∧
  ∃ s1 ls, translateRange s (me s).die (.core (me s).core) (here s).dbg.xctx a need (granules a.toNat n) = (s1, .ok ls)

/-- The command `q` stands at the end of queue `k`, the rest of the queue and the registers as they were. -/
def Accepted (s : State) (k : Nat) (q : Cmd) (t : State) : Prop :=
  (∃ p, (queueOf (here t) k).q =
    (queueOf (here s) k).q ++ [{ q with seq := (queueOf (here s) k).seq, pages := p, ord := (here s).issued }]) ∧
  (here t).acc = (here s).acc ∧ (hereDie t).mem = (hereDie s).mem ∧ (hereCore t).sp = (hereCore s).sp

/-- The command of a word: its x and l, and its use and arrival bits. -/
def cmdOf (s : State) (i : Instr) (kind : CmdKind) (x l : GReg) (u : Fin 8) (e : Bool) : Cmd :=
  { kind := kind, use := u.val, arv := e, x := readG (here s) x, l := readG (here s) l, iw := (encodeNat i).getD 0 }

/-- A tile capability whose cursor has `n` bytes in bounds and in one tile, with permission bit `p` (R226 step 5). -/
def TileCap (c : Cap) (n p : Nat) : Prop :=
  c.tag = true ∧ cKind c = 1 ∧ (cPerm c).testBit p = true ∧ cCursor c % 32 = 0 ∧ cBase c ≤ cCursor c ∧ cCursor c + n ≤ cEnd c ∧
  cCursor c % 4096 + n ≤ 4096

/-- Which permit a TSEND uses. -/
def permitFor (s : State) (c : Cap) : Option Permit :=
  (here s).permits.find? fun p => p.die == cPeer c && p.addr == BitVec.ofNat 64 (cCursor c) && p.addr != 0 && p.count != 0

/-- The status word of CWAIT (R232). -/
def waitStatus (c : Ctx) : Nat :=
  c.c0.q.length + 256 * c.c1.q.length + 65536 * c.c0.pz.toNat + 131072 * c.c1.pz.toNat + 262144 * c.c0.ps.toNat +
    524288 * c.c1.ps.toNat + 1048576 * c.c0.fail.toNat + 2097152 * c.c1.fail.toNat

/-- The Carter that an event names, and its context. -/
def evK (s : State) : Nat := if s.ev.b then 1 else 0

def evCtx (s : State) : Ctx := getCtx s s.ev.w

/-- The context of an event exists and its streams move, no Almanac is at work on its die. -/
def EvMoves (s : State) : Prop := whoOk s s.ev.w = true ∧ ctxMoves s s.ev.w = true ∧ quietDie (getDie s s.ev.w.die) = true

/-- The command at the head of the Carter that the event names. -/
def HeadIs (s : State) (q : Cmd) : Prop := (queueOf (evCtx s) (evK s)).q.head? = some q

/-- A copy from this die's HBM into the scratchpad, without tags, that has its turn: its gate is open, no booked use is current on its
Carter, and the other context's command does not occupy it (R227; 05 R128). -/
def CopyIn (s : State) (q : Cmd) (e : TlbEnt) : Prop :=
  let so := lenOff q.l + q.done
  let va := q.a.toNat + q.done
  q.kind = .cpy ∧ q.x.getLsbD 0 = false ∧ q.x.getLsbD 1 = false ∧ q.moved = false ∧ q.fail = 0 ∧ q.wait = 0 ∧ q.seen = true ∧
  gateFor s s.ev.w q.use 1 (2 * s.ev.w.core + evK s) true = .unbooked ∧
  currentOwner s s.ev.w 1 (2 * s.ev.w.core + evK s) = none ∧ otherRuns s s.ev.w (evK s) = false ∧
  carterAfter (evCtx s) q = false ∧ so % 32 = 0 ∧ q.done + 32 < lenN q.l ∧ (so + 32) % 4096 ≠ 0 ∧ so % 4096 ≠ 0 ∧ q.done ≠ 0 ∧ s.ev.n = 1 ∧
  cmdPage (getDie s s.ev.w.die) q (va % 2 ^ 55) = some e ∧ pteSpace e.pte = .hbm ∧ pteBN e.pte = false ∧ s.ev.w.ctx < 2 ∧
  physMark s s.ev.w.die .hbm ((ptePA e.pte + va % 2 ^ e.log) / 32) = 0

end Sys2Proof.Claims

/-- R223 to R226: a copy whose checks pass enters its Carter's queue and the stream goes on: CPY and CPYM with their global range translated,
CPYG and CPYS with the channel their Carter consumes, CPYM with its Mill word read from the scratchpad. -/
def Sys2Proof.Claims.CopyCommandsAreQueued : Prop :=
  ∀ (s : State) (x a l : GReg) (n : Fin 16) (u : Fin 8) (c e : Bool), Quiet s → Ready s [.g x, .g l] [] (.g 0) →
    let k := c.toNat
    let ga := readG (here s) a
    let chOk := chEn (getChan (here s) n.val) = true ∧ chCons (getChan (here s) n.val) = 3 + k
    (let i := Instr.cpy x a l u c e
     let q := { cmdOf s i .cpy x l u e with a := ga }
     Ready s [.g x, .g l, .g a] [] (.g 0) → CarterOpen s k q → Mapped s ga (lenN q.l) (if q.x.getLsbD 0 then mayStore else mayLoad) →
      CompletesWith s i (Accepted s k q)) ∧
    (let i := Instr.cpyg x n l u c e
     let q := { cmdOf s i .cpyg x l u e with ch := n.val }
     CarterOpen s k q → chOk → CompletesWith s i (Accepted s k q)) ∧
    (let i := Instr.cpys x n l u c e
     let q := { cmdOf s i .cpys x l u e with ch := n.val }
     CarterOpen s k q → chOk → CompletesWith s i (Accepted s k q)) ∧
    (let i := Instr.cpym x a l u c e
     let q := { cmdOf s i .cpym x l u e with a := ga }
     let o := q.x.toNat / 2 ^ 42 % 2 ^ 18 * 32
     Ready s [.g x, .g l, .g a] [] (.g 0) → CarterOpen s k q → Mapped s ga (lenN q.l) mayLoad → badOffset (here s) o 24 = none →
      NoClash s o 24 false → (∀ j, spMark (hereCore s) j = 0) → TagsGood s →
      CompletesWith s i
        (Accepted s k { q with millw := BitVec.ofNat 192 (littleEndian (fun b => spByte (hereCore s) (o + b)) 24) }))

/-- R226 steps 5 and 6, R137: TSEND and TGET through a tile capability enter the queue; TSEND uses its permit. -/
def Sys2Proof.Claims.TileTransfersAreQueued : Prop :=
  ∀ (s : State) (x l : GReg) (r : CapReg) (u : Fin 8) (c e : Bool), Quiet s → Ready s [.g x, .g l] [] (.g 0) →
    capHeld s r = true →
    let k := c.toNat
    let cap := capReg s r
    (let i := Instr.tget x r l u c e
     let q := { cmdOf s i .tget x l u e with cap := cap }
     CarterOpen s k q → TileCap cap (lenN q.l) 0 → CompletesWith s i (Accepted s k q)) ∧
    (let i := Instr.tsend x r l u c e
     let q := { cmdOf s i .tsend x l u e with cap := cap }
     CarterOpen s k q → TileCap cap (lenN q.l) 3 → cCursor cap % 4096 = 0 →
      (∀ p, permitFor s cap = some p →
        CompletesWith s i fun t => Accepted s k { q with perm := some p } t ∧
          (p.count = 1 → p ∉ (here t).permits)) ∧
      (permitFor s cap = none → Traps s i 0x0E (BitVec.ofNat 64 (cCursor cap))))

/-- R232: CWAIT goes on once each selected Carter has at most m outstanding commands, gives the status word and clears the sticky bits of the
selected Carters; otherwise it waits on an object of number 0 (05 R152); the threshold and the queue it stands for are the model's
own note beside it. -/
def Sys2Proof.Claims.CopyQueueWaits : Prop :=
  ∀ (s : State) (d a : RC) (m : BitVec 13), Quiet s → Ready s [rcSrc a] [] d → 0 ≤ m.toInt → m.toInt ≤ 16 →
    let v := srcVal s (rcSrc a)
    let n0 := (here s).c0.q.length
    let n1 := (here s).c1.q.length
    let st : Word := BitVec.ofNat 64 (waitStatus (here s))
    (v = 0 → (n0 : Int) ≤ m.toInt →
      Completes s (.cwait d a m) d st fun t => (here t).c0 = { (here s).c0 with fail := false, ps := false, pz := false } ∧ (here t).c1 = (here s).c1) ∧
    (v = 1 → (n1 : Int) ≤ m.toInt →
      Completes s (.cwait d a m) d st fun t => (here t).c1 = { (here s).c1 with fail := false, ps := false, pz := false } ∧ (here t).c0 = (here s).c0) ∧
    (v = 2 → (n0 : Int) ≤ m.toInt → (n1 : Int) ≤ m.toInt →
      Completes s (.cwait d a m) d st fun t => (here t).c0 = { (here s).c0 with fail := false, ps := false, pz := false } ∧
        (here t).c1 = { (here s).c1 with fail := false, ps := false, pz := false }) ∧
    (v = 0 → m.toInt < (n0 : Int) → Waits s (.cwait d a m) 5 0 (BitVec.ofInt 64 (2 * m.toInt))) ∧
    (v = 1 → m.toInt < (n1 : Int) → Waits s (.cwait d a m) 5 0 (BitVec.ofInt 64 (2 * m.toInt + 1))) ∧
    (v = 2 → m.toInt < (n0 : Int) ∨ m.toInt < (n1 : Int) →
      Waits s (.cwait d a m) 5 0 (BitVec.ofInt 64 (2 * m.toInt + if m.toInt < (n0 : Int) then 0 else 1))) ∧
    (2 < v.toNat → Traps s (.cwait d a m) 0x01 (wordOf (.cwait d a m)))

/-- Carter commands: queued, and waited for.
Rests on readings of the model: notes/assumptions/17.md. -/
def Obligations.CopiesAndTransfersAreQueued : Prop :=
  Claims.CopyCommandsAreQueued ∧ Claims.TileTransfersAreQueued ∧ Claims.CopyQueueWaits

/-- R227 to R230, R198: a Carter moves its head command's next sector from HBM into the scratchpad; a command that has moved all completes:
event CPY, one outstanding less; one that has failed is reported and leaves; the Mill word of a CPYM enters the injection queue.
Rests on readings of the model: notes/assumptions/8.md. -/
def Obligations.CarterStepsMoveCompleteAndFail : Prop :=
  ∀ (s : State) (q : Cmd), EvMoves s → HeadIs s q →
    let w := s.ev.w
    let k := evK s
    (∀ e i, CopyIn s q e → (i = .carterCommandStart ∧ q.paused = false ∧ q.susp = false) ∨ (i = .carterCommandResume ∧ (q.paused = true ∨ q.susp = true)) →
      ∃ t, exec i s = .next t ∧
        (∀ o, spByte (getCore t w) o =
          if lenOff q.l + q.done ≤ o ∧ o < lenOff q.l + q.done + 32 then
            memGet (getDie s w.die).mem.hbm (ptePA e.pte + (q.a.toNat + q.done) % 2 ^ e.log + (o - (lenOff q.l + q.done)))
          else spByte (getCore s w) o) ∧
        (queueOf (getCtx t w) k).q.head? = some { q with started := true, paused := false, susp := false, done := q.done + 32 }) ∧
    (q.moved = true → q.wait = 0 → q.fail = 0 → q.arv = false → q.kind ≠ .bndc →
      ∃ t, exec .carterCommandComplete s = .next t ∧ (queueOf (getCtx t w) k).q = (queueOf (evCtx s) k).q.tail ∧
        (getCtx t w).csr.evpend.getLsbD 1 = true) ∧
    (q.fail ≠ 0 → q.dis = false → q.kind ≠ .bndc → q.kind ≠ .cpyg → q.kind ≠ .cpys →
      ∃ t, exec .carterCommandFail s = .next t ∧ (queueOf (getCtx t w) k).q = (queueOf (evCtx s) k).q.tail ∧
        (queueOf (getCtx t w) k).fail = true ∧
        { rank := 2 + k, cause := q.fail, val := q.failVal, eng := 3 + k } ∈ (getCtx t w).reports) ∧
    (q.kind = .cpym → q.moved = true → q.wait = 2 → (evCtx s).mill.injq.length < 4 →
      ∃ t x, exec .injectionQueueEntry s = .next t ∧ (getCtx t w).mill.injq = (evCtx s).mill.injq ++ [x] ∧ x.word = q.millw ∧
        (queueOf (getCtx t w) k).q.head? = some { q with wait := 0 })

/-! ### Control and status registers, events, debug (01 R13, R34, R38; 02 R50; 04 R112 to R123; 14 R356 to R361; 18 R461) -/

namespace Sys2Proof.Claims

/-- The number names a register whose space the mode may read, or write (02 R50: spaces 2 and 3 are system, 1 and 3 read-only). -/
def mayRead (s : State) (n : Nat) : Prop := csrNamed n = true ∧ (n / 2048 % 4 < 2 ∨ (here s).acc.sys = true)

def mayWrite (s : State) (n : Nat) : Prop := mayRead s n ∧ n / 2048 % 2 = 0

/-- Registers of the access core by number, as R113 names them. -/
def csrHeld (c : Ctx) : List (Nat × Word) :=
  [(0x0003, c.loom.pc), (0x0004, c.mill.pc), (0x0008, c.csr.srkey), (0x0009, c.csr.srcv), (0x000A, c.csr.srcm), (0x0010, c.csr.ulvec),
   (0x0011, c.csr.ulepc), (0x0012, c.csr.ulcause), (0x0013, c.csr.ulval), (0x0014, c.csr.uleng), (0x0018, c.csr.evmask),
   (0x0019, c.csr.evpend), (0x0020, c.csr.chlim), (0x0801, c.csr.instret), (0x0820, BitVec.ofNat 64 c.acc.loops.length),
   (0x0821, (c.acc.loops.head?.map LoopLevel.count).getD 0), (0x1000, c.csr.sepc), (0x1001, c.csr.scause), (0x1002, c.csr.sval),
   (0x1003, c.csr.seng),
   (0x1004, (if c.csr.snj then 4 else 0) + (if c.csr.pm then 2 else 0) + (if c.csr.te then 1 else 0)), (0x1005, c.csr.svec),
   (0x1006, c.csr.uldel), (0x1007, c.csr.sscratch)]

/-- What a write of `v` leaves in the writable registers without a rule of their own (R113, R114). -/
def csrAfter : List (Nat × (CsrSt → Word → CsrSt)) :=
  [(0x0008, fun c v => { c with srkey := v }), (0x0009, fun c v => { c with srcv := v }), (0x000A, fun c v => { c with srcm := v }),
   (0x0010, fun c v => { c with ulvec := v &&& ~~~3 }), (0x0011, fun c v => { c with ulepc := v }),
   (0x0012, fun c v => { c with ulcause := v &&& 0xFF }), (0x0013, fun c v => { c with ulval := v }),
   (0x0014, fun c v => { c with uleng := v }), (0x0018, fun c v => { c with evmask := v }),
   (0x0020, fun c v => { c with chlim := if v = 0 ∨ 2 ^ 32 ≤ v.toNat then 0xFFFFFFFF else v }),
   (0x1000, fun c v => { c with sepc := v }), (0x1001, fun c v => { c with scause := v &&& 0xFF }), (0x1002, fun c v => { c with sval := v }),
   (0x1003, fun c v => { c with seng := v }),
   (0x1004, fun c v => { c with snj := v.getLsbD 2, pm := v.getLsbD 1, te := v.getLsbD 0 }),
   (0x1005, fun c v => { c with svec := v &&& ~~~3 }), (0x1007, fun c v => { c with sscratch := v })]

/-- CSRW, CSRS and CSRC with what each makes of the old value (R112). -/
def csrWriters : List ((RC → RC → BitVec 13 → Instr) × (Word → Word → Word)) :=
  [(.csrw, fun _ x => x), (.csrs, fun o x => o ||| x), (.csrc, fun o x => o &&& ~~~x)]

/-- The FEAT leaves 0, 2 and 3 (R117). -/
def featLeaf (s : State) : List (Nat × Word) :=
  [(0, 0x03010303), (2, 0x0010100600080408),
   (3, BitVec.ofNat 64 ((me s).ctx % 2 * 2 ^ 20 + (me s).die % 2 ^ 15 / 1024 * 2 ^ 15 + (me s).die / 32 % 32 * 2 ^ 10 +
     (me s).die % 32 * 2 ^ 5 + (me s).core))]

end Sys2Proof.Claims

/-- R112, R113: CSRR completes for every register that the mode may read, with the register's value; `cycle` is a timing read. -/
def Sys2Proof.Claims.CsrReadsComplete : Prop :=
  ∀ (s : State) (d : RC) (n : BitVec 13), Quiet s → Ready s [] [] d → mayRead s n.toNat →
    (n.toNat ≠ 0x800 → exec (.csrr d n) s = .next (wrote s [] d (csrRead s (me s) n.toNat))) ∧
    (∀ v, (n.toNat, v) ∈ csrHeld (here s) → exec (.csrr d n) s = .next (wrote s [] d v)) ∧
    (n.toNat = 0x800 → Completes s (.csrr d n) d (BitVec.ofNat 64 (hereDie s).time.cyc - (here s).csr.cycOff) fun t => here t = here s)

/-- R112 to R114: CSRW, CSRS and CSRC give the old value and leave the register as its Access rule says; where the register takes the write,
nothing else of the context changes. -/
def Sys2Proof.Claims.CsrWritesFollowTheirAccessRules : Prop :=
  ∀ (s : State) (d a : RC) (n : BitVec 13), Quiet s → Ready s [rcSrc a] [] d → mayWrite s n.toNat →
    let x := srcVal s (rcSrc a)
    let old := csrRead (takenAll s [rcSrc a]) (me s) n.toNat
    (∀ f, (n.toNat, f) ∈ csrAfter → ∀ p ∈ csrWriters,
      Completes s (p.1 d a n) d old fun t => here t = { here (takenAll s [rcSrc a]) with csr := f (here s).csr (p.2 old x) }) ∧
    (n.toNat = 0x19 →
      (Completes s (.csrw d a n) d old fun t => (here t).csr.evpend = (here s).csr.evpend &&& ~~~x) ∧
      (Completes s (.csrs d a n) d old fun t => (here t).csr.evpend = (here s).csr.evpend &&& ~~~x) ∧
      (Completes s (.csrc d a n) d old fun t => (here t).csr.evpend = (here s).csr.evpend)) ∧
    (n.toNat = 0x1006 → (hereCore s).dbgctl.getLsbD 1 = false →
      Completes s (.csrw d a n) d old fun t => (here t).csr.uldel = x &&& 0x0780FE00) ∧
    (n.toNat = 3 → Completes s (.csrw d a n) d old fun t =>
      (here t).loom.pc = if (here s).loom.stat.st = .stop then x else (here s).loom.pc) ∧
    (n.toNat = 4 → Completes s (.csrw d a n) d old fun t =>
      (here t).mill.pc = (if (here s).mill.stat.st = .stop then x else (here s).mill.pc) ∧
      (here t).mill.mrp = if (here s).mill.stat.st = .stop then 0 else (here s).mill.mrp)

/-- R50, R112: a number that names no register raises 0x01; a system register read or written in job mode raises 0x02, as does a write to a
read-only one; the word is `sval`.  The write of a value that `rgbase` or `snapsel` does not accept is no case of it: 0x01 comes before 0x02 (R59). -/
def Sys2Proof.Claims.CsrPrivilegeTraps : Prop :=
  ∀ (s : State) (d a : RC) (n : BitVec 13), Ready s [rcSrc a] [] d → Ready s [] [] d →
    let anyValue := ¬(0x1128 ≤ n.toNat ∧ n.toNat < 0x112E) ∧ n.toNat ≠ 0x1170
    (csrNamed n.toNat = false → Traps s (.csrr d n) 0x01 (wordOf (.csrr d n)) ∧ Traps s (.csrw d a n) 0x01 (wordOf (.csrw d a n))) ∧
    (csrNamed n.toNat = true → 2 ≤ n.toNat / 2048 % 4 → (here s).acc.sys = false →
      Traps s (.csrr d n) 0x02 (wordOf (.csrr d n)) ∧
      (anyValue → Traps s (.csrw d a n) 0x02 (wordOf (.csrw d a n)) ∧
        Traps s (.csrs d a n) 0x02 (wordOf (.csrs d a n)) ∧ Traps s (.csrc d a n) 0x02 (wordOf (.csrc d a n)))) ∧
    (n.toNat = 0x1170 → (here s).acc.sys = false → 2 ^ 20 ≤ (srcVal s (rcSrc a)).toNat → Traps s (.csrw d a n) 0x01 (wordOf (.csrw d a n))) ∧
    (csrNamed n.toNat = true → n.toNat / 2048 % 2 = 1 →
      Traps s (.csrw d a n) 0x02 (wordOf (.csrw d a n)) ∧ Traps s (.csrs d a n) 0x02 (wordOf (.csrs d a n)) ∧
      Traps s (.csrc d a n) 0x02 (wordOf (.csrc d a n)))

/-- CSR reads, writes and privilege.
Rests on readings of the model: notes/assumptions/23.md. -/
def Obligations.ControlRegisters : Prop :=
  Claims.CsrReadsComplete ∧ Claims.CsrWritesFollowTheirAccessRules ∧ Claims.CsrPrivilegeTraps

/-- R116, R117, R121, R461: FEAT gives the leaf's word, 0 beyond leaf 3; WFE gives and clears the masked events, 0 at once where the mask is 0,
and waits otherwise; FTIME gives the fabric time. -/
def Sys2Proof.Claims.FeaturesEventsAndTime : Prop :=
  ∀ (s : State) (d a : RC), Quiet s →
    let got := (here s).csr.evpend &&& (here s).csr.evmask
    (Ready s [rcSrc a] [] d →
      (∀ v, ((srcVal s (rcSrc a)).toNat, v) ∈ featLeaf s → exec (.feat d a) s = .next (wrote s [rcSrc a] d v)) ∧
      (3 < (srcVal s (rcSrc a)).toNat → exec (.feat d a) s = .next (wrote s [rcSrc a] d 0)) ∧
      (srcVal s (rcSrc a) = 1 → ∃ v, exec (.feat d a) s = .next (wrote s [rcSrc a] d v) ∧ v.extractLsb' 0 36 = 0xF01FE7FFF)) ∧
    (Ready s [] [] d →
      Completes s (.ftime d) d (BitVec.ofNat 64 (hereDie s).time.ftime) (fun t => here t = here s) ∧
      ((here s).csr.evmask = 0 → Completes s (.wfe d) d 0 fun t => (here t).csr = (here s).csr) ∧
      (got ≠ 0 → Completes s (.wfe d) d got fun t => (here t).csr = { (here s).csr with evpend := (here s).csr.evpend &&& ~~~got }) ∧
      ((here s).csr.evmask ≠ 0 → got = 0 → Waits s (.wfe d) 8 0 0))

/-- R122, R123: TRCM appends its marker to ring 0 where tracing is on and changes nothing else of the die otherwise; SNAP sets the trigger, at
least 256 ns ahead and a multiple of 16, unless one is pending, and gives it; in job mode without SNJ it raises 0x02. -/
def Sys2Proof.Claims.MarkersAndSnapshots : Prop :=
  ∀ (s : State) (d : RC) (a : Src), Quiet s →
    let now := (hereDie s).time.ftime
    let x := (srcVal s a).toNat
    let tr := (hereDie s).trace
    (Ready s [a] [] (.g 0) →
      CompletesWith s (.trcm a) fun t => here t = here (takenAll s [a]) ∧
        (tr.trcctl.getLsbD 0 = false → (hereDie t).mem = (hereDie s).mem ∧ (hereDie t).trace = (hereDie s).trace)) ∧
    (Ready s [a] [] d → (here s).acc.sys = false → (here s).csr.snj = false → Traps s (.snap d a) 0x02 (wordOf (.snap d a))) ∧
    (Ready s [a] [] d → ((here s).acc.sys = true ∨ (here s).csr.snj = true) → tr.snapPend = false → x + 16 < 2 ^ 64 → now + 272 < 2 ^ 64 →
      ∃ v, Completes s (.snap d a) d (BitVec.ofNat 64 v) (fun t => (hereDie t).trace.snapPend = true ∧ (hereDie t).trace.snapT = BitVec.ofNat 64 v) ∧
        v % 16 = 0 ∧ now + 256 ≤ v ∧ x ≤ v ∧ v < max x (now + 256) + 16)

/-- FEAT, the event counters, time, markers, snapshots. -/
def Obligations.FeaturesTimeMarkersSnapshots : Prop :=
  Claims.FeaturesEventsAndTime ∧ Claims.MarkersAndSnapshots

/-- R314, R356, R357: TLBI begins by marking the matching entries and stays at its word until TLBI_RETIRE, which retires it once nothing
matched is in use; TPRE of a length of 0 gives 0, otherwise it hands its range to the walker; TRANSLATION_WALK gives the result 0 once the last
granule is present.
Rests on readings of the model: notes/assumptions/16.md. -/
def Obligations.TranslationControl : Prop :=
  ∀ (s : State) (d a b : RC), Quiet s →
    let v := srcVal (taken s (rcSrc a)) (rcSrc b)
    (Ready s [rcSrc a, rcSrc b] [] (.g 0) → (∀ x ∈ (hereDie s).tlb.tlbis, x.w ≠ me s) →
      (2 ^ 18 ≤ v.toNat ∨ v.toNat / 2 ^ 16 = 3 → Traps s (.tlbi a b) 0x01 (wordOf (.tlbi a b))) ∧
      ((here s).acc.sys = false → v.toNat < 2 ^ 18 → v.toNat / 2 ^ 16 ≠ 3 → Traps s (.tlbi a b) 0x02 (wordOf (.tlbi a b)))) ∧
    (Ready s [rcSrc a, rcSrc b] [] (.g 0) → (here s).acc.sys = true → v.toNat < 2 ^ 18 → v.toNat / 2 ^ 16 ≠ 3 →
      (∀ x ∈ (hereDie s).acc, x.w ≠ me s) → (∀ x ∈ (hereDie s).tlb.tlbis, x.w ≠ me s) →
      ∃ t o, exec (.tlbi a b) s = .next t ∧ (hereDie t).tlb.tlbis = (hereDie s).tlb.tlbis ++ [o] ∧ o.w = me s ∧ o.pc = (here s).acc.pc ∧
        o.mode = v.toNat / 2 ^ 16 ∧ o.asid = v.toNat % 2 ^ 16 ∧ o.va = srcVal s (rcSrc a) ∧ (here t).acc = (here s).acc ∧
        (o.mode = 2 → (∀ e ∈ (hereDie t).tlb.ents, e.dying = true ∧ e.count ≠ 0) ∧ (hereDie t).tlb.upper = [] ∧
          ∀ k, (getCore t { me s with core := k }).utlb = [] ∧ (getCore t { me s with core := k }).ctlb = [])) ∧
    ((∃ x ∈ (hereDie s).tlb.tlbis, x.w = me s ∧ x.pc = (here s).acc.pc) → exec (.tlbi a b) s = .next s) ∧
    (Ready s [rcSrc a, rcSrc b] [] d → v.toNat < 2 ^ 35 → v.toNat % 2 ^ 32 = 0 →
      exec (.tpre d a b) s = .next (wrote s [rcSrc a, rcSrc b] d 0)) ∧
    (Ready s [rcSrc a, rcSrc b] [] d → v.toNat < 2 ^ 35 → v.toNat % 2 ^ 32 ≠ 0 → v.toNat % 2 ^ 32 ≤ 0x1000000 →
      CompletesWith s (.tpre d a b) fun t =>
        ∃ q, (hereDie t).tlb.walks = (hereDie s).tlb.walks ++ [q] ∧ q.va = srcVal s (rcSrc a) ∧ q.xctx = (here s).dbg.xctx ∧
          q.id = (hereDie s).nextId + 1) ∧
    (∀ o, (getDie s s.ev.w.die).tlb.tlbis[s.ev.k]? = some o → o.w.die = s.ev.w.die → tlbiDone (getDie s s.ev.w.die) o = true →
      ctxMoves s o.w = true → (getCtx s o.w).acc.stat.st = .run → (getCtx s o.w).acc.stat.sstep = false → (getCtx s o.w).acc.pc = o.pc →
      (getCtx s o.w).acc.loops = [] →
      ∃ t, exec .tlbiRetire s = .next t ∧ (getDie t s.ev.w.die).tlb.tlbis = (getDie s s.ev.w.die).tlb.tlbis.eraseIdx s.ev.k ∧
        (getCtx t o.w).acc.pc = o.pc + 4) ∧
    (∀ q l s1 x, (getDie s s.ev.w.die).tlb.walks[s.ev.k]? = some q →
      xlWaits s s.ev.w.die (.core x.w.core) q.xctx q.va = false →
      translate s s.ev.w.die (.core x.w.core) q.xctx q.va = (s1, some l) → q.left ≤ 1 →
      (q.rd = true → l.pte.getLsbD 2 = true) → (q.wr = true → l.pte.getLsbD 3 = true) → (q.at_ = true → l.pte.getLsbD 4 = true) →
      accAt (getDie s s.ev.w.die) q.id = some x → x.w.die = s.ev.w.die →
      ∃ t, exec .translationWalk s = .next t ∧ Delivered s t x 0 ∧
        (getDie t s.ev.w.die).tlb.walks = (getDie s s.ev.w.die).tlb.walks.eraseIdx s.ev.k)

/-- R361: HALT in system mode stops the context named, and the debug agent is to be told; HALT_RESUME lets a halted context go on; in job mode
HALT raises 0x02, and 0x01 for a word with other bits (R59). -/
def Sys2Proof.Claims.HaltAndResume : Prop :=
  ∀ (s : State) (a : RC), Quiet s → Ready s [rcSrc a] [] (.g 0) →
    let v := (srcVal s (rcSrc a)).toNat
    let w : Who := ⟨(me s).die, v / 8 % 4 * 8 + v % 8, v / 32 % 2⟩
    ((here s).acc.sys = false → v < 128 → Traps s (.halt a) 0x02 (wordOf (.halt a))) ∧
    (128 ≤ v → Traps s (.halt a) 0x01 (wordOf (.halt a))) ∧
    ((here s).acc.sys = true → v < 64 → (getCtx s w).job.isSome = true →
      CompletesWith s (.halt a) fun t => (getCtx t w).halted = true ∧ (getCtx t w).acc.pc = (getCtx s w).acc.pc ∧
        ∃ m, (getCtx t w).stop = some m ∧ m.w = w) ∧
    (whoOk s s.ev.w = true → ∃ t, exec .haltResume s = .next t ∧
      getCtx t s.ev.w = { getCtx s s.ev.w with halted := false, stop := none })

/-- R13, R37, R38, R112 to R115, R363, R366, R338: the register writes as events: the register named by the event takes the value by its own
rule; the others of the context stay. -/
def Sys2Proof.Claims.RegisterWriteEvents : Prop :=
  ∀ s : State, whoOk s s.ev.w = true → s.ev.n = 0 →
    let w := s.ev.w
    let c := getCtx s w
    let v := s.ev.v
    (s.ev.k = 1 → c.acc.sys = true → c.loom.stat.st = .stop → v.getLsbD 5 = true → v.getLsbD 4 = false →
      ∃ t, exec .statusWordWrite s = .next t ∧ (getCtx t w).loom.stat.st = .run) ∧
    (s.ev.k = 3 → c.loom.stat.st = .stop → ∃ t, exec .streamPcWrite s = .next t ∧ (getCtx t w).loom.pc = v) ∧
    (s.ev.k = 3 → c.loom.stat.st ≠ .stop → ∃ t, exec .streamPcWrite s = .next t ∧ (getCtx t w).loom.pc = c.loom.pc) ∧
    (s.ev.k = 0x19 → ∃ t, exec .evpendWrite s = .next t ∧ (getCtx t w).csr = { c.csr with evpend := c.csr.evpend &&& ~~~v }) ∧
    (s.ev.k = 0x20 → ∃ t, exec .chlimWrite s = .next t ∧
      (getCtx t w).csr = { c.csr with chlim := if v = 0 ∨ 2 ^ 32 ≤ v.toNat then 0xFFFFFFFF else v }) ∧
    (s.ev.k = 8 → ∃ t, exec .roundingKeyWrite s = .next t ∧ (getCtx t w).csr = { c.csr with srkey := v }) ∧
    (s.ev.k = 0x1006 → (getCore s w).dbgctl.getLsbD 1 = false →
      ∃ t, exec .uldelWrite s = .next t ∧ (getCtx t w).csr = { c.csr with uldel := v &&& 0x0780FE00 }) ∧
    (s.ev.k = 0x1100 → ∃ t, exec .dbgctlWrite s = .next t ∧ (getCore t w).dbgctl = v &&& 7 ∧
      (v.getLsbD 1 = false → (getCtx t w).csr.uldel.getLsbD 20 = false)) ∧
    (∀ k, k < 5 → s.ev.k = 0x1128 + k → 16 ≤ v.toNat % 64 → v.toNat % 64 ≤ 34 → v.toNat / 2 ^ 16 % 2 ^ 36 * 2 ^ 16 % 2 ^ (v.toNat % 64) = 0 →
      ∃ t, exec .rgbaseWrite s = .next t ∧ spGet 0 (getDie t w.die).trace.rgrdp k = 0 ∧ spGet 0 (getDie t w.die).trace.rgwrp k = 0 ∧
        ringSize (getDie t w.die) k = 2 ^ (v.toNat % 64) ∧ ringBase (getDie t w.die) k = v.toNat / 2 ^ 16 % 2 ^ 36 * 2 ^ 16) ∧
    (∀ k, k < 5 → s.ev.k = 0x1130 + k → v.toNat < ringSize (getDie s w.die) k → v.toNat % ringRec k = 0 →
      ∃ t, exec .rgrdpWrite s = .next t ∧ spGet 0 (getDie t w.die).trace.rgrdp k = v) ∧
    (∀ k, k < 16 → s.ev.k = 0x1140 + k → ∃ t, exec .evselWrite s = .next t ∧
      ∀ j, j < 42 → (spGet 0 (getDie t w.die).trace.evsel k).getLsbD j = v.getLsbD j) ∧
    (s.ev.k = 0x1007 → ∃ t, exec .registerWrite s = .next t ∧ (getCtx t w).csr = { c.csr with sscratch := v })

/-- HALT and RESUME, and the Moot's and host's register writes.
Rests on readings of the model: notes/assumptions/25.md. -/
def Obligations.HaltResumeAndRegisterWrites : Prop :=
  Claims.HaltAndResume ∧ Claims.RegisterWriteEvents

/-! ### Booking instructions (14 R350 to R355) -/

namespace Sys2Proof.Claims

/-- The booking of this die that a handle word names for the issuer: live, its exclusive uses not all ended once it is booked (12 R294), of its
generation, and in job mode of the issuer's launch (R350). -/
def Names (s : State) (h : Word) (i : Nat) (b : Booking) : Prop :=
  h.toNat ≠ 0 ∧ h.toNat < 2 ^ 20 ∧ i = h.toNat / 64 ∧ b = getBk (hereDie s) i ∧ b.st ≠ .free ∧ b.gen = h.toNat % 64 ∧
  ((here s).acc.sys = true ∨
    b.fe = none ∧ ∃ j, (here s).job = some j ∧ launchKey j = launchKey b.job) ∧
  ¬((b.st = .booked ∨ b.st = .running) ∧ (∃ u ∈ b.uses, u.cls < 2) ∧ ∀ u ∈ b.uses, u.cls < 2 → u.ended = true)

/-- The summary word of R353. -/
def summaryWord (b : Booking) : Word :=
  let code := if b.st = .booked ∨ b.st = .running then 0 else 9
  let first := ((b.uses.find? fun u => u.slots ≠ []).map fun u => u.slots.headD 0).getD 0
  BitVec.ofNat 64 (2 ^ 63 + b.late.toNat * 2 ^ 62 + b.level % 8 * 2 ^ 59 +
    (match b.st with
      | .free => 0 | .queued => 1 | .placing => 2 | .preparing => 3 | .committing => 4 | .booked => 5 | .running => 6) * 2 ^ 55 +
    b.restarts % 32 * 2 ^ 50 + first % 2 ^ 32 * 2 ^ 8 + code)

/-- The word of a use (R353). -/
def useWord (u : Use) : Word :=
  BitVec.ofNat 64 (u.placed.toNat * 2 ^ 63 + u.started.toNat * 2 ^ 62 + u.ended.toNat * 2 ^ 61 + u.ovr.toNat * 2 ^ 60 + u.unb.toNat * 2 ^ 59 +
    (if u.placed then u.pinst else u.inst) % 128 * 2 ^ 52 + u.slots.length % 4096 * 2 ^ 36 + u.slots.headD 0 % 2 ^ 32)

/-- No task but booking `k` is in the die's intake. -/
def NoOtherTask (s : State) (k : Nat) : Prop := ∀ p ∈ (hereDie s).reeve.bks, p.1 ≠ k → p.2.st ≠ .queued ∧ p.2.st ≠ .placing

/-- A synchronous read of `n` bytes at `a` meets no fault and finds `bs` (R351 step 1); `s1` is the state after its translations and its
cache lookups. -/
def ReadsBytes (s : State) (a : Word) (n : Nat) (s1 : State) (bs : List Byte) : Prop :=
  ∃ s0 ls, translateRange s (me s).die (.access (me s).core) (here s).dbg.xctx a mayLoad (granules a.toNat n) = (s0, .ok ls) ∧
    let ps := (pieces a.toNat n (granules a.toNat n)).zip ls
    acqPending s0 (me s) = false ∧ (∀ p ∈ ps, ownStorePending s0 (me s) p.2.sp p.2.pa p.1.2 = false) ∧
    s1 = ps.foldl (fun u p => cacheLook (physMend u (me s).die p.2.sp p.2.pa p.1.2) (me s).die ((me s).core / 8) p.2.sp p.2.pa p.1.2
      (pteCA p.2.pte && !(pteBN p.2.pte))) s0 ∧
    (∀ p ∈ ps, physErr s1 (me s).die p.2.sp p.2.pa p.1.2 = none) ∧ bs = ps.flatMap fun p => physRead s1 (me s).die p.2.sp p.2.pa p.1.2

/-- The list of a gang's task, if it has one: read where its descriptor says (12 R292). -/
def GangList (s1 : State) (bs : List Byte) (b : Booking) (s2 : State) (g : List (Nat × Nat)) : Prop :=
  (b.isGang = false ∧ s2 = s1 ∧ g = []) ∨
  (b.isGang = true ∧ ∃ s3 h l, let p := BitVec.ofNat 64 (leAt bs 320 8)
    ReadsBytes s1 p 8 s3 h ∧ leNat h ≠ 0 ∧ leNat h ≤ 2 ^ 20 ∧ ReadsBytes s3 p (8 + 8 * leNat h) s2 l ∧ gangOf l (leNat h) = some g)

/-- The descriptor at `x` is good for the issuer: its task is `b`, its regions pass their checks and translate to `rs`; `s3` is the state after
the reads and translations (R351 steps 1 to 3). -/
def TaskAt (s : State) (x : Word) (b : Booking) (s3 : State) (rs : List Region) : Prop :=
  x.toNat % 64 = 0 ∧ ∃ s1 bs s2 g, ReadsBytes s x 512 s1 bs ∧ taskOf (me s).die bs = some b ∧ GangList s1 bs b s2 g ∧
    (b.prio ≠ 7 ∨ (here s).acc.sys = true) ∧ me s3 = me s ∧ ∀ go, bookRegions (me s) bs go b.regs 0 [] s2 = go s3 rs

/-- The access-core context has one access more in flight that awaits a result for `d`. -/
def AwaitsResult (s t : State) (d : GReg) : Prop :=
  ∃ a ∈ (hereDie t).acc, a.w = me s ∧ a.kind = .result ∧ a.id = (hereDie s).nextId + 1 ∧
    (d ≠ 0 → a.dest = .g (gKey (here s) d).1 (gKey (here s) d).2)

end Sys2Proof.Claims

/-- R350, R353 to R355: BQRY completes with the selected word of the booking named, 0 where none is live or the use is beyond NUSE; BCAN and
BDONE complete with 2 where none is live; BDONE with 3 beyond the last use and 1 for a use that has ended; a booking under COMMIT answers
later; a task in intake is ended by BCAN, with 0, and is live no more. -/
def Sys2Proof.Claims.BookingQueriesAndEnds : Prop :=
  ∀ (s : State) (d a : GReg) (b : RC), Quiet s →
    let h := readG (here s) a
    let x := srcVal s (rcSrc b)
    let l := [Src.g a, rcSrc b]
    (Ready s l [] (.g d) → h.toNat < 2 ^ 20 → x.toNat ≤ 8 →
      ((∀ k q, ¬ Names (takenAll s l) h k q) → exec (.bqry d a b) s = .next (wrote s l (.g d) 0)) ∧
      (∀ k q, Names (takenAll s l) h k q →
        exec (.bqry d a b) s = .next (wrote s l (.g d) (if x.toNat = 0 then summaryWord q
          else if q.uses.length < x.toNat then 0 else useWord (q.uses.getD (x.toNat - 1) {}))))) ∧
    (Ready s l [] (.g d) → h.toNat < 2 ^ 20 → x.toNat < 8 →
      ((∀ k q, ¬ Names (takenAll s l) h k q) → exec (.bdone d a b) s = .next (wrote s l (.g d) 2)) ∧
      (∀ k q, Names (takenAll s l) h k q →
        (q.uses.length ≤ x.toNat → exec (.bdone d a b) s = .next (wrote s l (.g d) 3)) ∧
        (x.toNat < q.uses.length → q.st ≠ .preparing → q.st ≠ .committing → (q.uses.getD x.toNat {}).ended = true →
          exec (.bdone d a b) s = .next (wrote s l (.g d) 1)) ∧
        (x.toNat < q.uses.length → (q.st = .preparing ∨ q.st = .committing) →
          CompletesWith s (.bdone d a b) fun t => AwaitsResult s t d))) ∧
    (Ready s [.g a] [] (.g d) → h.toNat < 2 ^ 20 →
      ((∀ k q, ¬ Names s h k q) → exec (.bcan d a) s = .next (wrote s [.g a] (.g d) 2)) ∧
      (∀ k q, Names s h k q →
        (q.st = .committing → CompletesWith s (.bcan d a) fun t => AwaitsResult s t d) ∧
        ((q.st = .queued ∨ q.st = .placing) → NoOtherTask s k →
          Completes s (.bcan d a) (.g d) 0 fun t => (getBk (hereDie t) k).st = .free))) ∧
    (Ready s [.g a] [] (.g d) → 2 ^ 20 ≤ h.toNat → Traps s (.bcan d a) 0x01 h)

/-- R354, R355, R300: in every other state, whatever the calendars hold, BCAN of a booking completes with 1 where a use of it has started and
0 otherwise, and BDONE of a use that has not ended completes with 0; a current use that its engine still works on closes its gate. -/
def Sys2Proof.Claims.BookingsEndInEveryState : Prop :=
  ∀ (s : State) (d a : GReg) (b : RC) (k : Nat) (q : Booking), Quiet s →
    let h := readG (here s) a
    let x := srcVal s (rcSrc b)
    let l := [Src.g a, rcSrc b]
    (Ready s [.g a] [] (.g d) → Names s h k q → q.st ≠ .committing →
      Completes s (.bcan d a) (.g d)
        (if (q.st = .booked ∨ q.st = .running) ∧ ∃ u ∈ q.uses, u.started = true then 1 else 0) fun _ => True) ∧
    (Ready s l [] (.g d) → Names (takenAll s l) h k q → x.toNat < q.uses.length → x.toNat < 8 → q.st ≠ .preparing → q.st ≠ .committing →
      let u := q.uses.getD x.toNat {}
      u.ended = false →
      (Completes s (.bdone d a b) (.g d) 0 fun _ => True) ∧
      ((q.st = .booked ∨ q.st = .running) → u.cls < 2 → u.started = true → useBusy (takenAll s l) (me s).die k x.toNat false = true →
        Completes s (.bdone d a b) (.g d) 0 fun t =>
          ((getBk (hereDie t) k).uses.getD x.toNat {}).closing = true ∧ ((getBk (hereDie t) k).uses.getD x.toNat {}).gate = false))

/-- Bookings: queried and ended. -/
def Obligations.BookingsAreReadAndEnded : Prop :=
  Claims.BookingQueriesAndEnds ∧ Claims.BookingsEndInEveryState

/-- R351, R280: BOOK reads its descriptor; one that breaks R280 completes with BAD_DESC, PRIO 7 in job mode with BAD_PRIO; a good one whose
regions pass their checks goes to the Reeve: BOOK retires, its result is awaited, and where the die takes tasks its table holds the task.  A misaligned address traps with 0x03.
Rests on readings of the model: notes/assumptions/29.md. -/
def Obligations.BookSubmitsATask : Prop :=
  ∀ (s : State) (d a : GReg), Quiet s → Ready s [.g a] [] (.g d) →
    let x := readG (here s) a
    (x.toNat % 64 ≠ 0 → Traps s (.book d a) 0x03 x) ∧
    (∀ s1 bs, x.toNat % 64 = 0 → ReadsBytes s x 512 s1 bs →
      (leAt bs 0 1 ≠ 1 → Completes s (.book d a) (.g d) 5 fun t => t = s1) ∧
      (taskOf (me s).die bs = none → Completes s (.book d a) (.g d) 5 fun t => t = s1) ∧
      ∀ b s2 g, taskOf (me s).die bs = some b → GangList s1 bs b s2 g →
        (b.prio = 7 → (here s).acc.sys = false → Completes s (.book d a) (.g d) 6 fun t => t = s2)) ∧
    ∀ b s3 rs, TaskAt s x b s3 rs →
      CompletesWith s (.book d a) fun t => AwaitsResult s3 t d ∧ (hereDie t).mem = (hereDie s3).mem ∧
        (calendarsRun (hereDie s3) = true → intakeStops (hereDie s3) = false → (freeBk (hereDie s3)).isSome = true →
          intakeCount (hereDie s3) < 256 →
          ∃ i, let q := getBk (hereDie t) i
            q.st = .queued ∧ q.uses = b.uses ∧ q.regs = rs ∧ q.prio = b.prio ∧ q.tiles = b.tiles ∧ q.rel = b.rel ∧ q.deadl = b.deadl)

/-! ### Remote operations (18 R455 to R459) -/

namespace Sys2Proof.Claims

/-- The egress check and the alignment pass (R455): a capability of one of the kinds, with the permission, whose bounds hold the bytes. -/
def Egress (c : Cap) (x : Word) (kinds : List Nat) (perm n : Nat) : Prop :=
  c.tag = true ∧ cKind c ∈ kinds ∧ (cPerm c).testBit perm = true ∧ cBase c ≤ x.toNat ∧ x.toNat + n ≤ cEnd c ∧ x.toNat % n = 0

/-- Export address: the cursor and the scaled offset. -/
def exportAt (c : Cap) (o : BitVec 6) (n : Nat) : Word := BitVec.ofNat 64 (cCursor c) + BitVec.ofInt 64 (o.toInt * n)

/-- The capability register is at hand, and no acquire load is under way. -/
def CapReady (s : State) (r : CapReg) : Prop := capHeld s r = true ∧ acqPending s (me s) = false

/-- The remote operation has issued: the access is in flight, its message is on its way to the capability's die. -/
def SentRemote (s t : State) (x : Access) (op : Nat) (c : Cap) : Prop :=
  InFlight s t x ∧
  ∃ m, t.net = s.net ++ [m] ∧ m.kind = .remote ∧ m.src = (me s).die ∧ m.dst = cPeer c ∧ m.w = me s ∧ m.tag = (hereDie s).nextId + 1 ∧
    m.op = op ∧ m.size = x.size ∧ m.addr = x.va ∧ m.opnd = x.val ∧ m.opnd2 = x.exp ∧ m.capk = cKind c ∧ m.cmb = x.cmb ∧
  (here t).acc = (here s).acc ∧ ∀ e, (getDie t e).mem = (getDie s e).mem

/-- The remote atomic `i` issues: operation code, destination, capability, operand, CMB, whether the size is 8.  To a plain window it sends one
request; to a barrier only ADD.D without CMB goes, once the stream's earlier accesses have completed. -/
def RatomIssues (s : State) (i : Instr) (op : Nat) (d : RC) (r : CapReg) (b : Src) (m z : Bool) : Prop :=
  let c := capReg s r
  let x := BitVec.ofNat 64 (cCursor c)
  let n := atomBytes z
  let s1 := takenAll s [b]
  Ready s [b] [] d →
    (Egress c x [0] 2 n →
      CompletesWith s i fun t => SentRemote s1 t
        { id := 0, w := me s, kind := .ratom op, va := x, size := n, val := srcVal s b, capv := c, cmb := m, dest := (destOf s1 d).2 } (16 + op) c) ∧
    (op = 0 → z = true → m = false → Egress c x [2] 2 8 → (∀ y ∈ (hereDie s).acc, y.w ≠ me s) →
      CompletesWith s i fun t => ∃ q, t.net = s1.net ++ [q] ∧ q.kind = .remote ∧ q.dst = cPeer c ∧ q.op = 16 ∧ q.capk = 2 ∧ q.addr = x ∧
        q.opnd = srcVal s b) ∧
    (c.tag = true → cKind c = 2 → (op ≠ 0 ∨ z = false ∨ m = true) → Traps s i 0x08 x)

end Sys2Proof.Claims

/-- R455 to R458: the remote loads, stores and atomics whose checks pass issue one access, send one request to the capability's peer die and
go on; a check that fails traps with its cause and the export address, an untagged capability with 0x06. -/
def Sys2Proof.Claims.RemoteOperationsIssueOneRequest : Prop :=
  ∀ (s : State) (r : CapReg) (o : BitVec 6) (k : Fin 8) (z : Size), Quiet s → CapReady s r → SlotRoom s k.val →
    let c := capReg s r
    let n := nBytes z
    let x := exportAt c o n
    (∀ d, Ready s [] [] (.g d) → Egress c x [0, 3, 4] 0 n →
      CompletesWith s (.rld d r o k z) fun t =>
        SentRemote s t { id := 0, w := me s, kind := .rload, va := x, size := n, sb := k.val, capv := c, dest := (destOf s (.g d)).2 } 0 c) ∧
    (∀ q, Ready s [] [] (.ch q) → Egress c x [0, 3, 4] 0 n →
      CompletesWith s (.rldq q r o k z) fun t =>
        SentRemote s t { id := 0, w := me s, kind := .rload, va := x, size := n, sb := k.val, capv := c, dest := .chan q.val } 0 c) ∧
    (∀ v, Ready s [rcSrc v] [] (.g 0) → Egress c x [0, 3, 4] 1 n →
      CompletesWith s (.rst v r o k z) fun t => SentRemote (takenAll s [rcSrc v]) t
        { id := 0, w := me s, kind := .rstore, va := x, size := n, val := srcVal s (rcSrc v), sb := k.val, capv := c } 1 c) ∧
    (∀ d, Ready s [] [] (.g d) → c.tag = false → Traps s (.rld d r o k z) 0x06 x) ∧
    (∀ d, Ready s [] [] (.g d) → c.tag = true → cKind c ∉ [0, 3, 4] → Traps s (.rld d r o k z) 0x08 x) ∧
    (∀ d, Ready s [] [] (.g d) → c.tag = true → cKind c ∈ [0, 3, 4] → (cPerm c).testBit 0 = true → (x.toNat < cBase c ∨ cEnd c < x.toNat + n) →
      Traps s (.rld d r o k z) 0x07 x)

/-- R458, R459: RATOM and RCAS whose checks pass do the same with their operands; an arrival at a barrier, ADD.D alone, goes once the stream's
earlier accesses have completed. -/
def Sys2Proof.Claims.RemoteAtomicsIssueOneRequest : Prop :=
  (∀ (s : State) (d : RC) (r : CapReg) (b : Src) (m z : Bool), Quiet s → CapReady s r →
    RatomIssues s (.ratomAdd d r b m z) 0 d r b m z ∧ RatomIssues s (.ratomSub d r b z) 1 d r b false z ∧
    RatomIssues s (.ratomAnd d r b z) 2 d r b false z ∧ RatomIssues s (.ratomOr d r b z) 3 d r b false z ∧
    RatomIssues s (.ratomXor d r b z) 4 d r b false z ∧ RatomIssues s (.ratomMin d r b z) 5 d r b false z ∧
    RatomIssues s (.ratomMax d r b z) 6 d r b false z ∧ RatomIssues s (.ratomMinu d r b z) 7 d r b false z ∧
    RatomIssues s (.ratomMaxu d r b z) 8 d r b false z ∧ RatomIssues s (.ratomXchg d r b z) 9 d r b false z) ∧
  (∀ (s : State) (d : GReg) (r : CapReg) (b : Src) (z : Bool), Quiet s → CapReady s r → Ready s [b] [d] (.g d) →
    let c := capReg s r
    let x := BitVec.ofNat 64 (cCursor c)
    Egress c x [0] 2 (atomBytes z) →
    CompletesWith s (.rcas d r b z) fun t => SentRemote (takenAll s [b]) t
      { id := 0, w := me s, kind := .rcas, va := x, size := atomBytes z, val := srcVal s b, exp := readG (here s) d, capv := c,
        dest := (destOf (takenAll s [b]) (.g d)).2 } 2 c)

/-- Remote operations issue one request. -/
def Obligations.RemoteInstructionsIssueOneRequest : Prop :=
  Claims.RemoteOperationsIssueOneRequest ∧ Claims.RemoteAtomicsIssueOneRequest

/-! ### Bundle contexts (18 R462 to R469) -/

namespace Sys2Proof.Claims

/-- The header H of bundle context `n` (R462). -/
def header (s : State) (n : Fin 4) : Nat := ((List.range 4).map fun k => (bdWord (getBd (here s) n.val) k).toNat / 2 ^ 52 * 2 ^ (12 * k)).sum

def lineOf (s : State) (n : Fin 4) (k : Nat) : Nat := (bdWord (getBd (here s) n.val) k).toNat % 2 ^ 52

def headState (h : Nat) : Nat := h / 2 ^ 21 % 4

def headLines (h : Nat) : Nat := h % 2 ^ 5

def headBad (h : Nat) : Prop := h / 2 ^ 28 % 2 = 1

/-- A bundle context for use: no BNDS in flight; lines, not BAD, in the STATE. -/
def BundleOpen (s : State) (n : Fin 4) (st : Nat) : Prop :=
  bndsBusy s (me s) n.val = false ∧ ¬ headBad (header s n) ∧ headLines (header s n) ≠ 0 ∧ headState (header s n) = st

/-- The bundle context of the header `h` has an area inside the scratchpad and the way mask. -/
def AreaOk (s : State) (off len : Nat) : Prop := off % 128 = 0 ∧ off + len ≤ 0x600000 ∧ badOffset (here s) off len = none

end Sys2Proof.Claims

/-- R462 to R469: BNDO closes a context or opens one with the header its mode word gives and no lines; BNDS counts a line and sends its address
to the peer; BNDC and BNDR make the context busy and await their result, BNDC with a command in its Carter's queue; BNDQ reads H or a word.  A
context in the wrong STATE raises 0x1A.
Rests on readings of the model: notes/assumptions/13.md. -/
def Obligations.BundleInstructionsMoveTheContext : Prop :=
  ∀ (s : State) (n : Fin 4), Quiet s → (here s).errs.contains (.bd n.val) = false →
    let h := header s n
    (∀ a, Ready s [.g a] [] (.g 0) → bndsBusy s (me s) n.val = false →
      let v := readG (here s) a
      let off := v.toNat % 2 ^ 23
      let mode := v.toNat / 2 ^ 23 % 4
      (v.toNat < 2 ^ 29 → mode = 0 → headState h ≠ 3 →
        CompletesWith s (.bndo n a) fun t => header t n = 0 ∧ ∀ k, k < 16 → lineOf t n k = 0) ∧
      (v.toNat < 2 ^ 29 → mode = 0 → headState h = 3 → exec (.bndo n a) s = .next s) ∧
      (v.toNat < 2 ^ 30 → (mode = 1 ∧ v.toNat < 2 ^ 29 ∨ mode = 2) → headState h = 0 → AreaOk s off (if mode = 1 then 2048 else 2176) →
        CompletesWith s (.bndo n a) fun t =>
          header t n = off / 128 * 2 ^ 5 + mode * 2 ^ 21 + v.toNat / 2 ^ 25 % 2 * 2 ^ 23 + v.toNat / 2 ^ 26 % 8 * 2 ^ 24 + v.toNat / 2 ^ 29 * 2 ^ 27 ∧
          ∀ k, k < 16 → lineOf t n k = 0) ∧
      (v.toNat < 2 ^ 29 → (mode = 1 ∨ mode = 2) → headState h ≠ 0 → Traps s (.bndo n a) 0x1A v)) ∧
    (∀ r, CapReady s r → Ready s [] [] (.g 0) → bndsBusy s (me s) n.val = false →
      let c := capReg s r
      let x := BitVec.ofNat 64 (cCursor c)
      Egress c x [0] 4 128 → ¬ headBad h → headLines h < 16 → (headState h = 1 ∨ headState h = 2) →
      CompletesWith s (.bnds n r) fun t => header t n = h + 1 ∧
        ∃ m, t.net = s.net ++ [m] ∧ m.kind = .bndsReq ∧ m.src = (me s).die ∧ m.dst = cPeer c ∧ m.addr = x ∧ m.tag = (hereDie s).nextId + 1) ∧
    (∀ d, Ready s [] [] (.g d) → BundleOpen s n 1 →
      let k := h / 2 ^ 23 % 2
      let q := bndcCmd s (me s) n.val ((encodeNat (.bndc d n)).getD 0)
      (gateFor s (me s) q.use 1 (2 * (me s).core + k) false = .unbooked ∨ gateFor s (me s) q.use 1 (2 * (me s).core + k) false = .opened) →
      (queueOf (here s) k).q.length < 16 → NoClash s (lenOff q.l) (lenN q.l) false →
      CompletesWith s (.bndc d n) fun t => headState (header t n) = 3 ∧ AwaitsResult s t d ∧
        (queueOf (here t) k).q.length = (queueOf (here s) k).q.length + 1) ∧
    (∀ d, Ready s [] [] (.g d) → BundleOpen s n 2 → NoClash s (h / 2 ^ 5 % 2 ^ 16 * 128) 2176 true →
      CompletesWith s (.bndr d n) fun t => headState (header t n) = 3 ∧ AwaitsResult s t d ∧
        ∃ r ∈ (here t).bndr, r.bd = n.val ∧ r.round = 1 ∧ r.attempt = 0 ∧ r.await = List.range (headLines h)) ∧
    (∀ d, Ready s [] [] (.g d) → bndsBusy s (me s) n.val = false → headState h ≠ 1 →
      ∃ v, exec (.bndc d n) s = .next (takeTrap { s with free := s.free + 1 } (me s) 0x1A v 0 true)) ∧
    (∀ d, Ready s [] [] (.g d) → bndsBusy s (me s) n.val = false → headState h ≠ 2 →
      ∃ v, exec (.bndr d n) s = .next (takeTrap { s with free := s.free + 1 } (me s) 0x1A v 0 true)) ∧
    (∀ d b, Ready s [b] [] d →
      let v := (srcVal s b).toNat
      (v = 16 → exec (.bndq d n b) s = .next (wrote s [b] d (BitVec.ofNat 64 h))) ∧
      (v < 16 → exec (.bndq d n b) s = .next (wrote s [b] d (bdWord (getBd (here s) n.val) v))) ∧
      (16 < v → Traps s (.bndq d n b) 0x01 (wordOf (.bndq d n b))))

/-! ### Contexts saved and restored (13 R318 to R324; 14 R358 to R360) -/

namespace Sys2Proof.Claims

/-- The context that a target word names (R358). -/
def targetCtx (s : State) (v : Word) : Who := ⟨(me s).die, v.toNat / 8 % 4 * 8 + v.toNat % 8, v.toNat / 32 % 2⟩

end Sys2Proof.Claims

/-- R358 to R360: CTXS on a target without a job writes 1, on one with a job begins its save; CTXR on an occupied target writes 1, on a free
one begins its restore; both await their status.  In job mode they raise 0x02, and 0x01 for the issuing context itself; a misaligned area raises 0x03. -/
def Obligations.ContextSaveAndRestoreBegin : Prop :=
  ∀ (s : State) (d a b : RC), Quiet s → Ready s [rcSrc a, rcSrc b] [] d →
    let area := srcVal s (rcSrc a)
    let v := srcVal (taken s (rcSrc a)) (rcSrc b)
    let s0 := takenAll s [rcSrc a, rcSrc b]
    let w := targetCtx s v
    let n := v.toNat / 2 ^ 16 % 2 ^ 32
    ((here s).acc.sys = false → w ≠ me s →
      (v.toNat / 2 ^ 6 % 2 ^ 10 = 0 → v.toNat < 2 ^ 48 → Traps s (.ctxs d a b) 0x02 (wordOf (.ctxs d a b))) ∧
      (v.toNat < 2 ^ 6 → Traps s (.ctxr d a b) 0x02 (wordOf (.ctxr d a b)))) ∧
    (w = me s → Traps s (.ctxs d a b) 0x01 (wordOf (.ctxs d a b)) ∧ Traps s (.ctxr d a b) 0x01 (wordOf (.ctxr d a b))) ∧
    ((here s).acc.sys = true → v.toNat / 2 ^ 6 % 2 ^ 10 = 0 → v.toNat < 2 ^ 48 → w ≠ me s →
      (area.toNat % 4096 ≠ 0 → Traps s (.ctxs d a b) 0x03 area) ∧
      (∀ s1 runs, area.toNat % 4096 = 0 → areaRuns s0 (me s) area (n * 4096) (fun e => e.getLsbD 3) = (s1, .ok runs) →
        ((getCtx s w).job = none → Completes s (.ctxs d a b) d 1 fun t => t = s1) ∧
        ((getCtx s w).job ≠ none → (getCtx s w).saving = none →
          CompletesWith s (.ctxs d a b) fun t => ∃ op, (getCtx t w).saving = some op ∧ op.limit = n ∧ op.runs = runs ∧
            op.id = (hereDie s1).nextId + 1 ∧ ∃ x ∈ (hereDie t).acc, x.id = op.id ∧ x.w = me s ∧ x.kind = .result))) ∧
    ((here s).acc.sys = true → v.toNat < 2 ^ 6 → w ≠ me s → area.toNat % 4096 = 0 →
      ∀ s1 s2 first runs im, let total := leNat ((((readArea (hereDie s1).mem first).drop 0xE0).take 8).map Prod.fst)
        areaRuns s0 (me s) area 4096 mayLoad = (s1, .ok first) → 0x1640 ≤ total → total ≤ 2 ^ 23 →
        areaRuns s1 (me s) area total mayLoad = (s2, .ok runs) → failedCheck (hereDie s2).mem runs = none → (imageAt s2 w runs).1 = some im →
        ((getCtx s w).job ≠ none → Completes s (.ctxr d a b) d 1 fun t => t = s2) ∧
        ((getCtx s w).job = none → (getCtx s w).restoring = none →
          CompletesWith s (.ctxr d a b) fun t => ∃ op, (getCtx t w).restoring = some op ∧ op.runs = runs ∧ op.id = (hereDie s2).nextId + 1 ∧
            ∃ x ∈ (hereDie t).acc, x.id = op.id ∧ x.w = me s ∧ x.kind = .result))

/-! ### The Loom (06 R155 to R187) -/

namespace Sys2Proof.Claims

/-- What an instruction of the Loom reads and computes: its sources and destinations with their widths and counts, the entries it
pushes, and what it makes of the values of its sources. -/
structure Plan where
  ins : List LIn
  outs : List LOut
  push : Option (Nat × Nat) := none
  res : List (List Nat) → LRes

def source (o : LOpnd) (g : Fmt) (n : Nat) : LIn := { o := o, n := n, wb := fmtBits g, fmt := some g }

def target (o : LOpnd) (g : Fmt) (n : Nat) : LOut := { o := o, wb := fmtBits g, fmt := some g, n := n }

/-- Rows and columns of the shape (R155). -/
def rowsOf (s : State) : Nat := (here s).loom.shape.toNat % 2 ^ 16

def colsOf (s : State) : Nat := (here s).loom.shape.toNat / 2 ^ 16 % 2 ^ 16

/-- The elements that the predicate selects: all of them, or the first p (R157). -/
def chosen (s : State) (f : LForm) : Nat :=
  if f.pred.val = 0 then rowsOf s * colsOf s else min (spGet 0 (here s).loom.p f.pred.val).toNat (rowsOf s * colsOf s)

/-- Element by element: sources with their formats, the format of D, and d(e) from the encodings of the sources' elements. -/
def each (s : State) (f : LForm) (srcs : List (LOpnd × Fmt)) (g : Fmt) (counts : Bool) (fn : Nat → List Nat → Nat) : Plan :=
  let n := chosen s f
  { ins := srcs.map fun p => source p.1 p.2 n, outs := [target f.d g n]
    res := fun vs => { outs := [(List.range n).map fun e => (e, fn e (vs.map fun l => l.getD e 0))], sr := counts && f.rnd == .sr && n != 0 } }

/-- One rounding of an exact result (R164). -/
def rounded (s : State) (f : LForm) (e : Nat) (x : FNum) : Nat := roundTo x f.fmt f.rnd f.sat (srBits (here s).csr.srkey (here s).csr.srcv e)

def arith (s : State) (f : LForm) (srcs : List LOpnd) (fn : List FNum → FNum) : Plan :=
  each s f (srcs.map fun o => (o, f.fmt)) f.fmt true fun e vs => rounded s f e (fn (vs.map (valueOf f.fmt)))

def exact (s : State) (f : LForm) (srcs : List LOpnd) (fn : List Nat → Nat) : Plan :=
  each s f (srcs.map fun o => (o, f.fmt)) f.fmt false fun _ vs => fn vs

/-- Value `k` of a list of values. -/
def nth (l : List FNum) (k : Nat) : FNum := l.getD k .nan

def toMinus (f : LForm) : Bool := f.rnd == .rdn

/-- All ones where the comparison holds (R165). -/
def mask (f : LForm) (b : Bool) : Nat := if b then 2 ^ fmtBits f.fmt - 1 else 0

/-- The element-wise instructions (R164 to R169, R179). -/
def elementPlan (s : State) : Instr → Option Plan
  | .vadd f => some (arith s f [f.a, f.b] fun v => numAdd (nth v 0) (nth v 1) (toMinus f))
  | .vsub f => some (arith s f [f.a, f.b] fun v => numAdd (nth v 0) (numNeg (nth v 1)) (toMinus f))
  | .vmul f => some (arith s f [f.a, f.b] fun v => numMul (nth v 0) (nth v 1))
  | .vfma f => some (arith s f [f.a, f.b, f.d] fun v => numAdd (numMul (nth v 0) (nth v 1)) (nth v 2) (toMinus f))
  | .vfms f => some (arith s f [f.a, f.b, f.d] fun v => numAdd (numMul (nth v 0) (nth v 1)) (numNeg (nth v 2)) (toMinus f))
  | .vfnma f => some (arith s f [f.a, f.b, f.d] fun v => numAdd (nth v 2) (numNeg (numMul (nth v 0) (nth v 1))) (toMinus f))
  | .vdiv f => some (arith s f [f.a, f.b] fun v => numDiv (nth v 0) (nth v 1))
  | .vsqrt f => some (arith s f [f.a] fun v => numSqrt (nth v 0))
  | .vrcp f => some (arith s f [f.a] fun v => numRcp (nth v 0))
  | .vrsq f => some (arith s f [f.a] fun v => numRsq (nth v 0))
  | .vexp2 f => some (arith s f [f.a] fun v => numExp2 (nth v 0))
  | .vlog2 f => some (arith s f [f.a] fun v => numLog2 (nth v 0))
  | .vtanh f => some (arith s f [f.a] fun v => numTanh (nth v 0))
  | .vsinp f => some (arith s f [f.a] fun v => numSinPi (nth v 0))
  | .vcosp f => some (arith s f [f.a] fun v => numCosPi (nth v 0))
  | .vmin f => some (exact s f [f.a, f.b] fun v => if totalLess (v.getD 1 0) (v.getD 0 0) f.fmt then v.getD 1 0 else v.getD 0 0)
  | .vmax f => some (exact s f [f.a, f.b] fun v => if totalLess (v.getD 0 0) (v.getD 1 0) f.fmt then v.getD 1 0 else v.getD 0 0)
  | .vabs f => some (exact s f [f.a] fun v => v.getD 0 0 % 2 ^ (fmtBits f.fmt - 1))
  | .vneg f => some (exact s f [f.a] fun v => v.getD 0 0 ^^^ 2 ^ (fmtBits f.fmt - 1))
  | .vcpys f => some (exact s f [f.a, f.b] fun v =>
      v.getD 0 0 % 2 ^ (fmtBits f.fmt - 1) + v.getD 1 0 / 2 ^ (fmtBits f.fmt - 1) % 2 * 2 ^ (fmtBits f.fmt - 1))
  | .vcls f => some (exact s f [f.a] fun v => classCode f.fmt (v.getD 0 0))
  | .vcmpEq f => some (exact s f [f.a, f.b] fun v => mask f (!(totalLess (v.getD 0 0) (v.getD 1 0) f.fmt) && !(totalLess (v.getD 1 0) (v.getD 0 0) f.fmt)))
  | .vcmpNe f => some (exact s f [f.a, f.b] fun v => mask f (totalLess (v.getD 0 0) (v.getD 1 0) f.fmt || totalLess (v.getD 1 0) (v.getD 0 0) f.fmt))
  | .vcmpLt f => some (exact s f [f.a, f.b] fun v => mask f (totalLess (v.getD 0 0) (v.getD 1 0) f.fmt))
  | .vcmpLe f => some (exact s f [f.a, f.b] fun v => mask f (!(totalLess (v.getD 1 0) (v.getD 0 0) f.fmt)))
  | .vcmpGt f => some (exact s f [f.a, f.b] fun v => mask f (totalLess (v.getD 1 0) (v.getD 0 0) f.fmt))
  | .vcmpGe f => some (exact s f [f.a, f.b] fun v => mask f (!(totalLess (v.getD 0 0) (v.getD 1 0) f.fmt)))
  | .vsel f => some (each s f [(f.a, f.fmt), (f.b, f.fmt)] f.fmt false fun e v =>
      if flatElem (here s) (f.modf.toNat % 16) (fmtBits f.fmt) e ≠ 0 then v.getD 0 0 else v.getD 1 0)
  | .vand f => some (exact s f [f.a, f.b] fun v => v.getD 0 0 &&& v.getD 1 0)
  | .vor f => some (exact s f [f.a, f.b] fun v => v.getD 0 0 ||| v.getD 1 0)
  | .vxor f => some (exact s f [f.a, f.b] fun v => v.getD 0 0 ^^^ v.getD 1 0)
  | .vnot f => some (exact s f [f.a] fun v => 2 ^ fmtBits f.fmt - 1 - v.getD 0 0)
  | .vshl f => some (exact s f [f.a, f.b] fun v =>
      if fmtBits f.fmt ≤ v.getD 1 0 then 0 else v.getD 0 0 * 2 ^ v.getD 1 0 % 2 ^ fmtBits f.fmt)
  | .vshr f => some (exact s f [f.a, f.b] fun v => if fmtBits f.fmt ≤ v.getD 1 0 then 0 else v.getD 0 0 / 2 ^ v.getD 1 0)
  | .vsha f => some (exact s f [f.a, f.b] fun v =>
      wrapInt (fmtBits f.fmt) (sintOf (fmtBits f.fmt) (v.getD 0 0) / ((2 ^ min (v.getD 1 0) (fmtBits f.fmt) : Nat) : Int)))
  | .viadd f => some (exact s f [f.a, f.b] fun v => intResult f.fmt f.sat (intValue f.fmt (v.getD 0 0) + intValue f.fmt (v.getD 1 0)))
  | .visub f => some (exact s f [f.a, f.b] fun v => intResult f.fmt f.sat (intValue f.fmt (v.getD 0 0) - intValue f.fmt (v.getD 1 0)))
  | .vimul f => some (exact s f [f.a, f.b] fun v => intResult f.fmt f.sat (intValue f.fmt (v.getD 0 0) * intValue f.fmt (v.getD 1 0)))
  | .vcvt f => some (each s f [(f.a, srcFmt f)] f.fmt true fun e v =>
      convert (srcFmt f) f.fmt f.rnd f.sat (f.modf.getLsbD 14) (srBits (here s).csr.srkey (here s).csr.srcv e) (v.getD 0 0))
  | .vmov f => some (exact s f [f.a] fun v => v.getD 0 0)
  | _ => none

/-- A source is at hand: a register whose elements the format fits, a vg register, or a filled head entry of a channel that the Loom
consumes. -/
def inReady (s : State) (i : LIn) : Prop :=
  match i.o with
  | .vreg _ _ _ _ => i.wb ≤ 8 * 2 ^ ((here s).loom.shape.toNat / 2 ^ 32 % 4)
  | .const _ => True
  | .chan n _ => let x := getChan (here s) n.val; chEn x = true ∧ chCons x = 1 ∧ headFilled x = true
  | .stream _ => False

/-- A destination can be written. -/
def outReady (s : State) (o : LOut) : Prop :=
  match o.o with
  | .vreg _ _ _ _ => o.wb ≤ 8 * 2 ^ ((here s).loom.shape.toNat / 2 ^ 32 % 4)
  | .const _ => True
  | _ => False

/-- The operands are at hand, and the channel it pushes into is the Loom's and has room. -/
def PlanReady (s : State) (p : Plan) : Prop :=
  (∀ i ∈ p.ins, inReady s i) ∧ (∀ o ∈ p.outs, outReady s o) ∧
  ∀ n m, p.push = some (n, m) → let x := getChan (here s) n; chEn x = true ∧ chProd x = 1 ∧ x.q.length + m ≤ 16

/-- Where element `e` of a register operand lies, in bits of the register (02 R52; 06 R156). -/
def bitOf (s : State) (row0 step col wb e : Nat) : Nat :=
  let w := (here s).loom.shape.toNat / 2 ^ 32 % 4
  let len := 8 * (colsOf s * 2 ^ w)
  (row0 + e / colsOf s * (step + 1)) % rowsOf s * len + (col * 256 + e % colsOf s * wb) % len

/-- Element `e` of a source (R159). -/
def inElem (s : State) (i : LIn) (e : Nat) : Nat :=
  match i.o with
  | .vreg x r st co => (spGet 0 (here s).loom.v x.val).toNat / 2 ^ bitOf s r.val st.val co.val i.wb e % 2 ^ i.wb
  | .const k => (getVg (here s) k.val).toNat % 2 ^ i.wb
  | .chan n _ => ((getChan (here s) n.val).q.headD {}).val.toNat % 2 ^ i.wb
  | .stream _ => 0

/-- A bit after some writes, each a place, a first bit, a width and a value; the last that covers it decides. -/
def bitAfter (ws : List (Nat × Nat × Nat × Nat)) (k j : Nat) (old : Bool) : Bool :=
  ws.foldl (fun b w => if w.1 = k ∧ w.2.1 ≤ j ∧ j < w.2.1 + w.2.2.1 then w.2.2.2.testBit (j - w.2.1) else b) old

/-- The writes of a result to the v registers: its destinations, then what else it writes. -/
def vWrites (s : State) (outs : List LOut) (r : LRes) : List (Nat × Nat × Nat × Nat) :=
  ((outs.zip r.outs).flatMap fun p =>
    match p.1.o with
    | .vreg x r0 st co => p.2.map fun q => (x.val, bitOf s r0.val st.val co.val p.1.wb q.1, p.1.wb, q.2)
    | _ => []) ++
  r.regs.flatMap fun g => g.2.2.map fun q => (g.1, q.1, g.2.1, q.2)

/-- The v registers hold what they held, but for some writes. -/
def VAfter (s t : State) (ws : List (Nat × Nat × Nat × Nat)) : Prop :=
  ∀ k j, j < 32768 → (spGet 0 (here t).loom.v k).getLsbD j = bitAfter ws k j ((spGet 0 (here s).loom.v k).getLsbD j)

/-- The channels that an instruction pops: its channel sources without peek. -/
def popped (ins : List LIn) (n : Nat) : Bool :=
  ins.any fun i => match i.o with
    | .chan k p => k.val == n && !p
    | _ => false

/-- The effects of a plan whose result is `r`: its registers, predicates, channels and the rounding counter change as it says, and nothing
else of the Loom, the access core, the scratchpad or memory does. -/
def Performed (s t : State) (p : Plan) (r : LRes) : Prop :=
  VAfter s t (vWrites s p.outs r) ∧
  (∀ k, getVg (here t) k = r.vg.foldl (fun v q => if q.1 = k then q.2 else v) (getVg (here s) k)) ∧
  (∀ k, spGet 0 (here t).loom.p k = r.preds.foldl (fun v q => if q.1 = k then BitVec.ofNat 16 q.2 else v) (spGet 0 (here s).loom.p k)) ∧
  (∀ k, (getChan (here t) k).q =
    (if popped p.ins k then (getChan (here s) k).q.tail else (getChan (here s) k).q) ++
      if p.push.map Prod.fst = some k then r.push.map (fun v => ({ val := v } : ChEntry)) else []) ∧
  (here t).csr.srcv = (if r.sr then (here s).csr.srcv + 1 else (here s).csr.srcv) ∧
  (here t).loom.shape = (here s).loom.shape ∧ (here t).acc = (here s).acc ∧ (here t).mill = (here s).mill ∧
  (hereCore t).sp = (hereCore s).sp ∧ (hereDie t).mem = (hereDie s).mem

/-- The Loom stream that moves retires its instruction in `t`. -/
def loomRetired (s t : State) (n : Nxt) : State := retireLoom (clearWait t (me s) .loom (waitSetBy s (me s) .loom)) (me s) n 0

/-- A Loom instruction completes: its effect makes some `t` for which `P` holds, and the stream goes on to the next word. -/
def LoomCompletes (s : State) (i : Instr) (P : State → Prop) : Prop := ∃ t, exec i s = .next (loomRetired s t .seq) ∧ P t

/-- It stops its stream with a cause (01 R33), and is in flight no longer. -/
def LoomStops (s : State) (i : Instr) (cause : Nat) (v : Word) : Prop := exec i s = .next (stopStream (landLoom s (me s)) (me s) .loom cause v)

/-- Bits [31:0] of an instruction's word. -/
def firstParcel (i : Instr) : Word := BitVec.ofNat 64 ((encodeNat i).getD 0 % 2 ^ 32)

/-- The instructions that read or write elements in another order, or whole groups (R170 to R177, R179, R183, R184). -/
def groupPlan (s : State) : Instr → Option Plan
  | .vqnt f =>
    let n := chosen s f
    let c := colsOf s
    let g := srcFmt f
    let bl := blocksOf (rowsOf s) c n
    if c % 32 ≠ 0 then none
    else some
      { ins := [source f.a g n], outs := [target f.d f.fmt n, target f.b .e8m0 bl.length]
        res := fun vs =>
          let val := fun e => valueOf g (lv vs 0 e)
          let k := fun b : Nat × Nat => blockScale f.fmt ((blockEls c n b.1 b.2).map val)
          { outs := [bl.flatMap fun b => (blockEls c n b.1 b.2).map fun e =>
              (e, if k b = 0xFF then nanRule f.fmt
                  else roundOpt (scaleNum (val e) (127 - (k b : Int))) f.fmt f.rnd f.sat (f.modf.getLsbD 14)
                    (srBits (here s).csr.srkey (here s).csr.srcv e)),
              bl.map fun b => (b.1 * c + b.2, k b)]
            sr := f.rnd == .sr && n != 0 } }
  | .vdqt f =>
    let n := chosen s f
    let c := colsOf s
    let g := srcFmt f
    let bl := blocksOf (rowsOf s) c n
    let reg := opndIsReg f.b
    if c % 32 ≠ 0 then none
    else some
      { ins := [source f.a g n, source f.b .e8m0 (if reg then rowsOf s * c else bl.length)], outs := [target f.d f.fmt n]
        res := fun vs =>
          let k := fun e => lv vs 1 (if reg then e / c * c + e % c / 32 else e / c * (c / 32) + e % c / 32)
          { outs := [(List.range n).map fun e => (e, if k e = 0xFF then nanRule f.fmt else rounded s f e (scaleNum (valueOf g (lv vs 0 e)) ((k e : Int) - 127)))]
            sr := f.rnd == .sr && n != 0 } }
  | .vredSum f => reduce 0 f
  | .vredMin f => reduce 1 f
  | .vredMax f => reduce 2 f
  | .vscanSum f => scan 0 f
  | .vscanMin f => scan 1 f
  | .vscanMax f => scan 2 f
  | .vtopk f => sorted true f
  | .vsort f => sorted false f
  | .vtrn f =>
    let n := rowsOf s * colsOf s
    if !(shapeValid (shTrans (here s).loom.shape)) then none
    else some
      { ins := [source f.a f.fmt n], outs := [target f.d f.fmt 0]
        res := fun vs => { outs := [[]], regs := [(opndReg f.d, fmtBits f.fmt, (List.range n).map fun e =>
          (flatBit (shTrans (here s).loom.shape) (fmtBits f.fmt) (e % colsOf s * rowsOf s + e / colsOf s), lv vs 0 e))] } }
  | .vperm f =>
    let n := chosen s f
    let c := colsOf s
    let ix := (fmtOf (f.modf.toNat % 16)).getD .fp32
    some
      { ins := [source f.a f.fmt (rowsOf s * c), source f.b ix n], outs := [target f.d f.fmt n]
        res := fun vs => { outs := [(List.range n).map fun e =>
          (e, lv vs 0 (if f.modf.getLsbD 4 then lv vs 1 e % (rowsOf s * c) else e / c * c + lv vs 1 e % c))] } }
  | .vbcst f => copied f (fun _ => 1) fun _ _ => 0
  | .vbcstRow f => copied f id fun _ j => j
  | .vbcstColumn f => copied f id fun i _ => i * colsOf s
  | .vmovS f =>
    let whole := opndIsChan f.a || opndIsConst f.a
    let wb := if whole then 64 else fmtBits f.fmt
    some
      { ins := [{ o := f.a, n := 1, wb := wb, fmt := some f.fmt }], outs := []
        res := fun vs => { vg := [(opndReg f.d, if !whole && fmtIsSigned f.fmt then BitVec.ofInt 64 (sintOf wb (lv vs 0 0)) else BitVec.ofNat 64 (lv vs 0 0))] } }
  | .vmovQ f =>
    match f.d with
    | .chan m _ => some { ins := [], outs := [], push := some (m.val, 1), res := fun _ => { push := [constVal (here s) f.a] } }
    | _ => none
  | .vpredZero f =>
    let n := chosen s f
    some
      { ins := [source f.a f.fmt n], outs := []
        res := fun vs => { preds := [(f.modf.toNat % 8, ((List.range n).find? fun e => lv vs 0 e == 0).getD n)] } }
  | .vrand f =>
    let n := chosen s f
    let ctr := constVal (here s) f.b
    some
      { ins := [], outs := [target f.d f.fmt n]
        res := fun _ =>
          { outs := [(List.range n).map fun e => (e, randElem f.fmt (kmix6 (constVal (here s) f.a) ctr (BitVec.ofNat 64 e)).toNat)]
            vg := match f.b with
              | .const k => if n = 0 then [] else [(k.val, ctr + 1)]
              | _ => [] } }
  | _ => none
where
  reduce (op : Nat) (f : LForm) : Option Plan :=
    let n := chosen s f
    let g := grpLen f
    let gs := groupsOf (here s).loom.shape g n
    let acc := f.modf.getLsbD 6
    let ch := opndIsChan f.d
    if colsOf s % g ≠ 0 ∨ (ch = true ∧ 16 < gs.length) then none
    else some
      { ins := source f.a f.fmt n :: if acc then [source f.d (redFmt f) (rowsOf s * colsOf s)] else []
        outs := [target (if ch then .const 0 else f.d) (redFmt f) gs.length]
        push := match f.d with
          | .chan m _ => some (m.val, gs.length)
          | _ => none
        res := fun vs =>
          let rs := gs.map fun b =>
            let e := b.1 * colsOf s + b.2
            (e, redOne f op (srBits (here s).csr.srkey (here s).csr.srcv e) ((groupEls (here s).loom.shape g n b.1 b.2).map (lv vs 0))
              (if acc then some (lv vs 1 e) else none))
          { outs := [if ch then [] else rs], push := if ch then rs.map (fun x => BitVec.ofNat 64 x.2) else []
            sr := f.rnd == .sr && n != 0 } }
  scan (op : Nat) (f : LForm) : Option Plan :=
    let n := chosen s f
    let g := grpLen f
    if colsOf s % g ≠ 0 then none
    else some
      { ins := [source f.a f.fmt n], outs := [target f.d (redFmt f) n]
        res := fun vs =>
          { outs := [(List.range n).map fun e =>
              let j := e % colsOf s % g
              (e, redOne f op (srBits (here s).csr.srkey (here s).csr.srcv e)
                ((List.range (if f.modf.getLsbD 6 then j else j + 1)).map fun k => lv vs 0 (e - j + k)) none)]
            sr := f.rnd == .sr && n != 0 } }
  sorted (topk : Bool) (f : LForm) : Option Plan :=
    let n := chosen s f
    let vg := constVal (here s) f.b
    if (here s).loom.shape.toNat / 2 ^ 32 % 4 ≠ 2 then none
    else some
      { ins := [source f.a f.fmt n], outs := [target f.d f.fmt 0]
        res := fun vs =>
          let ix := fun e => if f.modf.getLsbD 8 then flatElem (here s) (f.modf.toNat % 16) 32 e else (vg.toNat % 2 ^ 32 + e) % 2 ^ 32
          let cs := sortBy (candBefore f.fmt (f.modf.getLsbD 9)) ((List.range n).map fun e => (lv vs 0 e, ix e, e))
          let q := if topk then cs.take (vg.toNat / 2 ^ 48) else cs
          { outs := [q.mapIdx fun e x => (e, x.1)]
            regs := [(f.modf.toNat / 16 % 16, 32, q.mapIdx fun e x => (flatBit (here s).loom.shape 32 e, x.2.1))] } }
  copied (f : LForm) (cnt : Nat → Nat) (pick : Nat → Nat → Nat) : Option Plan :=
    let n := chosen s f
    some
      { ins := [source f.a f.fmt (if n = 0 then 0 else cnt (rowsOf s * colsOf s))], outs := [target f.d f.fmt n]
        res := fun vs => { outs := [(List.range n).map fun e => (e, lv vs 0 (pick (e / colsOf s) (e % colsOf s)))] } }

/-- The values of a plan's sources. -/
def planVals (s : State) (p : Plan) : List (List Nat) := p.ins.map fun i => (List.range i.n).map (inElem s i)

/-- Nothing of the context has lost its value (05 R154). -/
def NoLoss (s : State) : Prop := (here s).errs = []

/-- A well-formed instruction whose plan is `p` completes as its plan says, once its operands are at hand. -/
def PlanRuns (s : State) (i : Instr) (p : Option Plan) : Prop :=
  ∀ q, p = some q → i.wf = true → PlanReady s q → LoomCompletes s i fun t => Performed s t q (q.res (planVals s q))

end Sys2Proof.Claims

/-- R156 to R160, R164 to R169, R179: every element-wise Loom instruction with its operands at hand completes; each selected element of D holds
the value of its row, computed from the sources as they were; what is not selected, and every other register, stays; channels are popped
once. -/
def Sys2Proof.Claims.LoomElementResults : Prop :=
  ∀ (s : State) (f : LForm), Quiet s → NoLoss s →
    let runs := fun i => PlanRuns s i (elementPlan s i)
    runs (.vadd f) ∧ runs (.vsub f) ∧ runs (.vmul f) ∧ runs (.vfma f) ∧ runs (.vfms f) ∧ runs (.vfnma f) ∧
    runs (.vdiv f) ∧ runs (.vsqrt f) ∧ runs (.vrcp f) ∧ runs (.vrsq f) ∧ runs (.vexp2 f) ∧ runs (.vlog2 f) ∧
    runs (.vtanh f) ∧ runs (.vsinp f) ∧ runs (.vcosp f) ∧ runs (.vmin f) ∧ runs (.vmax f) ∧ runs (.vabs f) ∧
    runs (.vneg f) ∧ runs (.vcpys f) ∧ runs (.vcls f) ∧ runs (.vcmpEq f) ∧ runs (.vcmpNe f) ∧ runs (.vcmpLt f) ∧
    runs (.vcmpLe f) ∧ runs (.vcmpGt f) ∧ runs (.vcmpGe f) ∧ runs (.vsel f) ∧ runs (.vand f) ∧ runs (.vor f) ∧
    runs (.vxor f) ∧ runs (.vnot f) ∧ runs (.vshl f) ∧ runs (.vshr f) ∧ runs (.vsha f) ∧ runs (.viadd f) ∧
    runs (.visub f) ∧ runs (.vimul f) ∧ runs (.vcvt f) ∧ runs (.vmov f)

/-- R170 to R177, R179, R183, R184: the same for quantisation, reductions, scans, top-k, sort, transposition, permutation, broadcast, moves to vg
registers and channels, the zero search and random numbers, where the shape lets them. -/
def Sys2Proof.Claims.LoomGroupResults : Prop :=
  ∀ (s : State) (f : LForm), Quiet s → NoLoss s →
    let runs := fun i => PlanRuns s i (groupPlan s i)
    runs (.vqnt f) ∧ runs (.vdqt f) ∧ runs (.vredSum f) ∧ runs (.vredMin f) ∧ runs (.vredMax f) ∧ runs (.vscanSum f) ∧
    runs (.vscanMin f) ∧ runs (.vscanMax f) ∧ runs (.vtopk f) ∧ runs (.vsort f) ∧ runs (.vtrn f) ∧ runs (.vperm f) ∧
    runs (.vbcst f) ∧ runs (.vbcstRow f) ∧ runs (.vbcstColumn f) ∧ runs (.vmovS f) ∧ runs (.vmovQ f) ∧ runs (.vpredZero f) ∧
    runs (.vrand f)

/-- The Loom's results: element by element, and over groups.
Rests on readings of the model: notes/assumptions/9.md, notes/assumptions/11.md. -/
def Obligations.LoomResults : Prop :=
  Claims.LoomElementResults ∧ Claims.LoomGroupResults

namespace Sys2Proof.Claims

/-- The branches of the Loom (R186). -/
def vbranch (k : Cond) (f : LForm) : Instr :=
  match k with
  | .eq => .vbrEq f
  | .ne => .vbrNe f
  | .lt => .vbrLt f
  | .ge => .vbrGe f
  | .ltu => .vbrLtu f
  | .geu => .vbrGeu f

/-- An address whose bits [63:55] equal bit 54. -/
def inSpace (t : Word) : Prop := ∀ k, 55 ≤ k → k < 64 → t.getLsbD k = t.getLsbD 54

/-- Bits of the modifier. -/
def modField (f : LForm) (lo n : Nat) : Nat := f.modf.toNat / 2 ^ lo % 2 ^ n

/-- A shape word that R155 allows. -/
def goodShape (v : Word) : Prop :=
  let r := v.toNat % 2 ^ 16
  let c := v.toNat / 2 ^ 16 % 2 ^ 16
  let w := v.toNat / 2 ^ 32
  w ≤ 2 ∧ 1 ≤ r ∧ r ≤ 128 ∧ 1 ≤ c ∧ c ≤ 4096 ∧ c * 2 ^ w % 32 = 0 ∧ r * (c * 2 ^ w) ≤ 4096

/-- Nothing of the context but part of the Loom changes. -/
def OnlyLoom (s t : State) : Prop :=
  here t = { here s with loom := (here t).loom } ∧ (hereCore t).sp = (hereCore s).sp ∧ (hereDie t).mem = (hereDie s).mem

end Sys2Proof.Claims

/-- R178, R179, R183, R185 to R187, R24, R26: VSHAPE, the immediate move and the predicates write their register; VLOOP opens a level or skips its
body; a branch goes to its target or on; VRDV waits for the meeting; VEXIT ends the stream. -/
def Obligations.LoomRegistersAndControl : Prop :=
  ∀ (s : State) (f : LForm), Quiet s → NoLoss s →
    let l := (here s).loom
    let a := constVal (here s) f.a
    let off : Word := BitVec.ofInt 64 (f.modf.toInt * 12)
    let imm : Word := BitVec.ofNat 64 (modField f 8 2 * 2 ^ 32 + 2 ^ modField f 4 4 * 2 ^ 16 + 2 ^ modField f 0 4)
    (goodShape a → LoomCompletes s (.vshape f) fun t => (here t).loom = { l with shape := a } ∧ OnlyLoom s t) ∧
    (¬ goodShape a → LoomStops s (.vshape f) 0x01 (firstParcel (.vshape f))) ∧
    (goodShape imm → LoomCompletes s (.vshapeImmediate f) fun t => (here t).loom = { l with shape := imm } ∧ OnlyLoom s t) ∧
    (LoomCompletes s (.vmovI f) fun t => OnlyLoom s t ∧
      ∀ k, getVg (here t) k = if k = opndReg f.d then a + (f.modf.extractLsb' 2 13).signExtend 64 else getVg (here s) k) ∧
    (LoomCompletes s (.vpred f) fun t => OnlyLoom s t ∧
      ∀ k, (spGet 0 (here t).loom.p k).toNat = if k = modField f 0 3 then min a.toNat 65535 else (spGet 0 l.p k).toNat) ∧
    (let old := if f.pred.val = 0 then rowsOf s * colsOf s else (spGet 0 l.p f.pred.val).toNat
     LoomCompletes s (.vpredMin f) fun t => OnlyLoom s t ∧
      ∀ k, (spGet 0 (here t).loom.p k).toNat = if k = modField f 0 3 then min old (min a.toNat 65535) else (spGet 0 l.p k).toNat) ∧
    (a = 0 → exec (.vloop f) s = .next (loomRetired s s (.skip (l.pc + off + 12)))) ∧
    (a ≠ 0 → l.loops.length < 4 → LoomCompletes s (.vloop f) fun t =>
      (here t).loom = { l with loops := { start := l.pc + 12, last := l.pc + off, count := a } :: l.loops }) ∧
    (a ≠ 0 → l.loops.length = 4 → LoomStops s (.vloop f) 0x01 (firstParcel (.vloop f))) ∧
    (∀ k, (¬ branchTaken k a (constVal (here s) f.b) → exec (vbranch k f) s = .next (loomRetired s s .seq)) ∧
      (branchTaken k a (constVal (here s) f.b) → inSpace (l.pc + off) → exec (vbranch k f) s = .next (loomRetired s s (.jump (l.pc + off))))) ∧
    exec .vrdv s = .next (enterWait (landLoom s (me s)) (me s) .loom 7 0 0) ∧
    ∃ t, exec .vexit s = .next t ∧ (here t).loom.stat.st = .done ∧ (here t).csr.evpend.getLsbD 5 = true ∧ (here t).loom.v = l.v

namespace Sys2Proof.Claims

/-- The element of `wb` bits at bit `p` of the scratchpad (05 R138). -/
def spBits (s : State) (p wb : Nat) : Nat :=
  littleEndian (fun i => spByte (hereCore s) (p / 8 + i)) (max 1 (wb / 8)) / 2 ^ (p % 8) % 2 ^ wb

/-- No Carter command, no access of the Mill or the access core and no landing in flight clashes with a sector (05 R146). -/
def ClearAt (s : State) (j : Nat) (w : Bool) : Prop :=
  carterClash (here s) (32 * j) 32 w = none ∧ millClash (here s) (32 * j) 32 w = none ∧
  j ∉ accessUses (here s) w ++ landUses (hereCore s)

/-- Nothing clashes over the sectors of the bit positions that are read and written. -/
def LoomClear (s : State) (rds wrs : List Nat) : Prop :=
  (∀ j ∈ posSectors rds, ClearAt s j false) ∧ ∀ j ∈ posSectors wrs, ClearAt s j true

/-- The turn takes the Loom's instruction to its retirement: it is in flight already, or nothing clashes with it; no tag entry of its tiles is lost. -/
def LoomOpen (s : State) (rds wrs : List Nat) : Prop :=
  ((here s).loom.fly ≠ none ∨ (s.cur.begins = false ∧ LoomClear s rds wrs)) ∧ TagsGood s

/-- FULL of the tiles that stream operands leave may change in this cycle (05 R135). -/
def LeaveTurn (s : State) (k : Walk1) (wr : Bool) : Prop :=
  (if wr then sdProd k.img else sdCons k.img) = true → ∀ j ∈ walkLeaves k, tagTurn s (me s) j wr 1 = true

/-- The instruction comes into flight over its sectors, and nothing else of the Loom's registers and of the scratchpad changes (06 R160, R161). -/
def LoomBegins (s : State) (i : Instr) (rds wrs : List Nat) : Prop :=
  ∃ t, exec i s = .next t ∧ (here t).loom = { (here s).loom with stat := (here t).loom.stat, fly := some { i := i, sds := [], rd := rds, wr := wrs } } ∧
    (hereCore t).sp = (hereCore s).sp ∧ (hereCore t).tags = (hereCore s).tags ∧ (here t).acc = (here s).acc

/-- No sector and no tile of some bit positions is poisoned (05 R129, R141). -/
def NoPoison (s : State) (ps : List Nat) : Prop := ∀ k ∈ posSectors ps, spMark (hereCore s) k = 0 ∧ tagPois (hereCore s) (k / 128) = false

/-- Elements at `offs` lie aligned in the scratchpad and in the context's ways. -/
def OffsetsOk (s : State) (wb : Nat) (offs : List Nat) : Prop :=
  ∀ o ∈ offs, o % max 1 (wb / 8) = 0 ∧ badOffset (here s) o (max 1 (wb / 8)) = none

/-- The base of a memory instruction: a vg register (R180). -/
def baseOf (s : State) (f : LForm) : Nat := (getVg (here s) (f.modf.toNat % 16)).toNat

/-- base + index × width, modulo 2^64 (R181). -/
def indexed (s : State) (f : LForm) (ix : LOpnd) (e : Nat) : Nat :=
  let m := if modField f 4 2 = 0 then 16 else 32
  let x := inElem s { o := ix, n := 0, wb := m, fmt := none } e
  let v : Int := if modField f 4 2 = 2 ∧ 2 ^ 31 ≤ x then (x : Int) - 2 ^ 32 else x
  ((baseOf s f + v * (fmtBits f.fmt / 8 : Nat) : Int) % 2 ^ 64).toNat

/-- Elements to register D from their places. -/
def intoD (s : State) (f : LForm) (vals : List Nat) : List (Nat × Nat × Nat × Nat) :=
  match f.d with
  | .vreg x r st co => vals.mapIdx fun e v => (x.val, bitOf s r.val st.val co.val (fmtBits f.fmt) e, fmtBits f.fmt, v)
  | _ => []

/-- The bits of the scratchpad after some writes. -/
def SpAfter (s t : State) (ws : List (Nat × Nat × Nat × Nat)) : Prop :=
  ∀ j, (spByte (hereCore t) (j / 8)).getLsbD (j % 8) = bitAfter ws 0 j ((spByte (hereCore s) (j / 8)).getLsbD (j % 8))

end Sys2Proof.Claims

/-- R180 to R182: VLD and VGTH fill the selected elements of register D from the scratchpad; VST and VSCT write theirs, later elements winning, and no
other bit of it; VLDFF fills D up to the first element that fails and makes its predicate that count. -/
def Sys2Proof.Claims.LoomMemoryResults : Prop :=
  ∀ (s : State) (f : LForm), Quiet s → NoLoss s → (here s).dbg.wpb = [] →
    let n := chosen s f
    let wb := fmtBits f.fmt
    let b := baseOf s f
    let ps := (List.range n).map fun e => b * 8 + e * wb
    let fits := wb ≤ 8 * 2 ^ ((here s).loom.shape.toNat / 2 ^ 32 % 4)
    let ixFits := (if modField f 4 2 = 0 then 16 else 32) ≤ 8 * 2 ^ ((here s).loom.shape.toNat / 2 ^ 32 % 4)
    let data := fun e => inElem s (source f.a f.fmt n) e
    ((Instr.vld f).wf = true → fits → b % max 1 (wb / 8) = 0 → (n ≠ 0 → badOffset (here s) b ((n * wb + 7) / 8) = none) → LoomOpen s ps [] →
      NoPoison s ps → LoomCompletes s (.vld f) fun t => VAfter s t (intoD s f (ps.map fun p => spBits s p wb)) ∧ SpAfter s t []) ∧
    ((Instr.vst f).wf = true → fits → b % max 1 (wb / 8) = 0 → (n ≠ 0 → badOffset (here s) b ((n * wb + 7) / 8) = none) → LoomOpen s [] ps →
      LoomCompletes s (.vst f) fun t => VAfter s t [] ∧ SpAfter s t (ps.mapIdx fun e p => (0, p, wb, data e))) ∧
    (let offs := (List.range n).map (indexed s f f.a)
     let qs := offs.map (· * 8)
     (Instr.vgth f).wf = true → opndIsReg f.d = true → fits → ixFits → OffsetsOk s wb offs → LoomOpen s qs [] → NoPoison s qs →
      LoomCompletes s (.vgth f) fun t => VAfter s t (intoD s f (qs.map fun p => spBits s p wb)) ∧ SpAfter s t []) ∧
    (let offs := (List.range n).map (indexed s f f.b)
     let qs := offs.map (· * 8)
     (Instr.vsct f).wf = true → inReady s (source f.a f.fmt n) → ixFits → OffsetsOk s wb offs → LoomOpen s [] qs →
      LoomCompletes s (.vsct f) fun t => VAfter s t [] ∧ SpAfter s t (qs.mapIdx fun e p => (0, p, wb, data e)) ∧
        ∀ k, (getChan (here t) k).q = if popped [source f.a f.fmt n] k then (getChan (here s) k).q.tail else (getChan (here s) k).q) ∧
    (∀ s1 vals fail, (Instr.vldff f).wf = true → opndIsReg f.d = true → fits → ixFits →
      (∀ a ∈ (List.range n).map (indexed s f f.a), xlWaits s (me s).die (.core (me s).core) (here s).dbg.xctx (BitVec.ofNat 64 a) = false) →
      ffRun (f.modf.getLsbD 6) wb ((List.range n).map (indexed s f f.a)) s = (s1, vals, fail) → here s1 = here s → almOver s1 (me s).die = false → me s1 = me s →
      (vals ≠ [] ∨ fail = none → LoomCompletes s (.vldff f) fun t => VAfter s t (intoD s f vals) ∧
        (spGet 0 (here t).loom.p f.pred.val).toNat = (if fail = none then (spGet 0 (here s).loom.p f.pred.val).toNat else vals.length)) ∧
      (∀ c a, vals = [] → fail = some (c, a) → exec (.vldff f) s = .next (stopStream (landLoom s1 (me s)) (me s) .loom c (BitVec.ofNat 64 a))))

/-- 05 R138 to R140; 06 R159, R181: a stream source is read from its POS on, one element after the other, and POS moves past them, modulo the
total where the stream wraps; a stream destination is written the same way; with CONS the tiles left lose FULL, with PROD they gain it.  So it is
with the register to move, with what VGTH gathers and with what VSCT scatters. -/
def Sys2Proof.Claims.StreamOperandsWalkTheirDescriptor : Prop :=
  ∀ (s : State) (f : LForm) (d : Fin 16) (k : Walk1), Quiet s → NoLoss s → (here s).dbg.wpb = [] → chosen s f ≠ 0 →
    let n := chosen s f
    let wb := fmtBits f.fmt
    let ps := k.els.map Prod.snd
    let fits := wb ≤ 8 * 2 ^ ((here s).loom.shape.toNat / 2 ^ 32 % 4)
    let ixFits := (if modField f 4 2 = 0 then 16 else 32) ≤ 8 * 2 ^ ((here s).loom.shape.toNat / 2 ^ 32 % 4)
    let moved := fun t : State => ∃ u, getDesc (here t) d.val = some u ∧ SameImageBut k.img u 416 32 ∧
      imgPos u = (if imgWrap k.img then (imgPos k.img + n) % imgTotal k.img else imgPos k.img + n) % 2 ^ 32
    let reads := sdWalk s (here s) d.val 1 (some f.fmt) false wb n = .ok k ∧ NoPoison s ps ∧ LeaveTurn s k false ∧ sdGrant k.img = false ∧
      (sdWfull k.img = true → ∀ j ∈ walkEnters k, entryFull s j = true)
    let writes := sdWalk s (here s) d.val 1 (some f.fmt) true wb n = .ok k ∧ LeaveTurn s k true ∧
      (sdProd k.img = true → ∀ j ∈ walkEnters k, entryFull s j = false)
    let consumed := fun t : State => ∀ j, entryFull t j = (entryFull s j && !(sdCons k.img && (walkLeaves k).contains j))
    let produced := fun t : State => ∀ j, entryFull t j = (entryFull s j || (sdProd k.img && (walkLeaves k).contains j))
    (f.a = .stream d → opndIsReg f.d = true → (Instr.vmov f).wf = true → fits → reads → LoomOpen s ps [] →
      LoomCompletes s (.vmov f) fun t => VAfter s t (intoD s f (ps.map fun p => spBits s p wb)) ∧ moved t ∧ SpAfter s t [] ∧ consumed t) ∧
    (f.d = .stream d → opndIsReg f.a = true → (Instr.vmov f).wf = true → fits → writes → LoomOpen s [] ps →
      LoomCompletes s (.vmov f) fun t => VAfter s t [] ∧ moved t ∧ produced t ∧
        SpAfter s t (ps.mapIdx fun e p => (0, p, wb, inElem s (source f.a f.fmt n) e))) ∧
    (let offs := (List.range n).map (indexed s f f.a)
     let qs := offs.map (· * 8)
     f.d = .stream d → (Instr.vgth f).wf = true → ixFits → OffsetsOk s wb offs → writes → NoPoison s qs → LoomOpen s qs ps →
      LoomCompletes s (.vgth f) fun t => VAfter s t [] ∧ moved t ∧ produced t ∧
        SpAfter s t ((ps.zip qs).map fun p => (0, p.1, wb, spBits s p.2 wb))) ∧
    (let offs := (List.range n).map (indexed s f f.b)
     let qs := offs.map (· * 8)
     f.a = .stream d → (Instr.vsct f).wf = true → ixFits → OffsetsOk s wb offs → reads → LoomOpen s ps qs →
      LoomCompletes s (.vsct f) fun t => VAfter s t [] ∧ moved t ∧ consumed t ∧
        SpAfter s t ((qs.zip ps).map fun p => (0, p.1, wb, spBits s p.2 wb)))

/-- 05 R144, R146; 06 R161: in a turn that takes it only to the start of phase 2, an access of the Loom comes into flight over its sectors, or stops with 0x0C where
it clashes with the lowest sector of an access of another domain; nothing is read or written yet.
Rests on readings of the model: notes/assumptions/9.md. -/
def Sys2Proof.Claims.LoomAccessesComeIntoFlight : Prop :=
  ∀ (s : State) (f : LForm), Quiet s → NoLoss s → s.cur.begins = true → (here s).loom.fly = none →
    let n := chosen s f
    let wb := fmtBits f.fmt
    let b := baseOf s f
    let ps := (List.range n).map fun e => b * 8 + e * wb
    let fits := wb ≤ 8 * 2 ^ ((here s).loom.shape.toNat / 2 ^ 32 % 4)
    let at_ := b % max 1 (wb / 8) = 0 ∧ badOffset (here s) b ((n * wb + 7) / 8) = none
    let raced := fun w k => ¬ ClearAt s k w
    n ≠ 0 → fits → at_ →
    ((Instr.vld f).wf = true → LoomClear s ps [] → LoomBegins s (.vld f) (posSectors ps) []) ∧
    ((Instr.vst f).wf = true → LoomClear s [] ps → LoomBegins s (.vst f) [] (posSectors ps)) ∧
    (∀ k ∈ posSectors ps, (Instr.vld f).wf = true → raced false k → (∀ j ∈ posSectors ps, raced false j → k ≤ j) → LoomStops s (.vld f) 0x0C (BitVec.ofNat 64 (32 * k))) ∧
    (∀ k ∈ posSectors ps, (Instr.vst f).wf = true → raced true k → (∀ j ∈ posSectors ps, raced true j → k ≤ j) → LoomStops s (.vst f) 0x0C (BitVec.ofNat 64 (32 * k)))

/-- The Loom's memory instructions and stream operands.
Rests on readings of the model: notes/assumptions/9.md. -/
def Obligations.LoomMemoryAndStreams : Prop :=
  Claims.LoomMemoryResults ∧ Claims.StreamOperandsWalkTheirDescriptor ∧ Claims.LoomAccessesComeIntoFlight

/-- 01 R33: a fault of a Loom or Mill stream stops it: STATE is STOP with the cause, the program counter stays at the instruction, event ENG is
raised and the fault waits as a report for the access core; nothing else of the context changes. -/
def Sys2Proof.Claims.EngineFaultsStopTheStream : Prop :=
  ∀ (s : State) (w : Who) (e : Eng) (cause : Nat) (v : Word), e ≠ .access → cause < 256 →
    let c := getCtx s w
    let d := getCtx (stopStream s w e cause v) w
    (getStat d e).st = .stop ∧ (getStat d e).cause.toNat = cause ∧ getPc d e = getPc c e ∧ d.csr.evpend = c.csr.evpend ||| 32 ∧
    d.reports = c.reports ++ [{ rank := engCode e - 1, cause := cause, val := v, eng := engCode e }] ∧ d.acc = c.acc ∧ d.loom.v = c.loom.v ∧
    d.mill.acc0 = c.mill.acc0 ∧ d.mill.acc1 = c.mill.acc1 ∧ d.chans = c.chans

/-! ### The Mill (07 R188 to R207) -/

namespace Sys2Proof.Claims

/-- The Mill stream that moves retires its instruction in `t` and goes on as `n` says. -/
def millDone (s t : State) (n : Nxt) : State := millRetired (millPass t (me s) n) (me s)

/-- A Mill instruction completes: its effect makes some `t` for which `P` holds, and the stream goes on. -/
def MillGoesOn (s : State) (i : Instr) (n : Nxt) (P : State → Prop) : Prop := ∃ t, exec i s = .next (millDone s t n) ∧ P t

def MillStops (s : State) (i : Instr) (cause : Nat) (v : Word) : Prop := exec i s = .next (stopStream s (me s) .mill cause v)

/-- The uses of the context's task that the next array instruction ends have ended (12 R294). -/
def usesEnded (s : State) (f : MForm) : State := millEnds s (me s) f.use.val

/-- The use gate lets an array instruction go: as booked work, or as unbooked work with room for `cycles` (01 R21, R22). -/
def GateLets (s : State) (f : MForm) (cycles : Nat) : Prop :=
  let e := usesEnded s f
  let g := gateFor e (me s) f.use.val 0 (me s).core false
  g = .opened ∨ (g = .unbooked ∧ unbookedRoom e (me s) cycles = true)

/-- The state in which its body begins: its use has issued. -/
def begun (s : State) (f : MForm) : State := markIssued (usesEnded s f) (me s) f.use.val

def flightOf (s : State) : List MillFly := (here s).mill.flight

/-- No MPRO is in flight, and nothing in flight touches the bank (R191). -/
def bankFree (s : State) (b : Bool) : Prop := mproBusy (here s) = false ∧ bankBusy (here s) b = false

/-- Sectors that the sources read, and that the output writes, meet no access of the Mill in flight, no Carter command, no instruction of the
access core or the Loom and no landing in flight (05 R144 to R146). -/
def RangesFree (y : Core) (c : Ctx) (rds wrs : List Nat) : Prop :=
  (∀ j ∈ rds, (millUses c false).contains j = false) ∧ (∀ j ∈ wrs, (millUses c true).contains j = false) ∧
  (∀ j ∈ rds, outerClash y c (32 * j) 32 false = none) ∧ ∀ j ∈ wrs, outerClash y c (32 * j) 32 true = none

/-- No tag entry of a core is lost (05 R154). -/
def TagsHeld (y : Core) : Prop := ∀ j, spGet false y.tagErr j = false

/-- The sources can be read: their tiles are full where they must be, no range clashes, no poison is met that is not read as zero, no tag entry
is lost, and FULL of the tiles they leave may change in this cycle (05 R135). -/
def SourcesOpen (s : State) (w : Who) (ks : List MSrc) : Prop :=
  let y := getCore s w
  (∀ j ∈ srcFulls ks, tagFull y j = true) ∧ RangesFree y (getCtx s w) (posSectors (ks.flatMap srcPos)) [] ∧ srcsMeet y ks = .fine ∧
  TagsHeld y ∧ srcsTurn s w ks = true

/-- The output can be started: its tiles are empty where they must be, and no range clashes. -/
def OutputOpen (s : State) (w : Who) (k : Walk1) : Prop :=
  let y := getCore s w
  (sdProd k.img = true → ∀ j ∈ walkEnters k, tagFull y j = false) ∧ RangesFree y (getCtx s w) [] (posSectors (k.els.map Prod.snd)) ∧ TagsHeld y

/-- Nothing of the context but its Mill, its descriptors and the channels' wakers differs: registers, Loom, CSRs. -/
def MillOnly (s t : State) : Prop :=
  (here t).acc = (here s).acc ∧ (here t).loom = (here s).loom ∧ (here t).csr = (here s).csr ∧ (hereDie t).mem = (hereDie s).mem

/-- Element `e` of a source in encoded form, and its scale where it has block scales. -/
def mElem (y : Core) (k : MSrc) (e : Nat) : Nat := (srcVals y k).getD e 0

def mNum (y : Core) (k : MSrc) (g : Fmt) (e : Nat) : FNum :=
  match (srcScales y k)[e]? with
  | none => valueOf g (mElem y k e)
  | some x => numMul (valueOf .e8m0 x) (valueOf g (mElem y k e))

/-- Cell (i, j) after one tile step over sources `ks` (R188 to R190; 03 R84 to R87): the window sum of the old cell and the K products, or, for
HS8, the clamped integer sum of (2a + 1)(2b + 1). -/
def stepCell (y : Core) (f : MForm) (ks : List MSrc) (K : Nat) (int : Bool) (old i j : Nat) : Nat :=
  let src := fun n : Nat => ks.getD n { walk := { ix := 0, img := 0, wb := 0, els := [] }, adv := 0, enter := false, scales := [] }
  if int then
    wrapInt 32 (clampInt (-(2 ^ 31)) (2 ^ 31 - 1) ((List.range K).foldl (fun acc k =>
      acc + (2 * sintOf 8 (mElem y (src 0) (i * K + k)) + 1) * (2 * sintOf 8 (mElem y (src 1) (j * K + k)) + 1)) (sintOf 32 old)))
  else
    windowSum (valueOf .fp32 old :: (List.range K).map fun k =>
      let b := if f.pro then valueOf .bf16 (proWeight (mElem y (src 1) (j * K + k)) (mElem y (src 2) j) (mElem y (src 3) j))
        else mNum y (src 1) (fmtAt f.bfmt.val) (j * K + k)
      numMul (mNum y (src 0) (fmtAt f.afmt.val) (i * K + k)) b) .fp32 .rne false 0

/-- An MSTEP can start (R191, R193, R200): its formats are a pair of R190, its bank is free, no MSTEP performs steps, its gate lets it. -/
def StepMayStart (s : State) (f : MForm) : Prop :=
  NoLoss s ∧ mstepFmts f = true ∧ bankFree s f.bank ∧ (∀ x ∈ flightOf s, x.stage ≠ .steps) ∧ GateLets s f 32 ∧
  millFmtBad (here s) f.as.val f.afmt.val = none ∧ millFmtBad (here s) f.bs.val f.bfmt.val = none ∧
  (f.pro = true → millFmtBad (here s) f.ss.val 2 = none ∧ millFmtBad (here s) f.zs.val 9 = none) ∧
  (f.epi = true → millFmtBad (here s) f.os.val f.ofmt.val = none ∧
    ∃ k, millOut (begun s f) (here s) f.os.val f.ofmt.val 32768 = .ok k ∧
      RangesFree (hereCore s) (here s) [] (posSectors (k.els.map Prod.snd)))

/-- The step at which it starts (R193): where `mrp` stands, if it is not 0 and names no step of an MSTEP in flight, else mrp0. -/
def firstStep (s : State) (f : MForm) : Nat :=
  if (flightOf s).all (fun x => !x.own) && (here s).mill.mrp != 0 then (here s).mill.mrp.toNat else f.mrp0.toNat

/-- The flight has one more instruction, as it starts; `mrp` is an MSTEP's then, and of no other in flight. -/
def Flies (s t : State) (op : Nat) (f : MForm) (inj : Bool) (step : Nat) (stage : MillStage) : Prop :=
  ∃ x, flightOf t = (if op = 1 then (flightOf s).map (fun z => { z with own := false }) else flightOf s) ++ [x] ∧ x.own = (op == 1) ∧ x.op = op ∧ x.f = f ∧ x.inj = inj ∧ x.step = step ∧ x.stage = stage

end Sys2Proof.Claims

/-- R189, R191, R201, R202: MCLR empties its bank, MSWAP exchanges the banks, MLDA loads its bank from a descriptor, each once no instruction in flight
touches the bank and its gate lets it; nothing else of the stream's registers changes. -/
def Sys2Proof.Claims.MillBankInstructions : Prop :=
  ∀ (s : State) (f : MForm), Quiet s →
    let c := here s
    let y := hereCore s
    (bankFree s f.bank → GateLets s f 0 →
      MillGoesOn s (.mclr f) .seq fun t => getBank (here t) f.bank = [] ∧ getBank (here t) (!f.bank) = getBank c (!f.bank) ∧ MillOnly s t) ∧
    (bankFree s true → bankFree s false → GateLets s f 0 →
      MillGoesOn s (.mswap f) .seq fun t => getBank (here t) true = getBank c false ∧ getBank (here t) false = getBank c true ∧ MillOnly s t) ∧
    (∀ k, rawFmt f.afmt.val = true → bankFree s f.bank → GateLets s f 0 →
      millSrc (begun s f) c f f.as.val f.afmt.val 32768 32768 true = .ok k → SourcesOpen s (me s) [k] →
      MillGoesOn s (.mlda f) .seq fun t =>
        (∀ e < 32768, spGet 0 (getBank (here t) f.bank) e = BitVec.ofNat 32 (mElem y k e)) ∧
        getBank (here t) (!f.bank) = getBank c (!f.bank) ∧ (here t).acc.g = c.acc.g ∧ (here t).loom = c.loom) ∧
    (rawFmt f.afmt.val = false → gateFor (usesEnded s f) (me s) f.use.val 0 (me s).core false ≠ .bad →
      exec (.mlda f) s = .next (stopStream (usesEnded s f) (me s) .mill 0x18 (firstParcel (.mlda f))))

/-- R191, R193, R195, R202, R203: MSTEP, MSTA, MPRO and MEPI start once the bank and the path are free and their tiles are as they must be: an MSTEP
begins its steps at the step R193 names, its bank cleared in mode 1 when it starts afresh, and stays the stream's instruction until they
are done; the others are in flight and the stream goes on. -/
def Sys2Proof.Claims.MillInstructionsStart : Prop :=
  ∀ (s : State) (f : MForm), Quiet s →
    let c := here s
    let y := hereCore s
    let m := firstStep s f
    (StepMayStart s f → m < f.steps.toNat →
      ∃ t, exec (.mstep f) s = .next t ∧ Flies s t 1 f false m .steps ∧ (here t).mill.mrp = BitVec.ofNat 16 m ∧ (here t).mill.pc = c.mill.pc ∧
        getBank (here t) f.bank =
          if f.mode.val = 1 ∧ ¬((flightOf s).all (fun x => !x.own) ∧ c.mill.mrp ≠ 0) then [] else getBank c f.bank) ∧
    (StepMayStart s f → f.steps.toNat ≤ m →
      ∃ t, exec (.mstep f) s = .next (millPassStep t (me s)) ∧ Flies s t 1 f false m .drain ∧ (here t).mill.mrp = f.steps) ∧
    (∀ k, bankFree s f.bank → pathFree y = true → GateLets s f 0 → millOut (begun s f) c f.os.val f.ofmt.val 32768 = .ok k →
      OutputOpen s (me s) k →
      (rawFmt f.ofmt.val = true → bankLost c f.bank = false →
        ∃ t, exec (.msta f) s = .next (millPass t (me s) .seq) ∧ Flies s t 4 f false 0 .drain ∧ MillOnly s t) ∧
      (rawFmt f.afmt.val = true → millOutFmt f.ofmt.val = true →
        ∃ t, exec (.mepi f) s = .next (millPass t (me s) .seq) ∧ Flies s t 7 f false 0 .drain ∧ MillOnly s t)) ∧
    (∀ b ss zs k, f.bfmt.val = 6 → f.ofmt.val = 2 → flightOf s = [] → GateLets s f 0 →
      let n := f.steps.toNat
      let g := if f.grp then 128 else 32
      let e := begun s f
      millFmtBad c f.bs.val 6 = none → millFmtBad c f.ss.val 2 = none → millFmtBad c f.zs.val 9 = none → millFmtBad c f.os.val 2 = none →
      millSrc e c f f.bs.val 6 (n * 4096) (n * 4096) true = .ok b →
      millSrc e c f f.ss.val 2 (256 * ((16 * n + g - 1) / g)) (256 * (16 * n / g)) true = .ok ss →
      millSrc e c f f.zs.val 9 (256 * ((16 * n + g - 1) / g)) (256 * (16 * n / g)) true = .ok zs →
      millOut e c f.os.val 2 (n * 4096) = .ok k → SourcesOpen s (me s) [b, ss, zs] → OutputOpen s (me s) k →
      ∃ t, exec (.mpro f) s = .next (millPass t (me s) .seq) ∧ Flies s t 6 f false 0 .drain ∧
        ∀ x ∈ flightOf t, x.data = (List.range (n * 4096)).map fun q =>
          let p := 256 * (16 * (q / 4096) / g) + q % 4096 / 16
          BitVec.ofNat 32 (proWeight (mElem y b q) (mElem y ss p) (mElem y zs p)))

/-- The Mill's banks, and how its steps start.
Rests on readings of the model: notes/assumptions/33.md. -/
def Obligations.MillBanksAndStarts : Prop :=
  Claims.MillBankInstructions ∧ Claims.MillInstructionsStart

/-- R188 to R190, R193, R195: a tile step takes its elements and adds to every cell of the bank; `mrp` counts it; the last one lets the stream go on.
A step that only begins is in flight over the sectors that it reads.
An instruction in flight writes its 32 768 results at its output's positions once, then retires.
Rests on readings of the model: notes/assumptions/8.md, notes/assumptions/9.md, notes/assumptions/11.md. -/
def Obligations.MillStepsAndResults : Prop :=
  ∀ (s : State), EvMoves s →
    let w := s.ev.w
    let c := evCtx s
    let y := getCore s w
    (∀ x ks K int, streamMoves c .mill = true → stepEntry c = some x → c.dbg.wpb = [] → c.errs = [] →
      (let g := gateFor s w x.f.use.val 0 w.core true; g = .opened ∨ (g = .unbooked ∧ unbookedRoom s w 32 = true)) →
      s.ev.b = false ∨ x.rd ≠ [] → stepSrcs s c x.f x.step = .ok ks → SourcesOpen s w ks → millPair x.f.afmt.val x.f.bfmt.val x.f.pro = some (K, int) →
      ∃ t, exec .tileStep s = .next t ∧
        let d := getCtx t w
        (∀ i j, i < 128 → j < 256 → spGet 0 (getBank d x.f.bank) (256 * i + j) =
          BitVec.ofNat 32 (stepCell y x.f ks K int (spGet 0 (getBank c x.f.bank) (256 * i + j)).toNat i j)) ∧
        getBank d (!x.f.bank) = getBank c (!x.f.bank) ∧ d.mill.mrp = BitVec.ofNat 16 (x.step + 1) ∧
        d.mill.flight = (c.mill.flight.map fun z => if z.stage == .steps then
          { x with step := x.step + 1, stage := if x.step + 1 < x.f.steps.toNat then .steps else .drain, rd := [] } else z) ∧
        (x.step + 1 < x.f.steps.toNat → d.mill.pc = c.mill.pc)) ∧
    (∀ x ks, streamMoves c .mill = true → stepEntry c = some x → s.ev.b = true → x.rd = [] →
      (let g := gateFor s w x.f.use.val 0 w.core true; g = .opened ∨ (g = .unbooked ∧ unbookedRoom s w 32 = true)) →
      stepSrcs s c x.f x.step = .ok ks → SourcesOpen s w ks →
      ∃ t, exec .tileStep s = .next t ∧
        let m := (getCtx t w).mill
        m.flight = (c.mill.flight.map fun z => if z.stage == .steps then { x with rd := posSectors (ks.flatMap srcPos) } else z) ∧
        m.acc0 = c.mill.acc0 ∧ m.acc1 = c.mill.acc1 ∧ m.mrp = c.mill.mrp ∧ m.pc = c.mill.pc) ∧
    (∀ x, c.mill.flight[s.ev.k]? = some x → x.stage = .drain → TagsHeld y →
      let k := flyWalk c x
      (flyWrites x = true → (x.op = 1 → pathFree y = true ∧ (sdProd k.img = true → ∀ j ∈ walkEnters k, tagFull y j = false)) →
        ∃ t, exec .millEpilogue s = .next t ∧ (getCtx t w).mill.flight = c.mill.flight.set s.ev.k { x with stage := .writing } ∧
          (getCore t w).sp = y.sp) ∧
      (flyWrites x = false → x.inj = false → leavesTurn s w [] [k] 2 = true →
        ∃ t, exec .millRetire s = .next (millRetired t w) ∧ (getCtx t w).mill.flight = c.mill.flight.eraseIdx s.ev.k ∧
          (getCtx t w).mill.mrp = if x.own then 0 else c.mill.mrp)) ∧
    (∀ x, c.mill.flight[s.ev.k]? = some x → x.stage = .writing → flyWrites x = true → x.inj = false → c.errs = [] →
      (x.op = 6 → x.data.length = x.f.steps.toNat * 4096) →
      leavesTurn s w [] [flyWalk c x] 2 = true →
      let k := flyWalk c x
      let bank := getBank c x.f.bank
      let int := if x.op = 1 then x.f.afmt.val == 7 else x.f.afmt.val == 0xB
      ∃ t, exec .millRetire s = .next (millRetired t w) ∧ (getCtx t w).mill.flight = c.mill.flight.eraseIdx s.ev.k ∧
        (8 ≤ k.wb → (∀ e ∈ k.els, e.2 % 8 = 0) → k.els.Pairwise (fun a b => a.2 + k.wb ≤ b.2 ∨ b.2 + k.wb ≤ a.2) →
          ∀ n p, k.els[n]? = some p → spElem (getCore t w) p.2 k.wb =
            (if x.op = 4 then (spGet 0 bank n).toNat else if x.op = 6 then (x.data.getD n 0).toNat
              else epiElem x.f int x.key x.ctr n (spGet 0 bank n).toNat) % 2 ^ k.wb) ∧
        (getCtx t w).csr.srcm = c.csr.srcm + (if x.f.epi = true ∧ x.f.erm.val = 5 then 1 else 0) ∧
        (getCtx t w).mill.mrp = if x.own then 0 else c.mill.mrp)

/-- R198, R205: MINJ waits for an injected word, and executes the head of the injection queue as the array instruction that it is; a word that may not
be injected stops the stream with 0x01. -/
def Sys2Proof.Claims.MinjExecutesTheInjectedWord : Prop :=
  ∀ (s : State), Quiet s → (here s).mill.injv = false →
    ((here s).mill.injq = [] → exec .minj s = .next (enterWait s (me s) .mill 3 0 (BitVec.ofNat 64 (2 ^ 63)))) ∧
    ∀ e q, (here s).mill.injq = e :: q →
      (∀ f, decodeMill e.word.toNat = .ok (.mclr f) → f.inj = true → bankFree s f.bank → GateLets s f 0 →
        MillGoesOn s .minj .seq fun t => getBank (here t) f.bank = [] ∧ (here t).mill.injq = q ∧ (here t).mill.injv = false) ∧
      (∀ f, decodeMill e.word.toNat = .ok (.mswap f) → f.inj = true → bankFree s true → bankFree s false → GateLets s f 0 →
        MillGoesOn s .minj .seq fun t => getBank (here t) true = getBank (here s) false ∧ getBank (here t) false = getBank (here s) true ∧
          (here t).mill.injq = q ∧ (here t).mill.injv = false) ∧
      (∀ f, decodeMill e.word.toNat = .ok (.mstep f) → f.inj = true → StepMayStart s f → firstStep s f < f.steps.toNat →
        ∃ t, exec .minj s = .next t ∧ Flies s t 1 f true (firstStep s f) .steps ∧ (here t).mill.injq = q ∧ (here t).mill.injv = true ∧
          (here t).mill.injw = e.word ∧ (here t).mill.pc = (here s).mill.pc) ∧
      (injBody e.word = none →
        ∃ t, exec .minj s = .next (stopStream t (me s) .mill 0x01 (BitVec.ofNat 64 (e.word.toNat % 2 ^ 32))) ∧
          (here t).mill.injq = q ∧ (here t).mill.injv = injTaken e.word)

/-- R206, R207, R24, R26: MRPG moves `mrp`, immediates and sums once nothing is in flight; MLOOP opens a level or skips its body; the branches go to
their target or on, to 0x04 if it is not canonical; MRDV waits for the meeting and MEXIT ends the stream. -/
def Sys2Proof.Claims.MillStreamControl : Prop :=
  ∀ (s : State) (f : MForm), Quiet s → NoLoss s →
    let c := here s
    let pc := c.mill.pc
    let ga := spGet 0 c.mill.mg f.as.val
    let gb := spGet 0 c.mill.mg f.bs.val
    let imm : Word := f.imm1.signExtend 64
    let far := pc + imm * 24
    let sets : Word → State → Prop := fun v t => ∀ k, spGet 0 (here t).mill.mg k = if k = f.as.val then v else spGet 0 c.mill.mg k
    let branch : Instr → Bool → Prop := fun i b =>
      if b then (if canonical far then MillGoesOn s i (.jump far) (fun t => t = s) else MillStops s i 0x04 far)
      else MillGoesOn s i .seq fun t => t = s
    (flightOf s = [] →
      MillGoesOn s (.mrpgR f) .seq (sets (c.mill.mrp.setWidth 64)) ∧ MillGoesOn s (.mrpgI f) .seq (sets imm) ∧
      MillGoesOn s (.mrpgA f) .seq (sets (gb + imm)) ∧
      (gb.toNat ≤ 65535 → MillGoesOn s (.mrpgW f) .seq fun t => (here t).mill.mrp = gb.setWidth 16) ∧
      (65535 < gb.toNat → MillStops s (.mrpgW f) 0x01 (firstParcel (.mrpgW f)))) ∧
    (ga = 0 → MillGoesOn s (.mloop f) (.skip (pc + imm * 24 + 24)) fun t => t = s) ∧
    (ga ≠ 0 → c.mill.loops.length < 4 → MillGoesOn s (.mloop f) .seq fun t =>
      (here t).mill.loops = { start := pc + 24, last := pc + imm * 24, count := ga } :: c.mill.loops) ∧
    (ga ≠ 0 → 4 ≤ c.mill.loops.length → MillStops s (.mloop f) 0x01 (firstParcel (.mloop f))) ∧
    branch (.mbrEq f) (decide (ga = gb)) ∧ branch (.mbrNe f) (decide (ga ≠ gb)) ∧ branch (.mbrLt f) (ga.slt gb) ∧
    branch (.mbrGe f) (!(ga.slt gb)) ∧ branch (.mbrLtu f) (ga.ult gb) ∧ branch (.mbrGeu f) (!(ga.ult gb)) ∧ branch (.mj f) true ∧
    (flightOf s = [] →
      exec .mrdv s = .next (enterWait (millEnds s (me s) 8) (me s) .mill 7 0 0) ∧
      ∃ t, exec .mexit s = .next t ∧ (here t).mill.stat.st = .done)

/-- Injected Mill words, and the control of its stream. -/
def Obligations.MillInjectionAndControl : Prop :=
  Claims.MinjExecutesTheInjectedWord ∧ Claims.MillStreamControl

/-! ### Jobs, waits, faults, saved contexts (01; 13 R318 to R324) -/

namespace Sys2Proof.Claims

/-- A row of the table leads to a next state for which `P` holds. -/
def Leads (s : State) (i : Instr) (P : State → Prop) : Prop := ∃ t, exec i s = .next t ∧ P t

/-- A context as a job starts in it (R11, R14 to R16; 04 R102): entry points, argument and flat index, all else 0, the predicates full, the present
streams in RUN, a gang's in IDLE. -/
def StartedAs (c : Ctx) (j : Job) (m : BitVec 8) (cyc : Nat) : Prop :=
  let st := fun (p : Bool) => if !p then RunState.absent else if j.gang then .idle else .run
  let flat : Word := BitVec.ofNat 64 j.flat
  c.job = some j ∧ c.ways = m ∧ c.halted = false ∧ c.acc.pc = j.ents ∧ c.loom.pc = j.entv ∧ c.mill.pc = j.entm ∧ c.acc.sys = false ∧
  (∀ k, spGet 0 c.acc.g k = if k = 1 then j.arg else if k = 2 then flat else 0) ∧
  (∀ k, spGet 0 c.loom.vg k = if k = 1 then flat else 0) ∧ (∀ k, spGet 0 c.mill.mg k = if k = 1 then flat else 0) ∧
  (∀ k, spGet 0 c.loom.p k = if 1 ≤ k ∧ k < 8 then 0xFFFF else 0) ∧ c.acc.loops = [] ∧ c.chans = [] ∧ c.mill.acc0 = [] ∧ c.mill.acc1 = [] ∧
  c.acc.stat.st = st j.pa ∧ c.loom.stat.st = st j.pv ∧ c.mill.stat.st = st j.pm ∧ c.csr.cycOff = BitVec.ofNat 64 cyc

/-- The tiles of ways `m` read as zeros to their new owner (05 R130). -/
def TilesZero (y : Core) (m : BitVec 8) : Prop :=
  ∀ j i, j < 1536 → i < 4096 → m.getLsbD (j % 8) = true → spByte y (4096 * j + i) = 0

/-- A channel has the value or the room that an instruction waits for (04 R93, 06 R160): the Loom's only where it is enabled and the value there. -/
def NeedMet (c : Ctx) (e : Eng) (x : ChNeed) : Prop :=
  let h := getChan c x.ch
  if x.push = true then h.q.length ≤ x.n ∧ (e = .access ∨ bit h.cfg 8 = true)
  else ∃ y, h.q[x.n]? = some y ∧ (e = .access ∨ (y.filled = true ∧ bit h.cfg 8 = true))

/-- What a stream waits for is there (R18): an access gone or its answer come, every channel's value or room, a tile as awaited, an injected word, a
barrier ended, a queue short enough, a gate open, an event pending that is not masked. -/
def ObjectMet (s : State) (w : Who) (e : Eng) : Prop :=
  let c := getCtx s w
  let t := getStat c e
  let o := t.obj.toNat
  let a := t.aux.toNat
  (t.wkind = 1 ∧ ∀ x, accAt (getDie s w.die) o = some x → x.ready = true) ∨
  (t.wkind = 2 ∧ ∀ x ∈ t.needs, NeedMet c e x) ∨
  (t.wkind = 3 ∧ if 2 ^ 63 ≤ a then c.mill.injq ≠ [] else tagFull (getCore s w) (a / 4096) = (a % 2 == 0)) ∨
  (t.wkind = 4 ∧ let b := barRead (getCore s { w with core := a % 32 }) o; barLive b = false ∨ barDone b (a / 32) = true) ∨
  (t.wkind = 5 ∧ (queueOf c (a % 2)).q.length ≤ a / 2) ∨
  (t.wkind = 6 ∧
    gateFor s w (o % 8) (if a % 4 = 2 then 0 else 1) (if a % 4 = 2 then w.core else 2 * w.core + a % 4) false ≠ .wait) ∨
  (t.wkind = 8 ∧ c.csr.evpend &&& c.csr.evmask ≠ 0)

/-- A stream has ended or was never there. -/
def over_ (t : Stat) : Prop := t.st = .done ∨ t.st = .absent

end Sys2Proof.Claims

/-- R11, R14 to R16, 05 R126, R130, 12 R281, 13 R320: a free context that the front end chooses receives the job of a launch, or the bound job of a
booking, with the registers of a job's start and tiles that read zero; a saved context begins its restore; at a gang's start slot its streams leave
IDLE together. -/
def Sys2Proof.Claims.JobsBecomeResident : Prop :=
  ∀ (s : State), let w := s.ev.w
    let y := getCore s w
    (∀ l k m, s.ev.b = false → s.ev.e ≠ .mill → ctxFree s w false = true → (getPkg s s.ev.v.toNat).launches[s.ev.k]? = some l →
      (l.jobs.find? fun k => k.flat == s.ev.n && k.st == 0 && k.die == w.die) = some k → waysFree y w.ctx l.tiles = some m → l.bkd = false →
      launchFails l = false → coreSuits l k w.core = true → (∀ c < w.core, coreTakes s l k c = false) →
      Leads s .jobResident fun t => StartedAs (getCtx t w) (jobOf s.ev.v.toNat l k) m (cycNow s w.die) ∧ TilesZero (getCore t w) m ∧
        ∀ x ∈ (getPkg t s.ev.v.toNat).launches, x.id = l.id → ∀ q ∈ x.jobs, q.flat = k.flat → q.st = 1 ∧ q.who = w) ∧
    (∀ m j x, s.ev.b = false → s.ev.e = .mill → ctxFree s w true = true →
      let b := getBk (getDie s w.die) s.ev.k
      waysFree y w.ctx b.tiles = some m → b.bound = true → bkHeld b = true → b.on = none → b.core = w.core → jobAt (getDie s w.die) s.ev.k b = none →
      bookedJob s b (handleOf s.ev.k b) w = some (j, x) →
      Leads s .jobResident fun t => StartedAs (getCtx t w) j m (cycNow s w.die) ∧ TilesZero (getCore t w) m) ∧
    (∀ v, s.ev.b = true → ctxFree s w false = true → (getDie s w.die).saved[s.ev.k]? = some v → v.core = w.core →
      (let o := coreCtx y (1 - w.ctx); o.job = none ∨ o.ways &&& v.ctx.ways = 0) →
      Leads s .jobResident fun t => ∃ op, (getCtx t w).restoring = some op ∧ op.runs.head?.map Prod.fst = some v.area) ∧
    (dieOk s w.die = true → clockRuns (getDie s w.die).power = true →
      Leads s .gangStart fun t => ∀ core ctx,
        let x : Who := ⟨w.die, core, ctx⟩
        let c := getCtx s x
        let due := (c.job.any fun j => j.gang && j.gstart ≤ slotNow s w.die) && c.saving.isNone
        ∀ e, getStat (getCtx t x) e =
          if due = true ∧ (getStat c e).st = .idle then { getStat c e with st := .run } else getStat c e)

/-- R18 to R20, R24, R25, R27: a wait whose object is there ends in RUN; a channel wait past `chlim` is 0x0B; a meeting opens once every present stream
waits at it or is DONE, and each goes on past its rendezvous; a job whose streams have all ended, with nothing left in its queues, leaves its
context free. -/
def Sys2Proof.Claims.WaitsMeetingsAndRetirement : Prop :=
  ∀ (s : State), EvMoves s →
    let w := s.ev.w
    let e := s.ev.e
    let c := evCtx s
    let t0 := getStat c e
    (t0.st = .wait → ObjectMet s w e →
      Leads s .waitSatisfied fun t => getStat (getCtx t w) e = { t0 with st := .run, wkind := 0, obj := 0, aux := 0, since := 0, needs := [] }) ∧
    (∀ l x r, t0.st = .wait → t0.wkind = 2 → t0.needs = l ++ x :: r → (∀ y ∈ l, NeedMet c e y) → ¬NeedMet c e x →
      c.csr.chlim.toNat < cycNow s w.die - t0.since →
      let v := BitVec.ofNat 64 x.ch
      exec .channelTimeout s = .next (if e = .access then takeTrap s w 0x0B v 0 true else stopStream s w e 0x0B v)) ∧
    ((∃ e, atMeeting (getStat c e) = true) → (∀ e, atMeeting (getStat c e) = true ∨ over_ (getStat c e)) →
      (∀ a ∈ (getDie s w.die).acc, a.w = w → accGlobal c a = false) → (∀ e, (getStat c e).sstep = false) →
      Leads s .meetingOpen fun t =>
        (∀ e, (getStat (getCtx t w) e).st = if atMeeting (getStat c e) then .run else (getStat c e).st) ∧
        (getCtx t w).acc.pc = (if atMeeting c.acc.stat then (loopNext c.acc.loops c.acc.pc 4 .seq).2 else c.acc.pc) ∧
        (getCtx t w).loom.pc = (if atMeeting c.loom.stat then (loopNext c.loom.loops c.loom.pc 12 .seq).2 else c.loom.pc) ∧
        (getCtx t w).mill.pc = (if atMeeting c.mill.stat then (loopNext c.mill.loops c.mill.pc 24 .seq).2 else c.mill.pc)) ∧
    ((∀ e, over_ (getStat c e)) → c.c0.q = [] → c.c1.q = [] → c.mill.flight = [] →
      (∀ a ∈ (getDie s w.die).acc, a.w = w → accWrites a.kind = false) →
      Leads s .jobRetire fun t => getCtx t w = {} ∧ ∀ a ∈ (getDie t w.die).acc, a.w ≠ w)

/-- Jobs: resident, meeting, retired.
Rests on readings of the model: notes/assumptions/22.md. -/
def Obligations.JobsLiveAndRetire : Prop :=
  Claims.JobsBecomeResident ∧ Claims.WaitsMeetingsAndRetirement

/-- R32, R33, R35, 02 R43, R58, 13 R339: a word that does not decode is 0x01 with its first parcel, a fetch that fails its cause and address, for the
access core as a trap and for another stream as a stop; the access core takes the next report that it can; at its cut time every context of a
die that holds a job halts. -/
def Sys2Proof.Claims.FaultsReachTheirStream : Prop :=
  ∀ (s : State), let w := s.ev.w
    let fault := fun (cause : Nat) => match s.ev.e with
      | .access => takeTrap s w cause s.ev.v 0 true
      | _ => stopStream s w s.ev.e cause s.ev.v
    exec .illegalInstruction s = .next (fault 0x01) ∧ exec .fetchFault s = .next (fault s.ev.n) ∧
    (∀ r, whoOk s w = true → ctxMoves s w = true → canDeliver (getCtx s w) = true → nextReport (getCtx s w).reports = some r →
      exec .engineFaultDelivery s =
        .next (takeTrap (setCtx s w { getCtx s w with reports := (getCtx s w).reports.erase r }) w r.cause r.val r.eng false)) ∧
    (∀ x, (getDie s w.die).stopAt = some x → x ≤ ftimeNow s w.die →
      Leads s .stopAtCut fun t => (getDie t w.die).stopAt = none ∧ (getDie t w.die).stopped = true ∧
        ∀ core ctx, (getCtx s ⟨w.die, core, ctx⟩).job.isSome = true → (getCtx t ⟨w.die, core, ctx⟩).halted = true)

/-- Faults of the Loom, the Mill and the Carters: how they stop a stream and reach it.
Rests on readings of the model: notes/assumptions/37.md. -/
def Obligations.EngineFaults : Prop :=
  Claims.EngineFaultsStopTheStream ∧ Claims.FaultsReachTheirStream

/-- 13 R318 to R320, 14 R359, R360: the front end's save begins with every wait abandoned; a save that fits its area leaves the context free and the
saved one registered, one that does not leaves the job where it was; a restore of a good image in its place brings the job and its streams back, and
one whose image is bad leaves the context free.
Rests on readings of the model: notes/assumptions/15.md, notes/assumptions/41.md. -/
def Obligations.ContextsAreSavedAndRestored : Prop :=
  ∀ (s : State), let w := s.ev.w
    let c := getCtx s w
    (whoOk s w = true → c.job.isSome = true → c.saving = none → c.restoring = none → s.ev.n % 4096 = 0 → s.ev.n + 2 ^ 23 ≤ 2 ^ 37 →
      Leads s .preempt fun t => (∃ op, (getCtx t w).saving = some op ∧ op.runs = [(s.ev.n, 2 ^ 23)]) ∧
        ∀ e, (getStat (getCtx t w) e).st = if (getStat c e).st = .wait then .run else (getStat c e).st) ∧
    (∀ op, c.saving = some op → whoOk s w = true → clockRuns (getDie s w.die).power = true → saveReady s w = true →
      let img := ctxImage (modCtx (settleSave s w) w fun c => { c with halted := false }) w
      (img.length ≤ 4096 * op.limit → (∀ a ∈ (getDie s w.die).acc, whoOk s a.w = true) →
        Leads s .contextSaveComplete fun t => getCtx t w = {} ∧
          ∃ r ∈ (getDie t w.die).saved, r.core = w.core ∧ r.area = ((op.runs.map Prod.fst).headD 0) ∧ r.ctx.job = c.job) ∧
      (4096 * op.limit < img.length →
        Leads s .contextSaveComplete fun t => (getCtx t w).saving = none ∧ (getCtx t w).job = c.job)) ∧
    (∀ op, c.restoring = some op → whoOk s w = true → clockRuns (getDie s w.die).power = true →
      (∀ k, imageAt s w op.runs = (none, k) → accAt (getDie s w.die) op.id = none →
        Leads s .contextRestoreComplete fun t => getCtx t w = { c with restoring := none }) ∧
      (∀ im k, imageAt s w op.runs = (some im, k) → im.loc % 2 ^ 20 = whoBits w →
        (let o := getCtx s (otherCtx w); o.job = none ∨ im.ctx.ways &&& o.ways = 0) → unpaged (getCtx (putImage s w op im k) w) = false →
        Leads s .contextRestoreComplete fun t => let d := getCtx t w
          d.job = im.ctx.job ∧ d.ways = im.ctx.ways ∧ d.restoring = none ∧ d.acc.pc = im.ctx.acc.pc ∧ d.loom.pc = im.ctx.loom.pc ∧
          d.loom.v = im.ctx.loom.v ∧ d.mill.pc = im.ctx.mill.pc ∧ d.mill.acc0 = im.ctx.mill.acc0 ∧ d.mill.acc1 = im.ctx.mill.acc1))

/-! ### Permits, landings and remote operations (05 R137; 17 R431 to R442) -/

namespace Sys2Proof.Claims

/-- Message `ev.k`, of kind `k`, arrives (17 R420, R422). -/
def Arrives (s : State) (k : MKind) (m : Msg) : Prop := msgOf s s.ev.k k = some m

/-- The messages under way once it has been taken. -/
def left (s : State) : List Msg := s.net.eraseIdx s.ev.k

/-- One message is under way beside those of a list. -/
def OneMore (t : State) (l : List Msg) (P : Msg → Prop) : Prop := ∃ m, t.net = l ++ [m] ∧ P m

/-- The permit that a message brings, and its core (08 R209). -/
def permitIn (m : Msg) : Nat × Permit :=
  (bits m.opnd2 15 5,
    { die := m.src, core := m.w.core, gtag := m.opnd.setWidth 48, addr := m.addr, launch := (m.words.headD 0).toNat, csel := bit m.opnd2 20,
      cctx := bits m.opnd2 21 1, count := 1 })

/-- A home that has taken an answer to send: kind, reason, value and tag. -/
def Answers (s t : State) (m : Msg) (reason : Nat) (v : Word) : Prop :=
  OneMore t (left s) fun x => x.kind = .reply ∧ x.src = m.dst ∧ x.dst = m.src ∧ x.w = m.w ∧ x.tag = m.tag ∧ x.op = reason ∧ x.opnd = v

/-- The bytes of HBM from `pa` as the home reads them. -/
def homeBytes (s : State) (d pa n : Nat) : Nat := littleEndian (fun i => memGet (getDie s d).mem.hbm (pa + i)) n

/-- No job of a die has a watchpoint. -/
def NoWatch (s : State) (d : Nat) : Prop := ∀ e ∈ (getDie s d).cores, e.2.k0.dbg.wpb = [] ∧ e.2.k1.dbg.wpb = []

/-- The Carter command that an acknowledgement answers. -/
def Answered (s : State) (w : Who) (k seq : Nat) (q : Cmd) : Prop := headCmd (getCtx s w) k = some q ∧ q.seq = seq ∧ q.wait = 1

end Sys2Proof.Claims

/-- 05 R137, 08 R209, 17 R442, R443: a permit enters the table of its context, waits while there is none or no room, and goes with its launch; a landing
whose window is refused is answered with reason 1; one that its core takes is queued; it begins and takes one from PCNT; its write lands its bytes,
sets FULL and is acknowledged; the acknowledgement completes the TSEND, or fails it with 0x19. -/
def Obligations.PermitsAndLandings : Prop :=
  ∀ (s : State),
    (∀ m, Arrives s .permit m →
      let k := (permitIn m).1
      let p := (permitIn m).2
      let y := getCore s ⟨m.dst, k, 0⟩
      (∀ x l, recvCtx y p.launch p.csel p.cctx = some x → (getCtx s ⟨m.dst, k, x⟩).halted = false →
        tableAdd (getCtx s ⟨m.dst, k, x⟩).permits p = some l →
        Leads s .permitArrival fun t => t.net = left s ∧ (getCtx t ⟨m.dst, k, x⟩).permits = l) ∧
      (recvCtx y p.launch p.csel p.cctx = none →
        Leads s .permitArrival fun t => t.net = left s ∧
          (getDie t m.dst).fab.permq = (getDie s m.dst).fab.permq ++ if launchLives s p.launch then [(k, p)] else [])) ∧
    (∀ k p x l, (getDie s s.ev.w.die).fab.permq[s.ev.k]? = some (k, p) →
      recvCtx (getCore s ⟨s.ev.w.die, k, 0⟩) p.launch p.csel p.cctx = some x → (getCtx s ⟨s.ev.w.die, k, x⟩).halted = false →
      tableAdd (getCtx s ⟨s.ev.w.die, k, x⟩).permits p = some l →
      Leads s .permitEnter fun t => (getCtx t ⟨s.ev.w.die, k, x⟩).permits = l ∧
        (getDie t s.ev.w.die).fab.permq = (getDie s s.ev.w.die).fab.permq.eraseIdx s.ev.k) ∧
    (∀ m, Arrives s .landing m →
      let l := m.land.getD {}
      (windowFor s m.dst m.addr 1 3 m.size = none →
        Leads s .landingArrival fun t => OneMore t (left s) fun x => x.kind = .landAck ∧ x.dst = l.src.die ∧ x.tag = l.cmd ∧ x.op = 1) ∧
      ∀ v i, windowFor s m.dst m.addr 1 3 m.size = some v →
        let o := winOff v + expOffset m.addr.toNat
        let l' := { l with core := winCore v, slot := o / 4096, off := o % 4096 }
        let y := getCore s ⟨m.dst, winCore v, 0⟩
        landCtx y l' = some i → landGood y l' = true → y.landq.length < 8 →
        (∀ z ∈ (getDie s m.dst).fab.store, z.core = winCore v → z.slot ≠ o / 4096) →
        Leads s .landingArrival fun t => t.net = left s ∧ (getCore t ⟨m.dst, winCore v, 0⟩).landq = y.landq ++ [l']) ∧
    (∀ l i, let w : Who := { s.ev.w with ctx := 0 }
      let y := getCore s w
      let u : Who := { w with ctx := i }
      let fresh := landCtx y l = some i ∧ ctxTakes s u = true ∧ landGood y l = true ∧ landBlocked (getCtx s u) l = false
      s.ev.b = false → y.landq[s.ev.k]? = some l → (∀ x ∈ y.landq.take s.ev.k, x.slot ≠ l.slot) → tagLost y [l.slot] = false →
      tagFull y l.slot = false →
      (l.begun = false → fresh → s.ev.n = 1 →
        Leads s .landingWrite fun t => let z := getCore t w
          tagPcnt z l.slot = tagPcnt y l.slot - 1 ∧ z.landq = y.landq.set s.ev.k { l with begun := true } ∧ t.net = s.net) ∧
      ((if l.begun = true then (slotOwner s w l.slot).map Who.ctx = some i else fresh ∧ s.ev.n ≠ 1) → tagTurn s u l.slot true 5 = true →
        quietDie (getDie s w.die) = true →
        Leads s .landingWrite fun t => let z := getCore t w
          z.landq = y.landq.eraseIdx s.ev.k ∧ tagFull z l.slot = true ∧ tagPcnt z l.slot = tagPcnt y l.slot - (if l.begun = true then 0 else 1) ∧
          spRead z (l.slot * 4096 + l.off) l.bytes.length = l.bytes ∧
          OneMore t s.net fun x => x.kind = .landAck ∧ x.dst = l.src.die ∧ x.tag = l.cmd ∧ x.op = 0)) ∧
    (∀ m q, Arrives s .landAck m → ctxAnswers s m.w = true → Answered s m.w (m.agent - 3) m.tag q →
      Leads s .landingAck fun t => t.net = left s ∧
        ∃ r, headCmd (getCtx t m.w) (m.agent - 3) = some r ∧ r.wait = 0 ∧
          (m.op = 0 → r.moved = true ∧ r.fail = q.fail) ∧ (m.op ≠ 0 → r.fail = 0x19 ∧ r.moved = q.moved))

/-- 17 R431 to R434, R436 to R440, R420, 18 R456: at its home an operation outside its window is answered with reason 1, a load of HBM with its bytes, a
store writes them and is answered, an atomic add writes the sum and answers the old value; a request over a link that is down is answered with reason 2; a
reply completes its access with the value or fails it; routers merge requests and give each member the value before its own.
Rests on readings of the model: notes/assumptions/51.md. -/
def Obligations.RemoteOperationsAndReplies : Prop :=
  ∀ (s : State),
    (∀ m, Arrives s .remote m → s.ev.n ≠ 1 → opHeld s m (getDie s m.dst).fab.held = false → quietDie (getDie s m.dst) = true →
      let perm := if m.op = 0 then 0 else if m.op = 1 then 1 else 2
      (windowFor s m.dst m.addr m.capk perm m.size = none → Leads s .remoteOperation fun t => Answers s t m 1 0) ∧
      ∀ v, windowFor s m.dst m.addr m.capk perm m.size = some v → v.kind = 0 → v.bn = false → NoWatch s m.dst →
        let pa := v.base + expOffset m.addr.toNat
        let old := homeBytes s m.dst pa m.size
        (m.op = 0 → m.size ≤ 8 → physErr s m.dst .hbm pa m.size = none →
          Leads s .remoteOperation fun t => Answers s t m 0 (BitVec.ofNat 64 old) ∧ (getDie t m.dst).mem.hbm = (getDie s m.dst).mem.hbm) ∧
        (m.op = 1 → 0 < m.size → m.size ≤ 8 →
          Leads s .remoteOperation fun t => Answers s t m 0 0 ∧ WroteHbm s t m.dst pa m.size m.opnd.toNat) ∧
        (m.op = 16 → m.size = 4 ∨ m.size = 8 → s.ev.b = false → physErr s m.dst .hbm pa m.size = none →
          Leads s .remoteOperation fun t => Answers s t m 0 (BitVec.ofNat 64 old) ∧
            WroteHbm s t m.dst pa m.size ((old + m.opnd.toNat) % 2 ^ (8 * m.size)))) ∧
    (∀ m, s.ev.n ≠ 1 → msgOf s s.ev.k .remote = none → msgOf s s.ev.k .tget = none → msgCut s s.ev.k .remote = some m →
      Leads s .remoteOperation fun t => Answers s t m 2 0) ∧
    (∀ m a, Arrives s .reply m → m.agent ≠ 1 → ctxAnswers s m.w = true → accAt (getDie s m.w.die) m.tag = some a →
      Leads s .remoteReply fun t => t.net = left s ∧
        (m.op = 0 → t = accDone (modCtx { s with net := left s } a.w fun c => raiseEv c 4) a m.opnd) ∧
        (m.op ≠ 0 → a.w.die = m.w.die → (∀ x ∈ (getDie t a.w.die).acc, x.id ≠ a.id) ∧
          ∃ r ∈ (getCtx t a.w).reports, r.cause = if m.op = 6 then 0x0F else if m.op = 7 then 0x11 else 0x19)) ∧
    (∀ a b i, let r := s.ev.w.die
      s.net[s.ev.k]? = some a → s.net[s.ev.n]? = some b → s.ev.k ≠ s.ev.n → combinable a = true → combinable b = true → a.dst = b.dst →
      a.addr = b.addr → a.size = b.size → (getDie s r).alm.rply = false → portAt s r a = portAt s r b →
      (∀ p, portAt s r a = some p → let l := ((getPort (getDie s r) p).outq.filter fun f => f.vc == 0).map Flit.msg
        l.idxOf a.num < l.idxOf b.num ∧ l.idxOf b.num < l.length ∧ l.idxOf b.num ≤ l.idxOf a.num + 16) → (portAt s r a).isSome = true →
      ¬(a.agent = 1 ∧ a.src = r) → ((List.range 64).find? fun i => !((getDie s r).fab.splits.any fun x => x.idx == i)) = some i →
      Leads s .combining fun t => t.net.length + 1 = s.net.length ∧
        ∃ x, (getDie t r).fab.splits = (getDie s r).fab.splits ++ [x] ∧ x.idx = i ∧
          x.members.map Member.opnd = [a.opnd, b.opnd] ∧ x.members.map Member.tag = [a.tag, b.tag]) ∧
    (∀ m x, Arrives s .reply m → m.agent = 1 → quietDie (getDie s m.dst) = true →
      ((getDie s m.dst).fab.splits.find? fun x => x.idx == m.tag) = some x → m.op = 0 →
      Leads s .combinedReply fun t =>
        ∃ l, t.net = left s ++ l ∧ l.map Msg.tag = x.members.map Member.tag ∧ l.map Msg.dst = x.members.map Member.src ∧
          l.map Msg.opnd = (List.range x.members.length).map fun k =>
            BitVec.ofNat 64 ((m.opnd.toNat + ((x.members.take k).map fun y => y.opnd.toNat).sum) % 2 ^ (8 * x.size))) ∧
    (∀ x, ((getDie s s.ev.w.die).fab.splits.find? fun x => x.idx == s.ev.k) = some x → x.since + 1000000 ≤ ftimeNow s s.ev.w.die →
      Leads s .splitRecordTimeout fun t =>
        ∃ l, t.net = s.net ++ l ∧ l.map Msg.tag = x.members.map Member.tag ∧ ∀ y ∈ l, y.kind = .reply ∧ y.op = 2)

/-! ### Trace, scrub, replay and broadcasts (13; 14 R367; 17 R451, R453) -/

namespace Sys2Proof.Claims

/-- The contexts of a die that hold jobs, core by core. -/
def residents (s : State) (d : Nat) : List Who :=
  (getDie s d).cores.flatMap fun (k, y) =>
    (if y.k0.job.isSome then [⟨d, k, 0⟩] else []) ++ if y.k1.job.isSome then [⟨d, k, 1⟩] else []

/-- A broadcast has gone on over every link that is up. -/
def Relayed (s t : State) (d : Nat) (k : MKind) : Prop :=
  ∀ p < 6, cabled s d p = true → linkUp s d p = true → ∃ m ∈ t.net, m.kind = k ∧ m.src = d ∧ m.dst = neighbour s d p

end Sys2Proof.Claims

/-- R328, R336, R339, R346, 14 R367, 17 R451, R453: a sample is one record of each resident context; at a snapshot's time the words latch, the event
counters and the slot among them; the scrub corrects a correctable error, poisons a sector with an uncorrectable one and leaves a sound one; replay lets the agent of the next record
past its order point, and begins with the log it is given; a broadcast takes its effect on a die once and goes on over the links.
Rests on readings of the model: notes/assumptions/26.md, notes/assumptions/27.md. -/
def Obligations.TraceReplayAndBroadcasts : Prop :=
  ∀ (s : State), let d := s.ev.w.die
    let x := getDie s d
    (let n := bits x.trace.smpper 0 32
      let at_ := x.trace.smpAt
      n ≠ 0 → at_ + n ≤ cycNow s d →
      let s1 := modDie s d fun z => { z with trace := { z.trace with smpAt := at_ + (cycNow s d - at_) / n * n } }
      exec .sampleRecord s = .next ((residents s1 d).foldl (fun t w => modDie t d fun z => ringAppend z 2 (sampleRecord s1 w)) s1)) ∧
    (x.trace.snapPend = true → x.trace.snapT.toNat ≤ x.time.ftime →
      Leads s .snapTrigger fun t => let z := (getDie t d).trace
        z.snapPend = false ∧ z.snapValid = true ∧ spGet 0 z.snapWords (1 * 2 ^ 16) = BitVec.ofNat 64 (slotNow s d) ∧
        ∀ k < 16, spGet 0 z.snapWords (4 * 2 ^ 16 + k) = spGet 0 x.trace.evcnt k) ∧
    (spGet 0 x.mem.herr s.ev.n = 0 → exec .scrub s = .next s) ∧
    (spGet 0 x.mem.herr s.ev.n = 4 → Leads s .scrub fun t => spGet 0 (getDie t d).mem.herr s.ev.n = 0) ∧
    (let rec_ := ringBase x 4 + (spGet 0 x.trace.rgwrp 4).toNat
     spGet 0 x.mem.herr s.ev.n = 1 → (rec_ + 32 ≤ 32 * s.ev.n ∨ 32 * s.ev.n + 32 ≤ rec_) →
      Leads s .scrub fun t => spGet 0 (getDie t d).mem.herr s.ev.n = 3 ∧ ∃ m ∈ (getDie t d).moot, m.kind = 4 ∧ m.cause = 7) ∧
    (∀ r l, x.alm.log = r :: l → x.alm.rply = true → recAgent r = agentKey s.ev.w s.ev.k → x.alm.go.contains (agentKey s.ev.w s.ev.k) = false →
      (∀ e ∈ allDies s, e ≠ d → (getDie s e).alm.rply = true → ∀ q ∈ (getDie s e).alm.log, sameObj q r = true → recBefore q r = false) →
      Leads s .replayOrderPoint fun t => (getDie t d).alm.go.contains (agentKey s.ev.w s.ev.k) = true) ∧
    (dieOk s d = true → x.alm.rply = false → s.ev.bytes.length % 32 = 0 →
      Leads s .replayStart fun t => let a := (getDie t d).alm
        a.rply = true ∧ a.logging = false ∧ a.start = s.ev.n ∧ a.log.length = s.ev.bytes.length / 32) ∧
    (s.ev.b = false → dieOk s d = true →
      (x.fab.seen.contains (4 * s.ev.n) = false →
        Leads s .systemStopBroadcast fun t => (getDie t d).stopAt = some s.ev.v.toNat ∧ Relayed s t d .stop) ∧
      (x.fab.seen.contains (4 * s.ev.n + 1) = false → x.trace.snapPend = false →
        Leads s .snapshotBroadcast fun t => (getDie t d).trace.snapPend = true ∧ (getDie t d).trace.snapT = s.ev.v ∧ Relayed s t d .snap) ∧
      (x.fab.seen.contains (4 * s.ev.n + 2) = false → x.alm.div = true →
        Leads s .replayHaltBroadcast fun t => (getDie t d).alm.rply = false ∧ Relayed s t d .replayHalt ∧
          ∀ core ctx, (getCtx s ⟨d, core, ctx⟩).job.isSome = true → (getCtx t ⟨d, core, ctx⟩).halted = true)) ∧
    (∀ m, s.ev.b = true → Arrives s .stop m → (getDie s m.dst).fab.seen.contains (4 * m.tag) = false →
      Leads s .systemStopBroadcast fun t => (getDie t m.dst).stopAt = some m.opnd.toNat)

/-! ### Bookings: slots, intake, the two-phase commit (12 R289 to R304) -/

namespace Sys2Proof.Claims

def reeveOf (s : State) (d : Nat) : ReeveSt := (getDie s d).reeve

def bkOf (s : State) (d i : Nat) : Booking := getBk (getDie s d) i

/-- What a PREP or a gang's proposal asks. -/
def asked (m : Msg) (task : Option Booking) : HeldPrep :=
  { die := m.src, handle := m.tag, stamp := m.opnd, parts := m.parts, ents := m.ents, task := task }

/-- The die can grant what is asked, as R289, R290, R292 and R306 say, with the marks `ms` and without displacing anyone. -/
def Grants (s : State) (d : Nat) (p : HeldPrep) (ms : List RMk) : Prop :=
  let x := getDie s d
  let l := ms.flatMap fun m => m.slots.map fun t => (m.ex, m.cal, t)
  calendarsRun x = true ∧ intakeStops x = false ∧ x.time.off160 = false ∧
  (x.alm.rply = true → (replayRec (getDie s p.die) p.handle).isSome = true) ∧ regionCount x + p.ents.length ≤ 32768 ∧
  (p.task.isSome = true → (freeBk x).isSome = true) ∧ tentMarks x + (p.parts.map fun q => q.slots.length).sum ≤ 1024 ∧ gangBinds x p = true ∧
  askedBounds s d 0 p.ents = true ∧ grantParts d x p.stamp true 0 p.parts [] = some ms ∧ youngLocal d x p.stamp l = [] ∧ youngOther x p.stamp l = []

/-- An answer of a kind goes back to the asking die. -/
def GoesBack (s t : State) (m : Msg) (k : MKind) (code : Word) : Prop :=
  OneMore t (left s) fun x => x.kind = k ∧ x.src = m.dst ∧ x.dst = m.src ∧ x.tag = m.tag ∧ x.opnd = m.opnd ∧ x.opnd2 = code

/-- What the marks of a granted PREP become. -/
def Marked (s t : State) (m : Msg) (ms : List RMk) : Prop :=
  ∃ o, (reeveOf t m.dst).others = (reeveOf s m.dst).others ++ [o] ∧ o.die = m.src ∧ o.handle = m.tag ∧ o.stamp = m.opnd ∧ o.marks = ms ∧ o.comm = false

/-- Nothing waits in intake on a die, and no PREP is held. -/
def IntakeEmpty (s : State) (d : Nat) : Prop := (reeveOf s d).held = [] ∧ ∀ e ∈ (reeveOf s d).bks, inIntake e.2 = false

/-- Booking `i` of the message's die is the one it answers. -/
def AsksFor (s : State) (m : Msg) (i : Nat) (st : BkState) : Prop := askerOf s m = some i ∧ (bkOf s m.dst i).st = st

/-- It is back in placing, to be placed from `e` on; its restarts have grown. -/
def PlacedAgain (s t : State) (d i e restart : Nat) : Prop :=
  let c := bkOf t d i
  c.st = .placing ∧ c.planE = e ∧ c.restarts = (bkOf s d i).restarts + restart ∧ c.parts = []

end Sys2Proof.Claims

/-- R272, R293, R301, R302, R304, 14 R352: when a slot begins the rows that have passed are freed and the slot counts; a use whose slot has come, with
its predecessors ended, has its gate opened and its booking runs; a task in intake ages one level; a result word reaches its register.
Rests on readings of the model: notes/assumptions/29.md. -/
def Obligations.SlotsIntakeAndResults : Prop :=
  ∀ (s : State), let d := s.ev.w.die
    let n := slotNow s d
    let r := reeveOf s d
    (dieOk s d = true → r.slot < n → (getDie s d).power.state ≠ 0 ∨ (r.bks = [] ∧ r.others = [] ∧ r.held = []) →
      Leads s .slotStart fun t => (reeveOf t d).slot = n ∧ ∀ c k, k < 4096 → spGet 0 (reeveOf t d).excl (c * 4096 + k) =
        if (k + 4096 - r.slot % 4096) % 4096 < n - r.slot then 0 else spGet 0 r.excl (c * 4096 + k)) ∧
    (∀ i b u, dieOk s d = true → r.slot < n → (getDie s d).power.state = 0 → (getDie s d).power.target = none →
      (getDie s d).time.off160 = false → r.bks = [(i, b)] → r.others = [] → r.held = [] → r.edges = [] → b.st = .booked → b.uses = [u] → b.isGang = false →
      u.cls < 2 → u.slots = [n] → u.ended = false → u.gate = false → u.closing = false → u.unb = false →
      ((jobAt (getDie s d) i b).isSome = true →
        Leads s .slotStart fun t => (bkOf t d i).st = .running ∧ (nthUse (bkOf t d i) 0).gate = true ∧ (nthUse (bkOf t d i) 0).started = true) ∧
      (jobAt (getDie s d) i b = none → (∀ k < 2, (getCtx s ⟨d, b.core, k⟩).job.isSome = true) →
        Leads s .slotStart fun t => (bkOf t d i).st = .booked ∧ (nthUse (bkOf t d i) 0).gate = false)) ∧
    (let b := bkOf s d s.ev.k
     let age := bits (spGet 1000 r.rvage b.level) 0 32 * 1000
     inIntake b = true → b.level < 6 → age ≠ 0 → b.since + age ≤ ftimeNow s d →
      Leads s .intakeAgeing fun t => let c := bkOf t d s.ev.k
        c.level = b.level + 1 ∧ c.since = b.since + age ∧ c.order = r.order ∧ (reeveOf t d).order = r.order + 1) ∧
    (∀ id book v a, r.results[s.ev.k]? = some (id, book, v) → accAt (getDie s d) id = some a → quietDie (getDie s d) = true →
      (∀ x, a.dest ≠ .chan x) →
      Leads s .bookResult fun t =>
        let code := bits v 0 8
        Delivered s t a (if book then (code + (if code = 0 ∨ code = 9 then bits v 8 20 else 0) * 2 ^ 8 + bits v 32 32 * 2 ^ 32) else v.toNat) ∧
        (reeveOf t d).results = r.results.eraseIdx s.ev.k)

/-- R289, R290, R292, R305: a die whose calendars do not run answers a PREP or a gang's proposal with STOPPED; one that can grant it marks its slots
tentatively and acknowledges; the last acknowledgement sends COMMIT to every die, an earlier one waits for the others. -/
def Sys2Proof.Claims.PreparesAreGrantedOrRefused : Prop :=
  ∀ (s : State) (m : Msg),
    (Arrives s .prep m →
      (calendarsRun (getDie s m.dst) = false ∨ intakeStops (getDie s m.dst) = true → Leads s .prep fun t => GoesBack s t m .bkNack 0x0A) ∧
      ∀ ms, Grants s m.dst (asked m none) ms → Leads s .prep fun t => GoesBack s t m .bkAck 0 ∧ Marked s t m ms) ∧
    (Arrives s .gang m →
      (calendarsRun (getDie s m.dst) = false ∨ intakeStops (getDie s m.dst) = true → Leads s .gangProposal fun t => GoesBack s t m .bkNack 0x0A) ∧
      ∀ ms, Grants s m.dst (asked m m.task) ms → Leads s .gangProposal fun t => GoesBack s t m .bkAck 0 ∧ Marked s t m ms) ∧
    (∀ i, Arrives s .bkAck m → AsksFor s m i .preparing →
      let b := bkOf s m.dst i
      ((∀ p ∈ b.parts, p.die = m.src ∨ p.ack = true) → (getDie s m.dst).time.off160 = false →
        Leads s .bookingAck fun t => (bkOf t m.dst i).st = .committing ∧ ∃ l, t.net = left s ++ l ∧ l.map Msg.dst = b.parts.map Part.die ∧
          ∀ x ∈ l, x.kind = .bkCommit ∧ x.src = m.dst ∧ x.tag = m.tag ∧ x.opnd = b.stamp) ∧
      ((∃ p ∈ b.parts, p.die ≠ m.src ∧ p.ack = false ∧ p.nack = 0) →
        Leads s .bookingAck fun t => (bkOf t m.dst i).st = .preparing ∧ t.net = left s ∧
          ∀ p ∈ (bkOf t m.dst i).parts, p.die = m.src → p.ack = true))

/-- R282, R289 to R291, R294: a negative acknowledgement with a code ends the task, or leaves it QUEUED for want of a context, one with a shift places
it again that much later; COMMIT makes the marks committed
and is acknowledged, or not where there are none; the last acknowledgement of it books the task; ABORT frees what was held. -/
def Sys2Proof.Claims.CommitsAndAborts : Prop :=
  ∀ (s : State) (m : Msg),
    (∀ i, Arrives s .bkNack m → AsksFor s m i .preparing →
      let b := bkOf s m.dst i
      (m.opnd2 ≠ 0 → b.queue = false ∨ m.opnd2 = 7 ∨ m.opnd2 = 0x0A → Leads s .bookingNack fun t => (bkOf t m.dst i).st = .free) ∧
      (m.opnd2 = 4 → b.queue = true → Leads s .bookingNack fun t => (bkOf t m.dst i).st = .queued ∧
        ∀ w id, b.who = some (w, id) → ∃ v, (id, true, v) ∈ (reeveOf t w.die).results ∧ bits v 0 8 = 9 ∧ bits v 8 20 = m.tag) ∧
      (m.opnd2 = 0 → b.isGang = false → b.restarts < 16 → Leads s .bookingNack fun t => PlacedAgain s t m.dst i (b.planE + m.op) 1)) ∧
    (Arrives s .bkCommit m →
      (otherOf (getDie s m.dst) m.src m.tag = none → Leads s .bookingCommit fun t => GoesBack s t m .bkCommitNack 0) ∧
      ∀ o, otherOf (getDie s m.dst) m.src m.tag = some o → o.task = none → (reeveOf s m.dst).held = [] →
        Leads s .bookingCommit fun t => GoesBack s t m .bkCommitAck 0 ∧
          ∀ x ∈ (reeveOf t m.dst).others, x.die = m.src → x.handle = m.tag → x.comm = true) ∧
    (∀ i, Arrives s .bkCommitAck m → AsksFor s m i .committing →
      let b := bkOf s m.dst i
      ((∀ p ∈ b.parts, p.die = m.src ∨ p.commit = true) → b.pend = [] →
        Leads s .bookingCommitAck fun t => (bkOf t m.dst i).st = .booked ∧
          ∀ w id, b.who = some (w, id) → ∃ v, (id, true, v) ∈ (reeveOf t w.die).results ∧ bits v 0 8 = 0 ∧ bits v 8 20 = m.tag) ∧
      ((∃ p ∈ b.parts, p.die ≠ m.src ∧ p.commit = false) → Leads s .bookingCommitAck fun t => (bkOf t m.dst i).st = .committing)) ∧
    (∀ i, Arrives s .bkCommitNack m → AsksFor s m i .committing → (bkOf s m.dst i).restarts < 16 → (bkOf s m.dst i).pend = [] →
      Leads s .bookingCommitNack fun t => PlacedAgain s t m.dst i (bkOf s m.dst i).planE 1) ∧
    (∀ o, Arrives s .bkAbort m → otherOf (getDie s m.dst) m.src m.tag = some o → m.op = 0 → o.kids = [] → IntakeEmpty s m.dst →
      Leads s .bookingAbort fun t => t.net = left s ∧ ∀ x ∈ (reeveOf t m.dst).others, ¬(x.die = m.src ∧ x.handle = m.tag))

/-- R290, R291: a wound aborts a younger booking that prepares and is refused by one that has sent COMMIT; a refusal lets the marks stand; tentative
marks older than 64 slots go, and a booking whose answer has not come in 64 slots ends. -/
def Sys2Proof.Claims.WoundsRefusalsAndTimeouts : Prop :=
  ∀ (s : State) (m : Msg),
    (∀ i, Arrives s .wound m → AsksFor s m i .preparing → Leads s .wound fun t => PlacedAgain s t m.dst i 0 0) ∧
    (∀ i st, Arrives s .wound m → AsksFor s m i st → st = .committing ∨ st = .booked ∨ st = .running →
      Leads s .wound fun t => GoesBack s t m .refuse 0 ∧ bkOf t m.dst i = bkOf s m.dst i) ∧
    (Arrives s .refuse m → (reeveOf s m.dst).held = [] →
      Leads s .refuse fun t => t.net = left s ∧ ∀ x ∈ (reeveOf t m.dst).others, x.die = m.src → x.handle = m.tag → x.held = true) ∧
    (∀ o, let d := s.ev.w.die
      (reeveOf s d).others[s.ev.k]? = some o → o.comm = false → o.since + 64 ≤ slotNow s d → (reeveOf s d).held = [] →
      Leads s .tentativeMarkTimeout fun t => ∀ x ∈ (reeveOf t d).others, ¬(x.die = o.die ∧ x.handle = o.handle)) ∧
    (let d := s.ev.w.die
     let b := bkOf s d s.ev.k
     b.st = .preparing → (∃ p ∈ b.parts, p.ack = false ∧ p.nack = 0) → b.sentAt + 64 ≤ slotNow s d →
      Leads s .remoteAnswerTimeout fun t => (bkOf t d s.ev.k).st = .free)

/-- The two phases of booking: prepared, committed, wounded.
Rests on readings of the model: notes/assumptions/42.md. -/
def Obligations.BookingsArePrepared : Prop :=
  Claims.PreparesAreGrantedOrRefused ∧ Claims.CommitsAndAborts ∧ Claims.WoundsRefusalsAndTimeouts

/-! ### Links and fabric time (17 R417 to R428) -/

namespace Sys2Proof.Claims

def portOf (s : State) (d p : Nat) : PortSt := getPort (getDie s d) p

/-- The header of a flit: its sequence number, virtual channel, type. -/
def flitHeader (f : List Byte) : Nat := leNat (f.take 8)

/-- The slots of a receive pool (R418). -/
def Room (p : Nat) : Nat := if p < 4 then 64 else if p < 6 then 32 else 16

/-- The one flit of a message, formed or not yet, with its fields in range. -/
def FlitOk (g : Flit) : Prop :=
  g.idx = 0 ∧ g.nfl = 0 ∧ 0 < g.typ ∧ g.typ < 128 ∧ g.vc < 4 ∧ g.dl = 0 ∧ (g.body = [] ∨ g.body.length = 240)

end Sys2Proof.Claims

/-- R417 to R421: a flit whose check fails is counted and asked for again; one in its turn is taken and the next is awaited; the one flit of a message that
waits in an output queue crosses its link in its turn and has then come to its die; a link retrains after 8 tries or
2 µs of silence; trained it is up at both ends, and after the third failure in a row down with a machine check; reading its status clears its counts. -/
def Sys2Proof.Claims.LinksTrainAndCarryFlits : Prop :=
  ∀ (s : State), let d := s.ev.w.die
    let p := s.ev.n
    let x := portOf s d p
    let f := s.ev.bytes
    (dieOk s d = true → cabled s d p = true → linkUp s d p = true → neighbour s d p ≠ d → s.ev.b = false →
      (f.length ≠ 256 ∨ leNat ((f.drop 8).take 8) ≠ (flitCrc f).toNat →
        Leads s .flitReceive fun t => (portOf t d p).crce = min (x.crce + 1) 0xFFFF ∧ (portOf t d p).nak = true ∧ (portOf t d p).rx = x.rx) ∧
      (f.length = 256 → leNat ((f.drop 8).take 8) = (flitCrc f).toNat → flitHeader f / 2 ^ 8 % 128 ≠ 0 →
        (flitHeader f / 2 ^ 52 % 4096 = x.exp →
          Leads s .flitReceive fun t => let y := portOf t d p
            y.exp = (x.exp + 1) % 4096 ∧ y.ackd = x.exp ∧ y.nak = false ∧ y.rx = x.rx ++ [f]) ∧
        (flitHeader f / 2 ^ 52 % 4096 ≠ x.exp →
          Leads s .flitReceive fun t => (portOf t d p).nak = true ∧ (portOf t d p).exp = x.exp ∧ (portOf t d p).rx = x.rx))) ∧
    (let e := neighbour s d p
     let o := portOf s e (farPort p)
     ∀ g m, dieOk s d = true → cabled s d p = true → linkUp s d p = true → e ≠ d → s.ev.b = true → o.resend = [] → o.outq = [g] → o.lock = [] →
      o.rbuf.length < 512 → o.seq = x.exp → x.exp < 4096 → FlitOk g → g.inp = none → g.dst = d → dieOk s e = true →
      (spGet 0 o.sent (2 * g.vc + g.dl) + 4096 - spGet 0 o.retd (2 * g.vc + g.dl)) % 4096 < Room (2 * g.vc + g.dl) →
      s.net = [m] → m.num = g.msg → m.kind ≠ .beacon → m.got = g.idx →
      Leads s .flitReceive fun t =>
        (portOf t d p).exp = (x.exp + 1) % 4096 ∧ (portOf t d p).ackd = x.exp ∧ (portOf t e (farPort p)).outq = [] ∧
        (portOf t e (farPort p)).seq = (o.seq + 1) % 4096 ∧ t.net = [{ m with got := m.got + 1 }]) ∧
    (dieOk s d = true → cabled s d p = true → linkUp s d p = true →
      (8 ≤ x.tries ∨ 2000 ≤ (getDie s d).time.osc - x.last →
        Leads s .linkRetrain fun t => (portOf t d p).state = 1 ∧ (portOf t (neighbour s d p) (farPort p)).state = 1)) ∧
    (let e := neighbour s d p
     dieOk s d = true → cabled s d p = true → e ≠ d → x.state = 1 → (portOf s e (farPort p)).state = 1 →
      (s.ev.b = false → Leads s .trainingComplete fun t => (portOf t d p).state = 2 ∧ (portOf t e (farPort p)).state = 2) ∧
      (s.ev.b = true → x.failRow < 2 → Leads s .trainingComplete fun t => (portOf t d p).state = 1 ∧ (portOf t d p).failRow = x.failRow + 1) ∧
      (s.ev.b = true → 2 ≤ x.failRow →
        Leads s .trainingComplete fun t => (portOf t d p).state = 0 ∧
          (∃ q ∈ (getDie t d).moot, q.kind = 4 ∧ q.cause = 6) ∧ ∃ q ∈ (getDie t e).moot, q.kind = 4 ∧ q.cause = 6)) ∧
    (dieOk s d = true → cabled s d p = true → linkDown s d p = true →
      Leads s .mootLinkRetrain fun t => (portOf t d p).state = 1 ∧ (portOf t d p).failRow = 0) ∧
    (dieOk s d = true → p < 6 →
      Leads s .linkStatusRead fun t => t.out = wordBytes8 (lkstWord s d p) ∧ (portOf t d p).crce = 0 ∧ (portOf t d p).rply = 0 ∧
        (portOf t d p).rtrn = 0 ∧ (portOf t d p).rfail = 0)

/-- R425 to R428: the root sends a beacon every 8 µs; a beacon from the parent sets a die's fabric time to its own plus the link's delay, or corrects it, and
beyond 10 ns the die is out of step; so it is after 1 ms without one; the Moot measures delays and assigns parents. -/
def Sys2Proof.Claims.BeaconsKeepFabricTime : Prop :=
  ∀ (s : State), let d := s.ev.w.die
    let t0 := (getDie s d).time
    (dieOk s d = true → t0.root = true → t0.set = true → t0.bcnSeq = 0 ∨ t0.bcnT + 8000 ≤ t0.ftime →
      Leads s .beaconSend fun t => (getDie t d).time.bcnSeq = (t0.bcnSeq + 1) % 2 ^ 32 ∧ (getDie t d).time.bcnT = t0.ftime) ∧
    (∀ m, Arrives s .beacon m →
      let b := m.opnd.toNat + (portOf s m.dst m.agent).delay
      let u := (getDie s m.dst).time
      (parentPort s m.dst ≠ some m.agent → exec .beacon s = .next { s with net := left s }) ∧
      (parentPort s m.dst = some m.agent → u.set = false →
        Leads s .beacon fun t => (getDie t m.dst).time.ftime = b ∧ (getDie t m.dst).time.set = true) ∧
      (parentPort s m.dst = some m.agent → u.set = true →
        let off : Int := (b : Int) - (u.ftime : Int)
        Leads s .beacon fun t => let v := (getDie t m.dst).time
          v.corr = off ∧ v.off160 = decide (160 < off.natAbs) ∧ v.ftime = u.ftime ∧ (10 < off.natAbs → v.oos = true) ∧
          (off.natAbs ≤ 10 → u.oos = false → v.oos = false))) ∧
    (dieOk s d = true → t0.set = true → t0.root = false → 1000000 ≤ t0.osc - t0.bcnT →
      Leads s .beaconTimeout fun t => (getDie t d).time.oos = true ∧ (getDie t d).time.off160 = true ∧
        (t0.oos = false → ∃ q ∈ (getDie t d).moot, q.kind = 4 ∧ q.cause = 10)) ∧
    (dieOk s d = true → cabled s d s.ev.n = true → linkUp s d s.ev.n = true →
      (Leads s .linkDelayMeasure fun t => (portOf t d s.ev.n).delay = (s.ev.k - s.ev.v.toNat) / 2) ∧
      (let u := (getDie s (neighbour s d s.ev.n)).time
       u.set = true → u.oos = false → Leads s .parentPortAssign fun t => (getDie t d).time.parent = some s.ev.n))

/-- Links, flits, beacons.
Rests on readings of the model: notes/assumptions/19.md, notes/assumptions/42.md. -/
def Obligations.LinksAndFabricTime : Prop :=
  Claims.LinksTrainAndCarryFlits ∧ Claims.BeaconsKeepFabricTime

/-! ### Bundles between dies (17 R443 to R450; 18 R466 to R470) -/

namespace Sys2Proof.Claims

/-- The home answers a bundle message with a kind; stamp and line are the message's. -/
def LineAnswer (s t : State) (m : Msg) (k : MKind) : Prop :=
  OneMore t (left s) fun x => x.kind = k ∧ x.src = m.dst ∧ x.dst = m.src ∧ x.tag = m.tag ∧ x.op = m.op ∧ x.addr = m.addr ∧ x.opnd = m.opnd

/-- The line a message is about, in a page of at least one line. -/
def OnLine (s : State) (m : Msg) (l : Line) : Prop := l = lineAt s m.dst m.addr.toNat ∧ 128 ≤ l.size

/-- The pending version has become the current one (R446). -/
def LineCommitted (s t : State) (d : Nat) (l : Line) : Prop :=
  (slotSt t d l (otherSlot l)).testBit 6 = true ∧ (slotSt t d l (otherSlot l)).testBit 5 = false ∧ (slotSt t d l l.cur).testBit 6 = false ∧
  ∀ x ∈ (getDie t d).fab.pendv, ¬(x.data0 = l.a ∧ x.stamp = BitVec.ofNat 64 (slotStamp s d l (otherSlot l)))

/-- The pending version is no more. -/
def LineAborted (s t : State) (d : Nat) (l : Line) : Prop :=
  (slotSt t d l (otherSlot l)).testBit 5 = false ∧ (slotSt t d l (otherSlot l)).testBit 4 = false ∧
  ∀ x ∈ (getDie t d).fab.pendv, ¬(x.data0 = l.a ∧ x.stamp = BitVec.ofNat 64 (slotStamp s d l (otherSlot l)))

def memOf (s : State) (d : Nat) : MemSt := (getDie s d).mem

/-- The version in slot `k` goes out as it stands, its sectors good. -/
def VersionSent (s t : State) (m : Msg) (l : Line) (k st : Nat) : Prop :=
  OneMore t (left s) fun x => x.kind = .bData ∧ x.dst = m.src ∧ x.tag = m.tag ∧ x.op = m.op ∧ x.opnd = BitVec.ofNat 64 st ∧ x.pois = [] ∧
    x.bytes = memRead (memOf s m.dst).hbm (slotData l k) 128

/-- The sectors of slot `k` carry no mark. -/
def SlotGood (s : State) (d : Nat) (l : Line) (k : Nat) : Prop := ∀ j < 4, spGet 0 (memOf s d).herr (slotData l k / 32 + j) = 0

/-- The BNDC `q`, in a phase, awaits the answer `m` (R447). -/
def Writes (s : State) (m : Msg) (q : Cmd) (phase : Nat) : Prop :=
  headCmd (getCtx s m.w) (m.agent - 3) = some q ∧ q.seq = m.tag ∧ q.wait = 1 ∧ q.kind = .bndc ∧ q.bw.stamp = m.opnd ∧ q.bw.phase = phase ∧
  q.bw.await.contains m.op = true ∧ ctxAnswers s m.w = true

/-- It stands with bundle state `b`, no message sent. -/
def StillWrites (s t : State) (m : Msg) (q : Cmd) (b : BndW) : Prop :=
  t.net = left s ∧ headCmd (getCtx t m.w) (m.agent - 3) = some { q with bw := b }

/-- A message of a BNDR that awaits it (R449). -/
def Reads (s : State) (m : Msg) (r : BndRd) : Prop :=
  ctxAnswers s m.w = true ∧ (getCtx s m.w).bndr = [r] ∧ r.id = m.tag ∧ m.agent = r.attempt * 2 + r.round ∧ r.await.contains m.op = true

end Sys2Proof.Claims

/-- R444, R446, 18 R466: a BNDS learns its line's global address from a bundle window that admits it, or fails with 0x1A; PREPARE enters a pending version and is
acknowledged, BUSY while there is one, STALE when it is not newer; COMMIT makes it current, ABORT removes it; reads answer with the version asked for. -/
def Sys2Proof.Claims.BundleLinesAtTheirHome : Prop :=
  ∀ (s : State) (m : Msg),
    (Arrives s .bndsReq m →
      (∀ v, windowFor s m.dst m.addr 0 4 m.size = some v → v.bn = true →
        Leads s .bndsLineRequest fun t => OneMore t (left s) fun x => x.kind = .bndsAns ∧ x.dst = m.src ∧ x.tag = m.tag ∧ x.op = 0 ∧
          x.opnd = BitVec.ofNat 64 (m.dst % 2 ^ 15 * 2 ^ 37 + (v.base + expOffset m.addr.toNat / 128 * 128) / 2 ^ 7 % 2 ^ 37)) ∧
      (windowFor s m.dst m.addr 0 4 m.size = none →
        Leads s .bndsLineRequest fun t => OneMore t (left s) fun x => x.kind = .bndsAns ∧ x.dst = m.src ∧ x.tag = m.tag ∧ x.op = 1)) ∧
    (∀ a bd k, Arrives s .bndsAns m → ctxAnswers s m.w = true → accAt (getDie s m.w.die) m.tag = some a → a.kind = .bnds bd k → k < 16 →
      let b := getBd (getCtx s a.w) bd
      (m.op = 0 → (∀ n < 16, n ≠ k → n < hdrNl (bdHdr b) → bdLine b n ≠ m.opnd.toNat % 2 ^ 52) →
        Leads s .bndsComplete fun t => bdLine (getBd (getCtx t a.w) bd) k = m.opnd.toNat % 2 ^ 52 ∧ ∀ x ∈ (getDie t a.w.die).acc, x.id ≠ a.id) ∧
      (m.op ≠ 0 → Leads s .bndsComplete fun t => hdrBad (bdHdr (getBd (getCtx t a.w) bd)) = true ∧
        ∃ r ∈ (getCtx t a.w).reports, r.cause = 0x1A)) ∧
    (∀ l, OnLine s m l →
      let d := m.dst
      let o := otherSlot l
      let pend := pendingIs s d l m.opnd.toNat
      quietDie (getDie s d) = true →
      (Arrives s .prepare m →
        ((slotSt s d l o).testBit 5 = true →
          Leads s .prepare fun t => LineAnswer s t m .bBusy ∧ (∃ x ∈ t.net, x.opnd2 = BitVec.ofNat 64 (slotStamp s d l o)) ∧ memOf t d = memOf s d) ∧
        ((slotSt s d l o).testBit 5 = false → m.opnd.toNat ≤ curStamp s d l →
          Leads s .prepare fun t => LineAnswer s t m .bStale ∧ memOf t d = memOf s d) ∧
        ((slotSt s d l o).testBit 5 = false → curStamp s d l < m.opnd.toNat → m.bytes.length = 128 →
          Leads s .prepare fun t => LineAnswer s t m .bAck ∧ pendingIs t d l m.opnd.toNat = true ∧
            memRead (memOf t d).hbm (slotData l o) 128 = m.bytes ∧
            (getDie t d).fab.pendv.length = (getDie s d).fab.pendv.length + 1)) ∧
      (Arrives s .bCommit m →
        (pend = true → Leads s .bundleCommit fun t => LineAnswer s t m .bCommitAck ∧ LineCommitted s t d l) ∧
        (pend = false → Leads s .bundleCommit fun t =>
          LineAnswer s t m (if curStamp s d l = m.opnd.toNat then .bCommitAck else .bCommitNack) ∧ memOf t d = memOf s d)) ∧
      (Arrives s .bAbort m → Leads s .bundleAbort fun t => LineAnswer s t m .bAbortAck ∧
        if pend = true then LineAborted s t d l else memOf t d = memOf s d) ∧
      (Arrives s .readCur m → SlotGood s d l l.cur → Leads s .readCurrent fun t => VersionSent s t m l l.cur (curStamp s d l)) ∧
      (Arrives s .readExact m →
        (curStamp s d l = m.opnd.toNat → SlotGood s d l l.cur → Leads s .readExact fun t => VersionSent s t m l l.cur m.opnd.toNat) ∧
        (curStamp s d l ≠ m.opnd.toNat → slotStamp s d l o ≠ m.opnd.toNat → Leads s .readExact fun t => LineAnswer s t m .superseded)))

/-- R447, R449, 18 R467, R468: an answer to PREPARE is counted; the last acknowledgement sends COMMIT to every line and the stamp has won, BUSY makes the writer give
way to an older version or begin anew, STALE asks for a new stamp, a backoff over sends PREPARE again; acknowledged everywhere the BNDC is done, refused it
fails with 0x1A; a BNDR's last version, consistent, delivers the set and its status.
Rests on readings of the model: notes/assumptions/40.md. -/
def Obligations.BundleWritersAndReaders : Prop :=
  ∀ (s : State) (m : Msg),
    (∀ q, Writes s m q 1 →
      let k := m.agent - 3
      let b := q.bw
      let rest := b.await.erase m.op
      (Arrives s .bAck m → rest ≠ [] →
        Leads s .bundleAck fun t => StillWrites s t m q { b with await := rest, acked := b.acked ++ [m.op] }) ∧
      (Arrives s .bAck m → rest = [] → b.yield_ = false → b.stale = false → b.again = false → b.cut = none →
        Leads s .bundleAck fun t => (∃ r, headCmd (getCtx t m.w) k = some r ∧ r.bw.phase = 2 ∧ r.bw.await = List.range b.data.length) ∧
          (getDie t m.w.die).fab.won.contains b.stamp = true ∧ ∃ l, t.net = left s ++ l ∧ l.map Msg.op = List.range b.data.length ∧
          ∀ x ∈ l, x.kind = .bCommit ∧ x.opnd = b.stamp) ∧
      (Arrives s .bBusy m → rest ≠ [] →
        Leads s .busy fun t => StillWrites s t m q
          (if m.opnd2.toNat < b.stamp.toNat then { b with await := rest, yield_ := true } else { b with await := rest, again := true })) ∧
      (Arrives s .bStale m → rest ≠ [] →
        Leads s .bundleStale fun t => StillWrites s t m q
          (if m.opnd2 = 2 then { b with await := rest, cut := some m.addr.toNat } else { b with await := rest, stale := true })) ∧
      (Arrives s .bBusy m → rest = [] → m.opnd2.toNat < b.stamp.toNat → b.cut = none →
        Leads s .busy fun t => ∃ r, headCmd (getCtx t m.w) k = some r ∧ r.bw.phase = 3 ∧ r.bw.aborts = b.aborts + 1 ∧
          r.bw.until_ = ftimeNow s m.w.die + 64 * 2 ^ min (b.aborts + 1) 6 + m.w.die % 64 * 4)) ∧
    (∀ q, Writes s m q 2 →
      let k := m.agent - 3
      (Arrives s .bCommitAck m → q.bw.await.erase m.op = [] → q.bw.nack = false →
        Leads s .bundleCommitAck fun t => t.net = left s ∧ ∃ r, headCmd (getCtx t m.w) k = some r ∧ r.wait = 0 ∧ r.moved = true ∧ r.fail = q.fail) ∧
      (Arrives s .bCommitNack m → q.bw.await.erase m.op = [] →
        Leads s .bundleCommitNack fun t => t.net = left s ∧
          ∃ r, headCmd (getCtx t m.w) k = some r ∧ r.wait = 0 ∧ r.fail = 0x1A ∧ r.failVal = q.bw.stamp)) ∧
    (Arrives s .bAbortAck m → exec .abortAck s = .next { s with net := left s }) ∧
    (∀ q, let w := s.ev.w
      let k := evK s
      headCmd (getCtx s w) k = some q → q.kind = .bndc → whoOk s w = true → ctxAnswers s w = true →
      (q.bw.phase = 3 ∧ q.bw.until_ ≤ ftimeNow s w.die ∧ q.bw.stale = false) ∨ (q.bw.phase = 4 ∧ q.bw.until_ ≤ cycNow s w.die) →
      Leads s .bundleBackoff fun t => let ls := (List.range q.bw.data.length).filter fun n => !(q.bw.acked.contains n)
        (∃ r, headCmd (getCtx t w) k = some r ∧ r.bw.phase = 1 ∧ r.bw.await = ls) ∧
        ∃ l, t.net = s.net ++ l ∧ l.map Msg.op = ls ∧ ∀ x ∈ l, x.kind = .prepare ∧ x.opnd = q.bw.stamp) ∧
    (∀ r, Arrives s .bData m → Reads s m r →
      (r.await.erase m.op ≠ [] → quietDie (getDie s m.w.die) = true →
        Leads s .bndrRoundComplete fun t => t.net = left s ∧ ∃ r', (getCtx t m.w).bndr = [r'] ∧ r'.await = r.await.erase m.op ∧
          ∃ x ∈ r'.lines, x.k = m.op ∧ x.stamp = m.opnd ∧ x.data = m.bytes) ∧
      (∀ a, r.await = [m.op] → r.lines = [] → r.super = false → m.op < 16 → m.bytes.length = 128 → m.pois = [] →
        quietDie (getDie s m.w.die) = true → accAt (getDie s m.w.die) r.id = some a → a.w = m.w → (∀ x, a.dest ≠ .chan x) →
        Leads s .bndrRoundComplete fun t =>
          let off := hdrBase (bdHdr (getBd (getCtx s m.w) r.bd))
          (getCtx t m.w).bndr = [] ∧ spRead (getCore t m.w) (off + 128 * m.op) 128 = m.bytes ∧
          spRead (getCore t m.w) (off + 2048 + 8 * m.op) 8 = wordBytes8 m.opnd ∧ Delivered s t a ((r.attempt + 1) * 2 ^ 12)))

/-- R448: a version pending for 64 slots makes its home ask the die of its stamp, which answers COMMITTED if that stamp has won and UNKNOWN otherwise; the home commits or
aborts it; with no answer for 64 slots more it aborts it and makes a machine check. -/
def Sys2Proof.Claims.BundleOutcomes : Prop :=
  ∀ (s : State), let d := s.ev.w.die
    (∀ p, (getDie s d).fab.pendv[s.ev.k]? = some p →
      (p.asked = false → p.since + 64 ≤ slotNow s d →
        Leads s .pendingVersionTimeout fun t =>
          (OneMore t s.net fun x => x.kind = .query ∧ x.src = d ∧ x.dst = bits p.stamp 5 15 ∧ x.opnd = p.stamp) ∧
          (getDie t d).fab.pendv = (getDie s d).fab.pendv.set s.ev.k { p with asked := true, since := slotNow s d }) ∧
      (p.asked = true → p.since + 64 ≤ slotNow s d → Leads s .outcomeTimeout fun t => ∃ q ∈ (getDie t d).moot, q.kind = 4 ∧ q.cause = 6)) ∧
    (∀ m, Arrives s .query m → Leads s .outcomeQuery fun t => OneMore t (left s) fun x =>
      x.kind = (if (getDie s m.dst).fab.won.contains m.opnd then .committed else .unknown) ∧ x.src = m.dst ∧ x.dst = m.src ∧ x.addr = m.addr ∧
        x.opnd = m.opnd) ∧
    ∀ m l, OnLine s m l → pendingIs s m.dst l m.opnd.toNat = true →
      (Arrives s .committed m → Leads s .committed fun t => t.net = left s ∧ LineCommitted s t m.dst l) ∧
      (Arrives s .unknown m → Leads s .unknown fun t => t.net = left s ∧ LineAborted s t m.dst l)

/-- Bundle lines at their home, and how a bundle ends. -/
def Obligations.BundlesAtTheirHome : Prop :=
  Claims.BundleLinesAtTheirHome ∧ Claims.BundleOutcomes

/-! ### The front end, the host and the package (16) -/

namespace Sys2Proof.Claims

/-- The package that the event names, its queue `ev.k`. -/
def evPkg (s : State) : Pkg := getPkg s s.ev.n

def evQueue (s : State) : Queue := getQueue (evPkg s) s.ev.k

/-- The package once the step has been taken. -/
def pkgIn (s t : State) : Pkg := getPkg t s.ev.n

/-- A packet of type `pt` with fields `fs` starts now: it is the package's next and passes the checks of R383 to R391. -/
def PacketStarts (s : State) (h : HeadPkt) (pt : Nat) (fs : List Fld) : Prop :=
  let ws := wordsIn (h.len / 8) h.bytes
  pkgOk s s.ev.n = true ∧ feRuns (evPkg s) = true ∧ nextQueue s s.ev.n = some s.ev.k ∧ headPkt s s.ev.n s.ev.k = some h ∧ h.fail = none ∧
  bits (ws.getD 1 0) 0 8 = pt ∧ readFields s s.ev.n pt ws.length 16 (ws.drop 2) [] = .ok fs ∧
  (∀ ty ∈ fldNeeds pt, (fldOf fs ty).isSome = true) ∧ (pt = 6 → s.ev.k = 0) ∧
  ∀ f, fldOf fs 2 = some f → ∃ l, sigSpots s (evQueue s) (f.word 0) 3 = .ok l

/-- The state in which it has been taken from its queue (R383). -/
def opened (s : State) (h : HeadPkt) : State := (beginPkt s s.ev.n s.ev.k h).1

/-- It has ended with a status, the offset of the field at fault, the Reeve's code; or it is under way. -/
def PacketEnded (s t : State) (e : Option (Nat × Nat × Nat)) : Prop :=
  ∃ k ∈ (pkgIn s t).pkts, k.id = (evPkg s).nextPkt ∧ k.q = s.ev.k ∧ k.ended = e

/-- A run of HBM. -/
def hbmRun (d pa n : Nat) : Spot := ⟨d, .hbm, pa, n⟩

/-- The operation and operands of a CONFIG packet. -/
def opWord (fs : List Fld) (k : Nat) : Word := fldWord fs 0x60 k

end Sys2Proof.Claims

/-- R380, R381, R383 to R385: EN starts the admin queue; base and size are taken only while it is 0; a 1 clears a bit of `emerg`; a doorbell moves WRIDX, or one
out of range is status 2 and stops its queue; the active queue whose doorbell came first is mapped, an empty one is unmapped after 100 µs, one that
has waited its age rises a level.
Rests on readings of the model: notes/assumptions/31.md. -/
def Obligations.HostRegistersAndQueues : Prop :=
  ∀ (s : State), pkgOk s s.ev.n = true →
    let x := evPkg s
    let v := evQueue s
    let a := s.ev.v
    let on := bit x.fectl 0
    let now := pkgNow s s.ev.n
    (s.ev.k = 0x08 → bit a 0 = false → Leads s .fectlWrite fun t => (pkgIn s t).fectl = 0) ∧
    (s.ev.k = 0x08 → bit a 0 = true → on = false →
      Leads s .fectlWrite fun t => (pkgIn s t).fectl = 1 ∧ getQueue (pkgIn s t) 0 = adminQueue s x) ∧
    (s.ev.k = 0x18 → Leads s .fectlWrite fun t => (pkgIn s t).admbase = if on then x.admbase else BitVec.ofNat 64 (a.toNat / 2 ^ 12 * 2 ^ 12)) ∧
    (s.ev.k = 0x20 → Leads s .fectlWrite fun t => (pkgIn s t).admlog2 =
      if on = false ∧ 12 ≤ bits a 0 6 ∧ bits a 0 6 ≤ 20 then BitVec.ofNat 64 (bits a 0 6) else x.admlog2) ∧
    (Leads s .emergClear fun t => (pkgIn s t).emerg = x.emerg &&& ~~~a) ∧
    (s.ev.k < 4096 → v.log2 ≠ 0 →
      (v.rdidx.toNat ≤ a.toNat → a.toNat - v.rdidx.toNat ≤ 2 ^ v.log2 →
        Leads s .doorbell fun t => (getQueue (pkgIn s t) s.ev.k).wridx = a ∧ (getQueue (pkgIn s t) s.ev.k).err = v.err) ∧
      (a.toNat < v.rdidx.toNat ∨ 2 ^ v.log2 < a.toNat - v.rdidx.toNat →
        Leads s .doorbell fun t => let q := getQueue (pkgIn s t) s.ev.k
          q.err = true ∧ q.mapped = false ∧ q.wridx = v.wridx ∧ q.erri = BitVec.ofNat 64 (2 + bits v.rdidx 0 32 * 2 ^ 32))) ∧
    (feRuns x = true → queueActive v = true → v.mapped = false → (x.queues.filter fun u => u.2.mapped).length < 64 →
      (∀ u ∈ x.queues, queueActive u.2 = true → u.2.mapped = false → v.bell ≤ u.2.bell) →
      Leads s .queueMap fun t => (getQueue (pkgIn s t) s.ev.k).mapped = true) ∧
    (v.mapped = true → v.wridx = v.rdidx → queueBusy x s.ev.k = false → v.emptyAt + 100000 ≤ now →
      Leads s .queueUnmap fun t => (getQueue (pkgIn s t) s.ev.k).mapped = false) ∧
    (v.mapped = true → queueActive v = true → v.age ≠ 0 → v.level < 6 → v.since + v.age * 1000 < now →
      Leads s .queueAgeing fun t => (getQueue (pkgIn s t) s.ev.k).level = v.level + 1)

/-- R388, R393, R395, R400: COPY writes the bytes of its source, SIGNAL a value or a sum; BARRIER_AND ends once its signals are all zero, with 4 on a negative one; a
BOOK packet's task enters its die's intake, a bad descriptor ends it with 0x0C and BAD_DESC; a reference that cannot be followed is 3, poison 0x0A.
Rests on readings of the model: notes/assumptions/44.md, notes/assumptions/45.md, notes/assumptions/47.md. -/
def Obligations.MemoryPackets : Prop :=
  ∀ (s : State) (h : HeadPkt) (fs : List Fld),
    let o := opened s h
    let v := evQueue s
    (PacketStarts s h 3 fs →
      let n := (fldWord fs 0x30 2).toNat
      (refSpots o v (fldWord fs 0x30 0) n 1 = none →
        Leads s .copy fun t => PacketEnded s t (some (3, fldOff fs 0x30, 0))) ∧
      ∀ a d pa, refSpots o v (fldWord fs 0x30 0) n 1 = some a → refSpots o v (fldWord fs 0x30 1) n 2 = some [hbmRun d pa n] →
        (spotsRead o a).length = n → (∀ b ∈ spotsRead o a, b.2 = false) → (∀ r ∈ a, spotDetect o r = o) →
        Leads s .copy fun t => PacketEnded s t (some (0, 0, 0)) ∧ memRead (memOf t d).hbm pa n = (spotsRead o a).map Prod.fst) ∧
    (PacketStarts s h 5 fs → ∀ d pa,
      let old := BitVec.ofNat 64 (leNat (memRead (memOf o d).hbm pa 8))
      ((fldWord fs 0x50 1).toNat ≠ 1 → sigSpots o v (fldWord fs 0x50 0) 2 = .ok [hbmRun d pa 8] →
        Leads s .signal fun t => PacketEnded s t (some (0, 0, 0)) ∧ memRead (memOf t d).hbm pa 8 = wordBytes8 (fldWord fs 0x50 2)) ∧
      ((fldWord fs 0x50 1).toNat = 1 → sigSpots o v (fldWord fs 0x50 0) 3 = .ok [hbmRun d pa 8] →
        Leads s .signal fun t => PacketEnded s t (some (0, 0, 0)) ∧ memRead (memOf t d).hbm pa 8 = wordBytes8 (old + fldWord fs 0x50 2))) ∧
    (PacketStarts s h 4 fs → ∀ l, depSpots o v (((fldOf fs 0x40).map Fld.v).getD []) = .ok l →
      let ws := l.map (spotsWord o)
      Leads s .barrierAnd fun t => PacketEnded s t
        (if ∃ w ∈ ws, w.msb = true then some (4, fldOff fs 0x40, 0) else if ∀ w ∈ ws, w = 0 then some (0, 0, 0) else none)) ∧
    (∀ p l, pkgOk s s.ev.n = true → (evPkg s).pkts = [p] → s.ev.k = 0 → p.ended = none → pktType p = 4 →
      let gs := pktFields s s.ev.n p
      depSpots s (getQueue (evPkg s) p.q) (((fldOf gs 0x40).map Fld.v).getD []) = .ok l →
      let ws := l.map (spotsWord s)
      Leads s .barrierAndRead fun t => ∃ k, (pkgIn s t).pkts = [k] ∧ k.id = p.id ∧ k.ended =
        if ∃ w ∈ ws, w.msb = true then some (4, fldOff gs 0x40, 0) else if ∀ w ∈ ws, w = 0 then some (0, 0, 0) else none) ∧
    (PacketStarts s h 2 fs → ∀ r,
      let d := (fldWord fs 0x20 1).toNat
      refSpots o v (fldWord fs 0x20 0) 512 1 = some r → (∀ b ∈ spotsRead o r, b.2 = false) →
      let bs := (spotsRead o r).map Prod.fst
      (taskOf d bs = none → Leads s .bookPacket fun t => PacketEnded s t (some (0x0C, 0, 5))) ∧
      ∀ b i, taskOf d bs = some b → b.prio < 7 ∨ v.sys = true → b.regs = [] → b.isGang = false → calendarsRun (getDie s d) = true →
        intakeStops (getDie s d) = false → freeBk (getDie s d) = some i → intakeCount (getDie s d) < 256 →
        Leads s .bookPacket fun t => PacketEnded s t none ∧ (bkOf t d i).st = .queued ∧ (bkOf t d i).uses = b.uses ∧
          (bkOf t d i).fe = some (s.ev.n, (evPkg s).nextPkt, 0))

/-- R396, R397, R399: a launch of an image or kernel that is not loaded is status 6; one that expands is live under the next number with its jobs numbered in order,
none yet started, and its packet is under way; what refuses it ends its packet, and no job starts. -/
def Sys2Proof.Claims.LaunchesExpandOrAreRefused : Prop :=
  ∀ (s : State) (h : HeadPkt) (fs : List Fld), PacketStarts s h 1 fs →
    let o := opened s h
    let v := evQueue s
    let id := (evPkg s).nextPkt
    let kern := fldWord fs 0x10 0
    (((evPkg s).images.find? fun i => i.hdl == bits kern 0 32) = none →
      Leads s .launch fun t => PacketEnded s t (some (6, fldOff fs 0x10, 0)) ∧ (pkgIn s t).launches = (evPkg s).launches) ∧
    (∀ e, tryLaunch o s.ev.n id v fs = .error e →
      Leads s .launch fun t => PacketEnded s t (some e) ∧ (pkgIn s t).launches = (evPkg s).launches) ∧
    (∀ u, tryLaunch o s.ev.n id v fs = .ok u → bit ((((fldOf fs 0x11).map Fld.v).getD []).getD 0 0) 5 = false →
      Leads s .launch fun t => PacketEnded s t none ∧ ∃ l ∈ (pkgIn s t).launches, l.id = (evPkg s).nextLaunch ∧ l.pkt = id ∧
        l.jobs.map LJob.flat = List.range l.jobs.length ∧ (∀ j ∈ l.jobs, j.st = 0) ∧ l.bkd = false ∧
        (pkgIn s t).nextLaunch = (evPkg s).nextLaunch + 1)

/-- R382, R389, R405, R406, R410: a queue's record is created under the lowest free number; a destroyed one waits for its packets, a reset one goes on past them; an
image that verifies is loaded and one in use is not unloaded; a configuration record that verifies comes into force; what fails ends with its status. -/
def Sys2Proof.Claims.ConfigurationPacketsEnd : Prop :=
  ∀ (s : State) (h : HeadPkt) (fs : List Fld), PacketStarts s h 6 fs →
    let o := opened s h
    let v := evQueue s
    let x := getPkg o s.ev.n
    let off := fldOff fs 0x60
    let done := fun t => PacketEnded s t (some (0, 0, 0))
    let fails := fun st t => PacketEnded s t (some (st, off, 0))
    ((opWord fs 0).toNat = 0x01 →
      (refSpots o v (opWord fs 1) 256 3 = none → Leads s .queueCreate (fails 3)) ∧
      ∀ l, refSpots o v (opWord fs 1) 256 3 = some l → (∀ b ∈ spotsRead o l, b.2 = false) →
        (Machine.queueOf o ((spotsRead o l).map Prod.fst) = none → Leads s .queueCreate (fails 2)) ∧
        ∀ r, Machine.queueOf o ((spotsRead o l).map Prod.fst) = some r →
          (queueDenied o x r = true → Leads s .queueCreate (fails 5)) ∧
          ∀ q, queueDenied o x r = false → ((List.range 4096).find? fun q => !(queueIs x q)) = some q →
            Leads s .queueCreate fun t => done t ∧ getQueue (pkgIn s t) q = r) ∧
    ((opWord fs 0).toNat = 0x02 → exec .queueDestroy s = .next o ∧ PacketEnded s o none) ∧
    ((opWord fs 0).toNat = 0x03 → Leads s .queueReset fun t => done t ∧
      let q := getQueue (pkgIn s t) (opWord fs 1).toNat
      q.err = false ∧ q.erri = 0 ∧ q.rdidx = q.wridx) ∧
    ((opWord fs 0).toNat = 0x10 → ∀ l d pa, refSpots o v (opWord fs 1) (opWord fs 2).toNat 1 = some l →
      refSpots o v (opWord fs 3) 8 2 = some [hbmRun d pa 8] → (∀ b ∈ spotsRead o l, b.2 = false) →
      (∀ e, loadImage x ((spotsRead o l).map Prod.fst) = .error e → Leads s .imageLoad (fails e)) ∧
      ∀ i, loadImage x ((spotsRead o l).map Prod.fst) = .ok i →
        Leads s .imageLoad fun t => done t ∧ (pkgIn s t).images = (evPkg s).images ++ [i] ∧
          memRead (memOf t d).hbm pa 8 = leBytes 4 i.hdl ++ leBytes 4 i.gen) ∧
    ((opWord fs 0).toNat = 0x11 →
      ((∃ l ∈ (evPkg s).launches, l.img = (opWord fs 1).toNat) → Leads s .imageUnload (fails 5)) ∧
      ((∀ l ∈ (evPkg s).launches, l.img ≠ (opWord fs 1).toNat) → Leads s .imageUnload fun t => done t ∧
        ∀ i ∈ (pkgIn s t).images, i.hdl ≠ (opWord fs 1).toNat)) ∧
    ((opWord fs 0).toNat = 0x30 → ∀ l, refSpots o v (opWord fs 1) (opWord fs 2).toNat 1 = some l → (∀ b ∈ spotsRead o l, b.2 = false) →
      (∀ e, cfgRecord x s.ev.n ((spotsRead o l).map Prod.fst) = .error e → Leads s .cfgInstall (fails e)) ∧
      ∀ r, cfgRecord x s.ev.n ((spotsRead o l).map Prod.fst) = .ok r →
        Leads s .cfgInstall fun t => done t ∧ r ∈ (pkgIn s t).cfg ∧ (∀ c ∈ (pkgIn s t).cfg, c.typ = r.typ → c = r) ∧
          (pkgIn s t).flash = (evPkg s).flash ++ [r]) ∧
    ((opWord fs 0).toNat = 0x40 → bit (opWord fs 1) 1 = false → Leads s .almanac fun t => done t ∧
      ∀ j < 8, dieOk s (pkgDie s.ev.n j) = true → let a := (getDie t (pkgDie s.ev.n j)).alm
        a.logging = bit (opWord fs 1) 0 ∧ a.rply = false)

/-- 02 R65, R66, 16 R407: a portable record and an operand record are read field by field; of the native sections of a generation that the part executes
the highest is chosen; without one a portable section is translated, unless one of its records holds what R66 rejects. -/
def Sys2Proof.Claims.PortableSectionsAreChecked : Prop :=
  ∀ (b : List Byte) (l : List Sect),
    let strs := (Config.portTables b).strings
    let native := fun (x : Sect) => x.typ = 3 ∧ x.gen = 3
    let badRec := fun (r : PortRec) => r.opn / 2 ^ 14 = 3 ∨ 6 < r.count ∨ 4 ≤ r.flg ∨ 5 < r.fr / 16 % 8 ∨ 128 ≤ r.fr ∨ 64 ≤ r.pu ∨ r.gap ≠ 0 ∨
      fmtOf (r.fr % 16) = none ∨ (∀ e, portEng r = some e → l3Op e (r.opn % 2 ^ 14) = false)
    let badOpnd := fun (x : PortOpnd) => 8 < x.kind ∨ 4 ≤ x.ofl ∨ (x.sym ≠ 0 ∧ strs ≤ x.sym)
    let bad := (∃ r ∈ portRecs b, badRec r) ∨ ∃ x ∈ portOpnds b, badOpnd x
    ((∃ x ∈ l, native x) → codeChoice b l = some 3) ∧
    ((∀ x ∈ l, ¬native x) → (∃ x ∈ l, x.typ = 1) → (bad → codeChoice b l = none) ∧ (¬bad → codeChoice b l = some 0xFFFFFFFF)) ∧
    ((∀ x ∈ l, ¬native x) → (∀ x ∈ l, x.typ ≠ 1) → codeChoice b l = none) ∧
    (∀ o, let r := portRecAt b o
      let v := leNat ((b.drop o).take 16)
      r.opn = v % 2 ^ 16 ∧ r.count = v / 2 ^ 16 % 2 ^ 8 ∧ r.flg = v / 2 ^ 24 % 2 ^ 8 ∧ r.fr = v / 2 ^ 32 % 2 ^ 8 ∧ r.pu = v / 2 ^ 40 % 2 ^ 8 ∧
      r.gap = v / 2 ^ 48 % 2 ^ 16 ∧ r.opix = v / 2 ^ 64 % 2 ^ 32 ∧ r.imm.toNat = v / 2 ^ 96 % 2 ^ 32) ∧
    (∀ o, let x := portOpndAt b o
      let v := leNat ((b.drop o).take 8)
      x.kind = v % 2 ^ 8 ∧ x.ofl = v / 2 ^ 8 % 2 ^ 8 ∧ x.sym = v / 2 ^ 16 % 2 ^ 16 ∧ x.val = v / 2 ^ 32 % 2 ^ 32)

/-- CONFIG packets, and the code of an image.
Rests on readings of the model: notes/assumptions/12.md, notes/assumptions/53.md. -/
def Obligations.ConfigPackets : Prop :=
  Claims.ConfigurationPacketsEnd ∧ Claims.PortableSectionsAreChecked

/-- R390, R392, R394: a packet that ends leaves the started ones; its signal counts down; with an error its queue stops with its status, and its vector is raised. -/
def Sys2Proof.Claims.PacketsComplete : Prop :=
  ∀ (s : State) (k : Pkt) (st off ext : Nat), (evPkg s).pkts[s.ev.k]? = some k → pktEnd s s.ev.n k = some (st, off, ext) →
    (∀ l ∈ (evPkg s).launches, l.pkt ≠ k.id) → pktType k ≠ 6 → pktScan k 3 = none →
    let v := getQueue (evPkg s) k.q
    (pktScan k 2 = none → st = 0 → Leads s .packetComplete fun t => (pkgIn s t).pkts = (evPkg s).pkts.eraseIdx s.ev.k ∧
      (getQueue (pkgIn s t) k.q).err = v.err ∧ (pkgIn s t).msix = (evPkg s).msix) ∧
    (pktScan k 2 = none → st ≠ 0 → Leads s .packetComplete fun t => let q := getQueue (pkgIn s t) k.q
      (pkgIn s t).pkts = (evPkg s).pkts.eraseIdx s.ev.k ∧ q.err = true ∧ q.mapped = false ∧
      q.erri = BitVec.ofNat 64 (st + off % 2 ^ 16 * 2 ^ 8 + ext % 2 ^ 8 * 2 ^ 24 + bits k.off 0 32 * 2 ^ 32) ∧
      (pkgIn s t).msix = (evPkg s).msix ++ [if bit v.irq 7 then bits v.irq 0 7 else 1]) ∧
    (∀ r d pa, pktScan k 2 = some [r] → sigSpots s v r 3 = .ok [hbmRun d pa 8] → st = 0 →
      Leads s .packetComplete fun t =>
        memRead (memOf t d).hbm pa 8 = wordBytes8 (BitVec.ofNat 64 (leNat (memRead (memOf s d).hbm pa 8)) - 1))

/-- Launches, and the completion of packets.
Rests on readings of the model: notes/assumptions/12.md, notes/assumptions/44.md, notes/assumptions/47.md. -/
def Obligations.LaunchesAndCompletions : Prop :=
  Claims.LaunchesExpandOrAreRefused ∧ Claims.PacketsComplete

/-- R411 to R413: POWER asks each die of its mask for a state; the change begins at its window or after its drain, and 20 µs later the die is in the state asked; an idle die
wakes in 50 µs; a trip by temperature takes a die to P2, one by its supply halts it, and `emerg` says so.
Rests on readings of the model: notes/assumptions/48.md. -/
def Obligations.PowerStates : Prop :=
  ∀ (s : State), let d := s.ev.w.die
    let w := (getDie s d).power
    let now := (getDie s d).time.osc
    (∀ h fs, PacketStarts s h 6 fs → (opWord fs 0).toNat = 0x20 → ∀ j < 8, bit (opWord fs 1) j = true →
      let e := pkgDie s.ev.n j
      let p := (getDie s e).power
      p.state ≠ bits (opWord fs 1) 8 4 ∨ p.trip = true →
      (∀ i < 8, liveIdx (getDie s (pkgDie s.ev.n i)) (getDie s (pkgDie s.ev.n i)).power.wbk = none) →
      Leads s .power fun t => PacketEnded s t none ∧ (getDie t e).power.target = some (bits (opWord fs 1) 8 4)) ∧
    (dieOk s d = true →
      (∀ x, w.target = some x → w.relock = false → w.waking = false →
        (if w.drain then drained (getDie s d) = true else w.window ≤ slotNow s d ∧ (x = 3 → dieJobs (getDie s d) = false)) →
        Leads s .powerChange fun t => (getDie t d).power.relock = true ∧ (getDie t d).power.relockEnd = now + 20000) ∧
      (w.relock = true → w.relockEnd ≤ now → Leads s .relockComplete fun t => (getDie t d).power.state = w.target.getD w.state ∧
        (getDie t d).power.target = none ∧ (getDie t d).power.relock = false) ∧
      (w.waking = true → w.relockEnd ≤ now → Leads s .idleWake fun t => (getDie t d).power.state = w.target.getD 0 ∧
        (getDie t d).power.waking = false) ∧
      (s.ev.b = false → Leads s .emergencyTrip fun t => (getDie t d).power.state = 2 ∧ bit (getPkg t (pkgOf d)).emerg 0 = true) ∧
      (s.ev.b = true → Leads s .emergencyTrip fun t => (getDie t d).power.state = w.state ∧ (getDie t d).power.trip = true ∧
        bit (getPkg t (pkgOf d)).emerg 1 = true))

/-- R377, R402 to R404, R408, R409, 00 R6: with no valid firmware the boot ROM stops with an error, else the firmware runs and is measured; an error in the Moot's SRAM halts
it; a Granary link that fails makes a machine check; the host reads and writes the HDM window; the mailbox answers discovery, each SPDM request, and a
request for what is not supported.
Rests on readings of the model: notes/assumptions/12.md, notes/assumptions/49.md, notes/assumptions/50.md, notes/assumptions/60.md. -/
def Obligations.BootHostAndMailbox : Prop :=
  ∀ (s : State), pkgOk s s.ev.n = true →
    let p := s.ev.n
    let x := evPkg s
    let off := s.ev.v.toNat
    let d := pkgDie p (off / 4096 % 8)
    let pa := 2 ^ 37 - x.hdm * 2 ^ 30 + off / 32768 * 4096 + off % 4096
    let code : Byte := s.ev.bytes.getD 1 0
    let doe := fun (t : State) (b : List Byte) => (pkgIn s t).doe = x.doe ++ [b]
    let spdm := fun (i : Instr) (c : Byte) (k : Nat) => code = c → Leads s i fun t => let tr := (if k = 0 then [] else x.spdm) ++ [s.ev.bytes]
      (pkgIn s t).spdm = tr ∧ doe t
        (if k = 0 then [0x10, 0x04, 0, 0, 0, 1, 0, 0x12]
         else if k = 1 then [0x12, 0x61, 0, 0, 0, Config.spdmTiming, 0, 0, 0x16, 0, 0, 0] ++ wordBytes8 Config.spdmSizes
         else Config.spdmAnswer k tr [x.romM, x.fwM, x.cfgM, x.imgM, x.chain])
    (x.ready = false → x.err = false →
      (fwPick x = none → Leads s .boot fun t => (pkgIn s t).err = true ∧ (pkgIn s t).ready = false) ∧
      ∀ c, fwPick x = some c → Leads s .boot fun t => (pkgIn s t).ready = true ∧ (pkgIn s t).fwM = Config.sha512 c.bytes ∧
        (pkgIn s t).romM = Config.sha512 (Config.romBytes p)) ∧
    (x.ready = true → Leads s .mootSramError fun t => (pkgIn s t).ready = false ∧ (pkgIn s t).err = true ∧ (pkgIn s t).msix = x.msix ++ [0]) ∧
    (s.ev.k < 4 → spGet false x.gfail s.ev.k = false → Leads s .granaryLinkFail fun t => spGet false (pkgIn s t).gfail s.ev.k = true ∧
      ∃ q ∈ (getDie t (pkgDie p 0)).moot, q.kind = 4 ∧ q.cause = 6) ∧
    (off + s.ev.k ≤ 8 * x.hdm * 2 ^ 30 → off % 4096 + s.ev.k ≤ 4096 →
      Leads s .hostHdmRead fun t => t.out = memRead (memOf s d).hbm pa s.ev.k) ∧
    (off + s.ev.bytes.length ≤ 8 * x.hdm * 2 ^ 30 → off % 4096 + s.ev.bytes.length ≤ 4096 →
      Leads s .hostHdmWrite fun t => memRead (memOf t d).hbm pa s.ev.bytes.length = s.ev.bytes) ∧
    (x.ready = true → spdm .getVersion 0x84 0 ∧ spdm .getCapabilities 0xE1 1 ∧ spdm .negotiateAlgorithms 0xE3 2 ∧ spdm .getDigests 0x81 3 ∧
      spdm .getCertificate 0x82 4 ∧ spdm .challenge 0x83 5 ∧ spdm .getMeasurements 0xE0 6) ∧
    (let n : Byte := s.ev.bytes.getD 0 0
     Leads s .doeDiscovery fun t => doe t (if n < 3 then [1, 0, n, if n = 2 then 0 else n + 1] else [0xFF, 0xFF, 0, 0])) ∧
    (s.ev.k = 0 → code ∉ [0x84, 0xE1, 0xE3, 0x81, 0x82, 0x83, 0xE0] → Leads s .unsupportedRequest fun t => doe t [0x12, 0x7F, 0x07, code]) ∧
    (s.ev.k ≠ 0 → Leads s .unsupportedRequest fun t => doe t (Config.unsupported s.ev.k s.ev.bytes))

/-! ### Words, steps, reset, memory (02; 14; 16) -/

namespace Sys2Proof.Claims

/-- The state in which a stream has its turn: with no agenda 10 units of 1/18 ns pass and the stream that moved last goes on, else the turn says both
(notes/assumptions/1.md). -/
def turnState (s : State) : State :=
  match s.agenda with
  | [] => advance s 10
  | t :: rest => { advance { s with agenda := rest } t.dt with cur := t.cur }

/-- A step is a stream's: no turn of the agenda brings an event. -/
def StreamsTurn (s : State) : Prop := ∀ t rest, s.agenda = t :: rest → t.ev = none

/-- Every memory is in its canonical form: the host's, each die's HBM, each core's scratchpad, each package's Granary. -/
def MemoriesCanonical (s : State) : Prop :=
  Memory.wf s.host = true ∧ (∀ d, Memory.wf (getDie s d).mem.hbm = true ∧ ∀ c, Memory.wf (dieCore (getDie s d) c).sp = true) ∧
    ∀ p, Memory.wf (getPkg s p).gran = true

end Sys2Proof.Claims

/-- R43, R58: the stream whose turn it is fetches the word at its program counter, and the step is what that word's instruction does; a program counter off
its 4-byte grid, a fetch that faults and a word that does not decode stop it with 0x03, 0x04 or 0x05, and 0x01; what its boundary brings in place of
an instruction (a report, a breakpoint, a stream that does not move) is the step; an event's turn is that event.
Rests on readings of the model: notes/assumptions/1.md, notes/assumptions/9.md. -/
def Obligations.StepRunsTheInstructionFetched : Prop :=
  ∀ (s s2 : State),
    let u := turnState s
    let w := u.cur.w
    let e := u.cur.e
    let pc := getPc (getCtx u w) e
    (StreamsTurn s → whoOk u w = true → ∀ t, boundary u = some t → step s = .next t) ∧
    (StreamsTurn s → whoOk u w = true → boundary u = none → ∀ i, begunInstr u = some i → step s = exec i u) ∧
    (StreamsTurn s → whoOk u w = true → boundary u = none → begunInstr u = none →
      (bits pc 0 2 ≠ 0 →
        let f := { u with ev := { w := w, e := e, n := 3, v := pc } }
        step s = .next (streamFault f w e 3 pc)) ∧
      (bits pc 0 2 = 0 →
        (∀ bs i r, fetchBytes u w pc (wordBytes e) = (s2, .ok bs) → decode e bs = .ok (i, r) → step s = exec i s2) ∧
        (∀ bs x, fetchBytes u w pc (wordBytes e) = (s2, .ok bs) → decode e bs = .error x →
          let v := w64 (leNat (bs.take 4))
          step s = .next (streamFault { s2 with ev := { w := w, e := e, v := v } } w e 0x01 v)) ∧
        ∀ c va, fetchBytes u w pc (wordBytes e) = (s2, .error (c, va)) →
          step s = .next (streamFault { s2 with ev := { w := w, e := e, n := c, v := va } } w e c va))) ∧
    ∀ t rest i, s.agenda = t :: rest → t.ev = some i → isEvent i = true →
      step s = exec i { advance { s with agenda := rest } t.dt with ev := t.arg }

/-- 02 R48 to R57: words written out in the spec's examples decode to the instructions they stand for; a word of all zeros or all ones is illegal (R58). -/
def Obligations.WordsOfTheSpecDecode : Prop :=
  decodeTableWord 32 0x022C4180 = some (.add (.g 3) (.peek 2) (.g 5)) ∧
  decodeTableWord 32 0x7410E33C = some (.ldAcq 6 7 2 2 .d .cl) ∧
  decodeTableWord 32 0x80304237 = some (.atomAdd (.g 4) 2 (.g 6) true) ∧
  decodeTableWord 32 0x8888C071 = some (.csrw (.g 0) (.g 6) 0x1111) ∧
  decodeTableWord 32 0x00801425 = some (.loop (.g 5) 2) ∧
  decodeTableWord 32 0x8230426A = some (.ratomAdd (.g 4) 2 (.g 6) true true) ∧
  decodeTableWord 32 0x2058256D = some (.bndq (.g 10) 1 (.g 11)) ∧
  decodeTableWord 96 0x0000000100000A00020A4404 = 
    some (.vfma { modf := 0, b := .vreg 2 0 0 0, a := .stream 1, d := .vreg 4 0 0 0, sat := false, rnd := .sr, fmt := .bf16, pred := 1 }) ∧
  decodeTableWord 192 0x00000400_00000000_10813001 = some (.mstep { mform0 with use := 2, steps := 2, bfmt := 8, bs := 1, afmt := 3 }) ∧
  ∀ n ∈ [32, 96, 192], decodeTableWord n 0 = none ∧ decodeTableWord n (2 ^ n - 1) = none

/-- 02 R43 to R58: the word of every well-formed instruction of the three engines decodes to it, all operands at every value they admit, and what follows the word
is left; the one word a stream may not hold is a Mill word marked for injection (07 R198). -/
def Obligations.EncodedInstructionsDecode : Prop :=
  ∀ (i : Instr) (e : Eng) (rest : List Byte), i.wf = true → engOf i = some e → millInj i = false → decode e (encode i ++ rest) = .ok (i, rest)

/-- 02 R43 to R58: whatever decodes is a well-formed instruction of that engine, not marked for injection, whose word is the bytes it was read from: each word has one
meaning. -/
def Obligations.DecodedWordsEncode : Prop :=
  ∀ (e : Eng) (bs rest : List Byte) (i : Instr), decode e bs = .ok (i, rest) →
    i.wf = true ∧ engOf i = some e ∧ millInj i = false ∧ encode i ++ rest = bs

/-- 16 R380, 14 R363, R366, R368 and the CSR table of 14, 12 R274: the registers that have a reset value hold it, no context has a job, no booking stands, and an index carries
generation 1 first. -/
def Sys2Proof.Claims.ResetValues : Prop :=
  let s := State.reset
  (∀ p, let x := getPkg s p
    x.fectl = 0 ∧ x.ready = false ∧ x.err = false ∧ x.admbase = 0 ∧ x.admlog2 = 0x0C ∧ x.emerg = 0) ∧
  (∀ d, let t := (getDie s d).trace
    t.trcctl = 0 ∧ t.wthr = 0 ∧ t.smpper = 0 ∧ ∀ k, spGet 0 t.rgdrop k = 0) ∧
  (∀ d, (getDie s d).alm.logging = false ∧ (getDie s d).alm.rply = false) ∧
  (∀ w, (getCore s w).dbgctl = 0 ∧ (getCtx s w).job = none) ∧
  ∀ d k, spGet 1 (getDie s d).reeve.gens k = 1

/-- The memories of the machine after reset are in their canonical form (notes/assumptions/3.md). -/
def Sys2Proof.Claims.ResetMemoriesCanonical : Prop := MemoriesCanonical State.reset

/-- The machine after reset.
Rests on readings of the model: notes/assumptions/3.md. -/
def Obligations.ResetState : Prop :=
  Claims.ResetValues ∧ Claims.ResetMemoriesCanonical

/-- Every step, whatever it brings, keeps every memory of the machine in its canonical form, so that equal memories are equal data.
Rests on readings of the model: notes/assumptions/1.md, notes/assumptions/3.md. -/
def Obligations.EveryStepKeepsMemoriesCanonical : Prop :=
  ∀ (s t : State), MemoriesCanonical s → step s = .next t → MemoriesCanonical t
end

