-- ==== Sys2Proof/Laws/Sparse.lean ====
section
/-!
SUPPORT. Laws of sparse maps and of memory: read after write, and the canonical form kept.
-/
namespace Sys2Proof.Machine
open Sys2Proof

/-! ### Reading after writing -/

theorem spGet_spDel_same {α : Type} (d : α) (l : List (Nat × α)) (k : Nat) : spGet d (spDel l k) k = d := by
  induction l with
  | nil => rfl
  | cons p t ih => obtain ⟨a, v⟩ := p; by_cases h : a = k <;> simp [spDel, spGet, h, ih]

theorem spGet_spDel_other {α : Type} (d : α) (l : List (Nat × α)) {k j : Nat} (h : j ≠ k) : spGet d (spDel l k) j = spGet d l j := by
  induction l with
  | nil => rfl
  | cons p t ih =>
    obtain ⟨a, v⟩ := p
    by_cases ha : a = k
    · subst ha; simp [spDel, spGet, ih, Ne.symm h]
    · simp only [spDel, ha, if_false, spGet, ih]

theorem spDel_spIns {α : Type} (l : List (Nat × α)) (k : Nat) (v : α) : spDel (spIns l k v) k = spDel l k := by
  induction l with
  | nil => simp [spIns, spDel]
  | cons p t ih =>
    obtain ⟨a, w⟩ := p
    by_cases h : k < a
    · simp [spIns, spDel, h]
    · by_cases ha : a = k <;> simp [spIns, spDel, h, ha, ih]

theorem spDel_spDel {α : Type} (l : List (Nat × α)) (k : Nat) : spDel (spDel l k) k = spDel l k := by
  induction l with
  | nil => rfl
  | cons p t ih => obtain ⟨a, w⟩ := p; by_cases ha : a = k <;> simp [spDel, ha, ih]

theorem spGet_spIns_same {α : Type} (d : α) (l : List (Nat × α)) (k : Nat) (v : α) : spGet d (spIns (spDel l k) k v) k = v := by
  induction l with
  | nil => simp [spDel, spIns, spGet]
  | cons p t ih =>
    obtain ⟨a, w⟩ := p
    by_cases ha : a = k
    · simpa [spDel, ha] using ih
    · by_cases h : k < a <;> simp [spDel, spIns, spGet, ha, h, ih]

theorem spGet_spIns_other {α : Type} (d : α) (l : List (Nat × α)) (v : α) {k j : Nat} (h : j ≠ k) :
    spGet d (spIns l k v) j = spGet d l j := by
  induction l with
  | nil => simp [spIns, spGet, Ne.symm h]
  | cons p t ih =>
    obtain ⟨a, w⟩ := p
    by_cases hk : k < a
    · simp [spIns, spGet, hk, Ne.symm h]
    · simp only [spIns, hk, if_false, spGet, ih]

@[simp] theorem spGet_spSet_same {α : Type} [DecidableEq α] (d : α) (l : List (Nat × α)) (k : Nat) (v : α) :
    spGet d (spSet d l k v) k = v := by
  by_cases h : v = d <;> simp [spSet, h, spGet_spDel_same, spGet_spIns_same]

theorem spGet_spSet_other {α : Type} [DecidableEq α] (d : α) (l : List (Nat × α)) (v : α) {k j : Nat} (h : j ≠ k) :
    spGet d (spSet d l k v) j = spGet d l j := by
  by_cases hv : v = d <;> simp [spSet, hv, spGet_spDel_other d l h, spGet_spIns_other d _ v h]

theorem spGet_spSet {α : Type} [DecidableEq α] (d : α) (l : List (Nat × α)) (k j : Nat) (v : α) :
    spGet d (spSet d l k v) j = if j = k then v else spGet d l j := by
  by_cases h : j = k
  · subst h; simp
  · simp [h, spGet_spSet_other d l v h]

/-- The last write to a key is the one that counts. -/
@[simp] theorem spSet_spSet {α : Type} [DecidableEq α] (d : α) (l : List (Nat × α)) (k : Nat) (v w : α) :
    spSet d (spSet d l k v) k w = spSet d l k w := by
  by_cases hv : v = d <;> by_cases hw : w = d <;> simp [spSet, hv, hw, spDel_spIns, spDel_spDel]

/-! ### The canonical form -/

/-- A lower bound below the first key. -/
theorem spWfFrom_weaken {α : Type} [DecidableEq α] (d : α) (l : List (Nat × α)) (b : Nat) (o : Option Nat)
    (ho : ∀ c, o = some c → c ≤ b) (h : spWfFrom d (some b) l = true) : spWfFrom d o l = true := by
  cases l with
  | nil => rfl
  | cons p t =>
    obtain ⟨k, v⟩ := p
    simp only [spWfFrom, Bool.and_eq_true, decide_eq_true_eq] at h ⊢
    refine ⟨⟨?_, h.1.2⟩, h.2⟩
    cases o with
    | none => rfl
    | some c => have := ho c rfl; simp; omega

theorem spWfFrom_spDel {α : Type} [DecidableEq α] (d : α) (l : List (Nat × α)) (k : Nat) :
    ∀ o, spWfFrom d o l = true → spWfFrom d o (spDel l k) = true := by
  induction l with
  | nil => intro o _; rfl
  | cons p t ih =>
    obtain ⟨a, v⟩ := p
    intro o h
    simp only [spWfFrom, Bool.and_eq_true] at h
    by_cases ha : a = k
    · simp only [spDel, ha, if_true]
      refine spWfFrom_weaken d _ a o ?_ (ih _ h.2)
      intro c hc; subst hc; have := h.1.1; simp at this; omega
    · simp only [spDel, ha, if_false, spWfFrom, Bool.and_eq_true]
      exact ⟨h.1, ih _ h.2⟩

theorem spWfFrom_spIns {α : Type} [DecidableEq α] (d : α) (l : List (Nat × α)) (k : Nat) (v : α) (hv : v ≠ d) :
    ∀ o, (∀ c, o = some c → c < k) → (∀ p ∈ l, p.1 ≠ k) → spWfFrom d o l = true → spWfFrom d o (spIns l k v) = true := by
  induction l with
  | nil =>
    intro o ho _ _
    simp only [spIns, spWfFrom, Bool.and_eq_true, decide_eq_true_eq]
    refine ⟨⟨?_, hv⟩, trivial⟩
    cases o with
    | none => rfl
    | some c => simpa using ho c rfl
  | cons p t ih =>
    obtain ⟨a, w⟩ := p
    intro o ho hn h
    have hak : a ≠ k := hn (a, w) (by simp)
    by_cases hk : k < a
    · simp only [spIns, hk, if_true, spWfFrom, Bool.and_eq_true, decide_eq_true_eq] at h ⊢
      refine ⟨⟨?_, hv⟩, ⟨trivial, h.1.2⟩, h.2⟩
      cases o with
      | none => rfl
      | some c => simpa using ho c rfl
    · simp only [spIns, hk, if_false, spWfFrom, Bool.and_eq_true] at h ⊢
      refine ⟨h.1, ih _ ?_ (fun q hq => hn q (by simp [hq])) h.2⟩
      intro c hc; cases hc; omega

theorem spDel_keys {α : Type} (l : List (Nat × α)) (k : Nat) : ∀ p ∈ spDel l k, p.1 ≠ k := by
  induction l with
  | nil => intro p hp; simp [spDel] at hp
  | cons q t ih =>
    obtain ⟨a, v⟩ := q
    intro p hp
    by_cases ha : a = k
    · exact ih p (by simpa [spDel, ha] using hp)
    · simp only [spDel, ha, if_false, List.mem_cons] at hp
      rcases hp with rfl | hp
      · exact ha
      · exact ih p hp

/-- Every write keeps the canonical form. -/
theorem spWf_spSet {α : Type} [DecidableEq α] (d : α) (l : List (Nat × α)) (k : Nat) (v : α) (h : spWf d l = true) :
    spWf d (spSet d l k v) = true := by
  by_cases hv : v = d
  · simpa [spWf, spSet, hv] using spWfFrom_spDel d l k none h
  · simpa [spWf, spSet, hv] using
      spWfFrom_spIns d (spDel l k) k v hv none (by simp) (spDel_keys l k) (spWfFrom_spDel d l k none h)

/-! ### Memory -/

@[simp] theorem memGet_memSet_same (m : List Host.Cell) (a : Nat) (b : Byte) : memGet (memSet m a b) a = b := spGet_spSet_same _ _ _ _

theorem memGet_memSet_other (m : List Host.Cell) (b : Byte) {a c : Nat} (h : c ≠ a) : memGet (memSet m a b) c = memGet m c :=
  spGet_spSet_other _ _ _ h

theorem memSet_wf (m : List Host.Cell) (a : Nat) (b : Byte) (h : Memory.wf m = true) : Memory.wf (memSet m a b) = true :=
  spWf_spSet _ _ _ _ h

theorem memWrite_wf (bs : List Byte) : ∀ (m : List Host.Cell) (a : Nat), Memory.wf m = true → Memory.wf (memWrite m a bs) = true := by
  induction bs with
  | nil => intro m a h; exact h
  | cons b t ih => intro m a h; exact ih _ _ (memSet_wf m a b h)

theorem memWrite_other (bs : List Byte) : ∀ (m : List Host.Cell) (a c : Nat), (c < a ∨ a + bs.length ≤ c) →
    memGet (memWrite m a bs) c = memGet m c := by
  induction bs with
  | nil => intro m a c _; rfl
  | cons b t ih =>
    intro m a c h
    have hl : (b :: t).length = t.length + 1 := rfl
    rw [hl] at h
    rw [memWrite, ih _ _ _ (by omega), memGet_memSet_other m b (by omega)]

theorem memWrite_at (bs : List Byte) : ∀ (m : List Host.Cell) (a k : Nat) (h : k < bs.length),
    memGet (memWrite m a bs) (a + k) = bs[k] := by
  induction bs with
  | nil => intro m a k h; exact absurd h (by simp)
  | cons b t ih =>
    intro m a k h
    cases k with
    | zero => rw [memWrite, memWrite_other t _ _ _ (by omega)]; simp
    | succ k =>
      have := ih (memSet m a b) (a + 1) k (by simpa using h)
      rw [memWrite, show a + (k + 1) = a + 1 + k by omega, this]; simp

/-- What is written is read back. -/
theorem memRead_memWrite (bs : List Byte) (m : List Host.Cell) (a : Nat) : memRead (memWrite m a bs) a bs.length = bs := by
  have key : ∀ (n k : Nat), n + k = bs.length → memRead (memWrite m a bs) (a + k) n = bs.drop k := by
    intro n
    induction n with
    | zero => intro k hk; simp [memRead, List.drop_eq_nil_of_le (by omega : bs.length ≤ k)]
    | succ n ih =>
      intro k hk
      have hlt : k < bs.length := by omega
      rw [memRead, memWrite_at bs m a k hlt, show a + k + 1 = a + (k + 1) by omega, ih (k + 1) (by omega)]
      exact (List.drop_eq_getElem_cons hlt).symm
  simpa using key bs.length 0 (by omega)

end Sys2Proof.Machine
end

