-- ==== Sys2Proof/Laws/State.lean ====
section
/-!
SUPPORT. What the updates of the state leave and what they set: dies, cores, contexts, packages, streams.
-/
namespace Sys2Proof.Machine
open Sys2Proof

/-! ### Dies -/

@[simp] theorem getDie_setDie (s : State) (d : Nat) (x : Die) : getDie (setDie s d x) d = x := spGet_spSet_same _ _ _ _

theorem getDie_setDie_other (s : State) (x : Die) {d e : Nat} (h : e ≠ d) : getDie (setDie s d x) e = getDie s e :=
  spGet_spSet_other _ _ _ h

@[simp] theorem setDie_setDie (s : State) (d : Nat) (x y : Die) : setDie (setDie s d x) d y = setDie s d y := by
  simp [setDie]

@[simp] theorem getDie_modDie (s : State) (d : Nat) (f : Die → Die) : getDie (modDie s d f) d = f (getDie s d) := getDie_setDie _ _ _

theorem getDie_modDie_other (s : State) (f : Die → Die) {d e : Nat} (h : e ≠ d) : getDie (modDie s d f) e = getDie s e :=
  getDie_setDie_other _ _ h

@[simp] theorem modDie_modDie (s : State) (d : Nat) (f g : Die → Die) : modDie (modDie s d f) d g = modDie s d (g ∘ f) := by
  unfold modDie; rw [getDie_setDie, setDie_setDie]; rfl

@[simp] theorem setDie_cur (s : State) (d : Nat) (x : Die) : (setDie s d x).cur = s.cur := rfl
@[simp] theorem setDie_agenda (s : State) (d : Nat) (x : Die) : (setDie s d x).agenda = s.agenda := rfl
@[simp] theorem setDie_ev (s : State) (d : Nat) (x : Die) : (setDie s d x).ev = s.ev := rfl
@[simp] theorem setDie_pkgs (s : State) (d : Nat) (x : Die) : (setDie s d x).pkgs = s.pkgs := rfl
@[simp] theorem setDie_geo (s : State) (d : Nat) (x : Die) : (setDie s d x).geo = s.geo := rfl
@[simp] theorem setDie_net (s : State) (d : Nat) (x : Die) : (setDie s d x).net = s.net := rfl
@[simp] theorem setDie_host (s : State) (d : Nat) (x : Die) : (setDie s d x).host = s.host := rfl
@[simp] theorem setDie_herr (s : State) (d : Nat) (x : Die) : (setDie s d x).herr = s.herr := rfl
@[simp] theorem setDie_free (s : State) (d : Nat) (x : Die) : (setDie s d x).free = s.free := rfl
@[simp] theorem modDie_cur (s : State) (d : Nat) (f : Die → Die) : (modDie s d f).cur = s.cur := rfl
@[simp] theorem modDie_ev (s : State) (d : Nat) (f : Die → Die) : (modDie s d f).ev = s.ev := rfl
@[simp] theorem modDie_pkgs (s : State) (d : Nat) (f : Die → Die) : (modDie s d f).pkgs = s.pkgs := rfl
@[simp] theorem modDie_geo (s : State) (d : Nat) (f : Die → Die) : (modDie s d f).geo = s.geo := rfl
@[simp] theorem modDie_net (s : State) (d : Nat) (f : Die → Die) : (modDie s d f).net = s.net := rfl
@[simp] theorem modDie_host (s : State) (d : Nat) (f : Die → Die) : (modDie s d f).host = s.host := rfl

@[simp] theorem setDie_out (s : State) (d : Nat) (x : Die) : (setDie s d x).out = s.out := rfl
@[simp] theorem setDie_outPois (s : State) (d : Nat) (x : Die) : (setDie s d x).outPois = s.outPois := rfl
@[simp] theorem modDie_agenda (s : State) (d : Nat) (f : Die → Die) : (modDie s d f).agenda = s.agenda := rfl
@[simp] theorem modDie_herr (s : State) (d : Nat) (f : Die → Die) : (modDie s d f).herr = s.herr := rfl
@[simp] theorem modDie_out (s : State) (d : Nat) (f : Die → Die) : (modDie s d f).out = s.out := rfl
@[simp] theorem modDie_outPois (s : State) (d : Nat) (f : Die → Die) : (modDie s d f).outPois = s.outPois := rfl
@[simp] theorem modDie_free (s : State) (d : Nat) (f : Die → Die) : (modDie s d f).free = s.free := rfl

/-! ### Cores and contexts -/

@[simp] theorem dieCore_dieSetCore (x : Die) (c : Nat) (y : Core) : dieCore (dieSetCore x c y) c = y := spGet_spSet_same _ _ _ _

theorem dieCore_dieSetCore_other (x : Die) (y : Core) {c k : Nat} (h : k ≠ c) : dieCore (dieSetCore x c y) k = dieCore x k :=
  spGet_spSet_other _ _ _ h

@[simp] theorem dieSetCore_twice (x : Die) (c : Nat) (y z : Core) : dieSetCore (dieSetCore x c y) c z = dieSetCore x c z := by
  simp [dieSetCore]

@[simp] theorem dieSetCore_mem (x : Die) (c : Nat) (y : Core) : (dieSetCore x c y).mem = x.mem := rfl
@[simp] theorem dieSetCore_tlb (x : Die) (c : Nat) (y : Core) : (dieSetCore x c y).tlb = x.tlb := rfl
@[simp] theorem dieSetCore_acc (x : Die) (c : Nat) (y : Core) : (dieSetCore x c y).acc = x.acc := rfl
@[simp] theorem dieSetCore_nextId (x : Die) (c : Nat) (y : Core) : (dieSetCore x c y).nextId = x.nextId := rfl
@[simp] theorem dieSetCore_time (x : Die) (c : Nat) (y : Core) : (dieSetCore x c y).time = x.time := rfl
@[simp] theorem dieSetCore_trace (x : Die) (c : Nat) (y : Core) : (dieSetCore x c y).trace = x.trace := rfl
@[simp] theorem dieSetCore_alm (x : Die) (c : Nat) (y : Core) : (dieSetCore x c y).alm = x.alm := rfl
@[simp] theorem dieSetCore_reeve (x : Die) (c : Nat) (y : Core) : (dieSetCore x c y).reeve = x.reeve := rfl
@[simp] theorem dieSetCore_fab (x : Die) (c : Nat) (y : Core) : (dieSetCore x c y).fab = x.fab := rfl
@[simp] theorem dieSetCore_power (x : Die) (c : Nat) (y : Core) : (dieSetCore x c y).power = x.power := rfl

@[simp] theorem dieSetCore_moot (x : Die) (c : Nat) (y : Core) : (dieSetCore x c y).moot = x.moot := rfl
@[simp] theorem dieSetCore_saved (x : Die) (c : Nat) (y : Core) : (dieSetCore x c y).saved = x.saved := rfl
@[simp] theorem dieSetCore_stopAt (x : Die) (c : Nat) (y : Core) : (dieSetCore x c y).stopAt = x.stopAt := rfl
@[simp] theorem dieSetCore_stopped (x : Die) (c : Nat) (y : Core) : (dieSetCore x c y).stopped = x.stopped := rfl
@[simp] theorem setCore_agenda (s : State) (w : Who) (y : Core) : (setCore s w y).agenda = s.agenda := rfl
@[simp] theorem setCore_pkgs (s : State) (w : Who) (y : Core) : (setCore s w y).pkgs = s.pkgs := rfl
@[simp] theorem setCore_geo (s : State) (w : Who) (y : Core) : (setCore s w y).geo = s.geo := rfl
@[simp] theorem setCore_net (s : State) (w : Who) (y : Core) : (setCore s w y).net = s.net := rfl
@[simp] theorem setCore_host (s : State) (w : Who) (y : Core) : (setCore s w y).host = s.host := rfl
@[simp] theorem setCore_herr (s : State) (w : Who) (y : Core) : (setCore s w y).herr = s.herr := rfl
@[simp] theorem setCore_out (s : State) (w : Who) (y : Core) : (setCore s w y).out = s.out := rfl
@[simp] theorem setCore_outPois (s : State) (w : Who) (y : Core) : (setCore s w y).outPois = s.outPois := rfl
@[simp] theorem setCore_free (s : State) (w : Who) (y : Core) : (setCore s w y).free = s.free := rfl

@[simp] theorem getCore_setCore (s : State) (w : Who) (y : Core) : getCore (setCore s w y) w = y := by
  simp [getCore, setCore]

@[simp] theorem setCore_cur (s : State) (w : Who) (y : Core) : (setCore s w y).cur = s.cur := rfl
@[simp] theorem setCore_ev (s : State) (w : Who) (y : Core) : (setCore s w y).ev = s.ev := rfl

@[simp] theorem coreCtx_coreSetCtx (y : Core) (i : Nat) (c : Ctx) : coreCtx (coreSetCtx y i c) i = c := by
  by_cases h : i = 0 <;> simp [coreCtx, coreSetCtx, h]

@[simp] theorem coreSetCtx_twice (y : Core) (i : Nat) (c e : Ctx) : coreSetCtx (coreSetCtx y i c) i e = coreSetCtx y i e := by
  by_cases h : i = 0 <;> simp [coreSetCtx, h]

@[simp] theorem coreSetCtx_sp (y : Core) (i : Nat) (c : Ctx) : (coreSetCtx y i c).sp = y.sp := by
  by_cases h : i = 0 <;> simp [coreSetCtx, h]
@[simp] theorem coreSetCtx_tags (y : Core) (i : Nat) (c : Ctx) : (coreSetCtx y i c).tags = y.tags := by
  by_cases h : i = 0 <;> simp [coreSetCtx, h]
@[simp] theorem coreSetCtx_dbgctl (y : Core) (i : Nat) (c : Ctx) : (coreSetCtx y i c).dbgctl = y.dbgctl := by
  by_cases h : i = 0 <;> simp [coreSetCtx, h]
@[simp] theorem coreSetCtx_setBy (y : Core) (i : Nat) (c : Ctx) : (coreSetCtx y i c).setBy = y.setBy := by
  by_cases h : i = 0 <;> simp [coreSetCtx, h]

@[simp] theorem coreSetCtx_wr (y : Core) (i : Nat) (c : Ctx) : (coreSetCtx y i c).wr = y.wr := by
  by_cases h : i = 0 <;> simp [coreSetCtx, h]
@[simp] theorem coreSetCtx_spErr (y : Core) (i : Nat) (c : Ctx) : (coreSetCtx y i c).spErr = y.spErr := by
  by_cases h : i = 0 <;> simp [coreSetCtx, h]
@[simp] theorem coreSetCtx_tagErr (y : Core) (i : Nat) (c : Ctx) : (coreSetCtx y i c).tagErr = y.tagErr := by
  by_cases h : i = 0 <;> simp [coreSetCtx, h]
@[simp] theorem coreSetCtx_clean (y : Core) (i : Nat) (c : Ctx) : (coreSetCtx y i c).clean = y.clean := by
  by_cases h : i = 0 <;> simp [coreSetCtx, h]
@[simp] theorem coreSetCtx_landq (y : Core) (i : Nat) (c : Ctx) : (coreSetCtx y i c).landq = y.landq := by
  by_cases h : i = 0 <;> simp [coreSetCtx, h]
@[simp] theorem coreSetCtx_tagT (y : Core) (i : Nat) (c : Ctx) : (coreSetCtx y i c).tagT = y.tagT := by
  by_cases h : i = 0 <;> simp [coreSetCtx, h]
@[simp] theorem coreSetCtx_tagO (y : Core) (i : Nat) (c : Ctx) : (coreSetCtx y i c).tagO = y.tagO := by
  by_cases h : i = 0 <;> simp [coreSetCtx, h]
@[simp] theorem coreSetCtx_utlb (y : Core) (i : Nat) (c : Ctx) : (coreSetCtx y i c).utlb = y.utlb := by
  by_cases h : i = 0 <;> simp [coreSetCtx, h]
@[simp] theorem coreSetCtx_ctlb (y : Core) (i : Nat) (c : Ctx) : (coreSetCtx y i c).ctlb = y.ctlb := by
  by_cases h : i = 0 <;> simp [coreSetCtx, h]

@[simp] theorem getCtx_setCtx (s : State) (w : Who) (c : Ctx) : getCtx (setCtx s w c) w = c := by
  simp [getCtx, setCtx, modCore]

@[simp] theorem setCtx_setCtx (s : State) (w : Who) (c e : Ctx) : setCtx (setCtx s w c) w e = setCtx s w e := by
  simp [setCtx, modCore, setCore, getCore, modDie, setDie, getDie]

@[simp] theorem getCtx_modCtx (s : State) (w : Who) (f : Ctx → Ctx) : getCtx (modCtx s w f) w = f (getCtx s w) := getCtx_setCtx _ _ _

@[simp] theorem setCtx_cur (s : State) (w : Who) (c : Ctx) : (setCtx s w c).cur = s.cur := rfl
@[simp] theorem setCtx_ev (s : State) (w : Who) (c : Ctx) : (setCtx s w c).ev = s.ev := rfl
@[simp] theorem setCtx_pkgs (s : State) (w : Who) (c : Ctx) : (setCtx s w c).pkgs = s.pkgs := rfl
@[simp] theorem setCtx_geo (s : State) (w : Who) (c : Ctx) : (setCtx s w c).geo = s.geo := rfl
@[simp] theorem setCtx_net (s : State) (w : Who) (c : Ctx) : (setCtx s w c).net = s.net := rfl
@[simp] theorem setCtx_host (s : State) (w : Who) (c : Ctx) : (setCtx s w c).host = s.host := rfl
@[simp] theorem modCtx_cur (s : State) (w : Who) (f : Ctx → Ctx) : (modCtx s w f).cur = s.cur := rfl
@[simp] theorem modCtx_ev (s : State) (w : Who) (f : Ctx → Ctx) : (modCtx s w f).ev = s.ev := rfl

@[simp] theorem setCtx_agenda (s : State) (w : Who) (c : Ctx) : (setCtx s w c).agenda = s.agenda := rfl
@[simp] theorem setCtx_herr (s : State) (w : Who) (c : Ctx) : (setCtx s w c).herr = s.herr := rfl
@[simp] theorem setCtx_out (s : State) (w : Who) (c : Ctx) : (setCtx s w c).out = s.out := rfl
@[simp] theorem setCtx_outPois (s : State) (w : Who) (c : Ctx) : (setCtx s w c).outPois = s.outPois := rfl
@[simp] theorem setCtx_free (s : State) (w : Who) (c : Ctx) : (setCtx s w c).free = s.free := rfl
@[simp] theorem modCtx_agenda (s : State) (w : Who) (f : Ctx → Ctx) : (modCtx s w f).agenda = s.agenda := rfl
@[simp] theorem modCtx_pkgs (s : State) (w : Who) (f : Ctx → Ctx) : (modCtx s w f).pkgs = s.pkgs := rfl
@[simp] theorem modCtx_geo (s : State) (w : Who) (f : Ctx → Ctx) : (modCtx s w f).geo = s.geo := rfl
@[simp] theorem modCtx_net (s : State) (w : Who) (f : Ctx → Ctx) : (modCtx s w f).net = s.net := rfl
@[simp] theorem modCtx_host (s : State) (w : Who) (f : Ctx → Ctx) : (modCtx s w f).host = s.host := rfl
@[simp] theorem modCtx_herr (s : State) (w : Who) (f : Ctx → Ctx) : (modCtx s w f).herr = s.herr := rfl
@[simp] theorem modCtx_out (s : State) (w : Who) (f : Ctx → Ctx) : (modCtx s w f).out = s.out := rfl
@[simp] theorem modCtx_outPois (s : State) (w : Who) (f : Ctx → Ctx) : (modCtx s w f).outPois = s.outPois := rfl
@[simp] theorem modCtx_free (s : State) (w : Who) (f : Ctx → Ctx) : (modCtx s w f).free = s.free := rfl

/-- What a context write changes of its die. -/
theorem getDie_setCtx (s : State) (w : Who) (c : Ctx) :
    getDie (setCtx s w c) w.die = dieSetCore (getDie s w.die) w.core (coreSetCtx (getCore s w) w.ctx c) := by
  simp [setCtx, modCore, setCore]

theorem getDie_setCtx_other (s : State) (w : Who) (c : Ctx) {d : Nat} (h : d ≠ w.die) : getDie (setCtx s w c) d = getDie s d :=
  getDie_modDie_other _ _ h

/-- A context write leaves every other context. -/
theorem getCtx_setCtx_other (s : State) (w v : Who) (c : Ctx)
    (h : v.die ≠ w.die ∨ v.core ≠ w.core ∨ (v.ctx = 0) ≠ (w.ctx = 0)) : getCtx (setCtx s w c) v = getCtx s v := by
  by_cases hd : v.die = w.die
  · have hg : getDie (setCtx s w c) v.die = dieSetCore (getDie s v.die) w.core (coreSetCtx (getCore s w) w.ctx c) := by
      rw [hd]; exact getDie_setCtx s w c
    by_cases hc : v.core = w.core
    · have hx : (v.ctx = 0) ≠ (w.ctx = 0) := by
        rcases h with h | h | h
        · exact absurd hd h
        · exact absurd hc h
        · exact h
      have hy : getCore s w = getCore s v := by simp only [getCore, hd, hc]
      unfold getCtx
      rw [show getCore (setCtx s w c) v = coreSetCtx (getCore s w) w.ctx c by unfold getCore; rw [hg, hc, dieCore_dieSetCore]; rfl, hy]
      by_cases hv : v.ctx = 0 <;> by_cases hw : w.ctx = 0 <;> simp_all [coreCtx, coreSetCtx]
    · unfold getCtx getCore
      rw [hg, dieCore_dieSetCore_other _ _ hc]
  · unfold getCtx getCore
    rw [getDie_setCtx_other s w c hd]

@[simp] theorem me_setDie (s : State) (d : Nat) (x : Die) : me (setDie s d x) = me s := rfl
@[simp] theorem me_modDie (s : State) (d : Nat) (f : Die → Die) : me (modDie s d f) = me s := rfl
@[simp] theorem me_setCtx (s : State) (w : Who) (c : Ctx) : me (setCtx s w c) = me s := rfl
@[simp] theorem me_modCtx (s : State) (w : Who) (f : Ctx → Ctx) : me (modCtx s w f) = me s := rfl

/-! ### Packages -/

@[simp] theorem getPkg_setPkg (s : State) (p : Nat) (x : Pkg) : getPkg (setPkg s p x) p = x := spGet_spSet_same _ _ _ _

theorem getPkg_setPkg_other (s : State) (x : Pkg) {p q : Nat} (h : q ≠ p) : getPkg (setPkg s p x) q = getPkg s q :=
  spGet_spSet_other _ _ _ h

@[simp] theorem getPkg_modPkg (s : State) (p : Nat) (f : Pkg → Pkg) : getPkg (modPkg s p f) p = f (getPkg s p) := getPkg_setPkg _ _ _
@[simp] theorem setPkg_dies (s : State) (p : Nat) (x : Pkg) : (setPkg s p x).dies = s.dies := rfl
@[simp] theorem modPkg_dies (s : State) (p : Nat) (f : Pkg → Pkg) : (modPkg s p f).dies = s.dies := rfl
@[simp] theorem getDie_setPkg (s : State) (p d : Nat) (x : Pkg) : getDie (setPkg s p x) d = getDie s d := rfl
@[simp] theorem getDie_modPkg (s : State) (p d : Nat) (f : Pkg → Pkg) : getDie (modPkg s p f) d = getDie s d := rfl
@[simp] theorem getPkg_setDie (s : State) (d p : Nat) (x : Die) : getPkg (setDie s d x) p = getPkg s p := rfl
@[simp] theorem getPkg_modDie (s : State) (d p : Nat) (f : Die → Die) : getPkg (modDie s d f) p = getPkg s p := rfl
@[simp] theorem getPkg_setCtx (s : State) (w : Who) (p : Nat) (c : Ctx) : getPkg (setCtx s w c) p = getPkg s p := rfl

@[simp] theorem setPkg_agenda (s : State) (p : Nat) (x : Pkg) : (setPkg s p x).agenda = s.agenda := rfl
@[simp] theorem setPkg_cur (s : State) (p : Nat) (x : Pkg) : (setPkg s p x).cur = s.cur := rfl
@[simp] theorem setPkg_ev (s : State) (p : Nat) (x : Pkg) : (setPkg s p x).ev = s.ev := rfl
@[simp] theorem setPkg_geo (s : State) (p : Nat) (x : Pkg) : (setPkg s p x).geo = s.geo := rfl
@[simp] theorem setPkg_net (s : State) (p : Nat) (x : Pkg) : (setPkg s p x).net = s.net := rfl
@[simp] theorem setPkg_host (s : State) (p : Nat) (x : Pkg) : (setPkg s p x).host = s.host := rfl
@[simp] theorem setPkg_herr (s : State) (p : Nat) (x : Pkg) : (setPkg s p x).herr = s.herr := rfl
@[simp] theorem setPkg_out (s : State) (p : Nat) (x : Pkg) : (setPkg s p x).out = s.out := rfl
@[simp] theorem setPkg_outPois (s : State) (p : Nat) (x : Pkg) : (setPkg s p x).outPois = s.outPois := rfl
@[simp] theorem setPkg_free (s : State) (p : Nat) (x : Pkg) : (setPkg s p x).free = s.free := rfl
@[simp] theorem modPkg_agenda (s : State) (p : Nat) (f : Pkg → Pkg) : (modPkg s p f).agenda = s.agenda := rfl
@[simp] theorem modPkg_cur (s : State) (p : Nat) (f : Pkg → Pkg) : (modPkg s p f).cur = s.cur := rfl
@[simp] theorem modPkg_ev (s : State) (p : Nat) (f : Pkg → Pkg) : (modPkg s p f).ev = s.ev := rfl
@[simp] theorem modPkg_geo (s : State) (p : Nat) (f : Pkg → Pkg) : (modPkg s p f).geo = s.geo := rfl
@[simp] theorem modPkg_net (s : State) (p : Nat) (f : Pkg → Pkg) : (modPkg s p f).net = s.net := rfl
@[simp] theorem modPkg_host (s : State) (p : Nat) (f : Pkg → Pkg) : (modPkg s p f).host = s.host := rfl
@[simp] theorem modPkg_herr (s : State) (p : Nat) (f : Pkg → Pkg) : (modPkg s p f).herr = s.herr := rfl
@[simp] theorem modPkg_out (s : State) (p : Nat) (f : Pkg → Pkg) : (modPkg s p f).out = s.out := rfl
@[simp] theorem modPkg_outPois (s : State) (p : Nat) (f : Pkg → Pkg) : (modPkg s p f).outPois = s.outPois := rfl
@[simp] theorem modPkg_free (s : State) (p : Nat) (f : Pkg → Pkg) : (modPkg s p f).free = s.free := rfl

/-! ### Streams of a context -/

@[simp] theorem getStat_setStat (c : Ctx) (e : Eng) (t : Stat) : getStat (setStat c e t) e = t := by cases e <;> rfl
@[simp] theorem getPc_setPc (c : Ctx) (e : Eng) (p : Word) : getPc (setPc c e p) e = p := by cases e <;> rfl
@[simp] theorem getLoops_setLoops (c : Ctx) (e : Eng) (l : List LoopLevel) : getLoops (setLoops c e l) e = l := by cases e <;> rfl
@[simp] theorem getPc_setStat (c : Ctx) (e f : Eng) (t : Stat) : getPc (setStat c e t) f = getPc c f := by cases e <;> cases f <;> rfl
@[simp] theorem getStat_setPc (c : Ctx) (e f : Eng) (p : Word) : getStat (setPc c e p) f = getStat c f := by cases e <;> cases f <;> rfl

@[simp] theorem setStat_job (c : Ctx) (e : Eng) (t : Stat) : (setStat c e t).job = c.job := by cases e <;> rfl
@[simp] theorem setStat_csr (c : Ctx) (e : Eng) (t : Stat) : (setStat c e t).csr = c.csr := by cases e <;> rfl
@[simp] theorem setStat_dbg (c : Ctx) (e : Eng) (t : Stat) : (setStat c e t).dbg = c.dbg := by cases e <;> rfl
@[simp] theorem setStat_desc (c : Ctx) (e : Eng) (t : Stat) : (setStat c e t).desc = c.desc := by cases e <;> rfl
@[simp] theorem setStat_chans (c : Ctx) (e : Eng) (t : Stat) : (setStat c e t).chans = c.chans := by cases e <;> rfl
@[simp] theorem setStat_spill (c : Ctx) (e : Eng) (t : Stat) : (setStat c e t).spill = c.spill := by cases e <;> rfl
@[simp] theorem setStat_spillErr (c : Ctx) (e : Eng) (t : Stat) : (setStat c e t).spillErr = c.spillErr := by cases e <;> rfl
@[simp] theorem setStat_c0 (c : Ctx) (e : Eng) (t : Stat) : (setStat c e t).c0 = c.c0 := by cases e <;> rfl
@[simp] theorem setStat_c1 (c : Ctx) (e : Eng) (t : Stat) : (setStat c e t).c1 = c.c1 := by cases e <;> rfl
@[simp] theorem setStat_ways (c : Ctx) (e : Eng) (t : Stat) : (setStat c e t).ways = c.ways := by cases e <;> rfl
@[simp] theorem setStat_permits (c : Ctx) (e : Eng) (t : Stat) : (setStat c e t).permits = c.permits := by cases e <;> rfl
@[simp] theorem setStat_reports (c : Ctx) (e : Eng) (t : Stat) : (setStat c e t).reports = c.reports := by cases e <;> rfl
@[simp] theorem setStat_bds (c : Ctx) (e : Eng) (t : Stat) : (setStat c e t).bds = c.bds := by cases e <;> rfl
@[simp] theorem setStat_bndr (c : Ctx) (e : Eng) (t : Stat) : (setStat c e t).bndr = c.bndr := by cases e <;> rfl
@[simp] theorem setStat_errs (c : Ctx) (e : Eng) (t : Stat) : (setStat c e t).errs = c.errs := by cases e <;> rfl
@[simp] theorem setStat_halted (c : Ctx) (e : Eng) (t : Stat) : (setStat c e t).halted = c.halted := by cases e <;> rfl
@[simp] theorem setStat_saving (c : Ctx) (e : Eng) (t : Stat) : (setStat c e t).saving = c.saving := by cases e <;> rfl
@[simp] theorem setStat_restoring (c : Ctx) (e : Eng) (t : Stat) : (setStat c e t).restoring = c.restoring := by cases e <;> rfl
@[simp] theorem setStat_issued (c : Ctx) (e : Eng) (t : Stat) : (setStat c e t).issued = c.issued := by cases e <;> rfl
@[simp] theorem setStat_stop (c : Ctx) (e : Eng) (t : Stat) : (setStat c e t).stop = c.stop := by cases e <;> rfl
@[simp] theorem setPc_job (c : Ctx) (e : Eng) (p : Word) : (setPc c e p).job = c.job := by cases e <;> rfl
@[simp] theorem setPc_csr (c : Ctx) (e : Eng) (p : Word) : (setPc c e p).csr = c.csr := by cases e <;> rfl
@[simp] theorem setPc_dbg (c : Ctx) (e : Eng) (p : Word) : (setPc c e p).dbg = c.dbg := by cases e <;> rfl
@[simp] theorem setPc_desc (c : Ctx) (e : Eng) (p : Word) : (setPc c e p).desc = c.desc := by cases e <;> rfl
@[simp] theorem setPc_chans (c : Ctx) (e : Eng) (p : Word) : (setPc c e p).chans = c.chans := by cases e <;> rfl
@[simp] theorem setPc_spill (c : Ctx) (e : Eng) (p : Word) : (setPc c e p).spill = c.spill := by cases e <;> rfl
@[simp] theorem setPc_spillErr (c : Ctx) (e : Eng) (p : Word) : (setPc c e p).spillErr = c.spillErr := by cases e <;> rfl
@[simp] theorem setPc_c0 (c : Ctx) (e : Eng) (p : Word) : (setPc c e p).c0 = c.c0 := by cases e <;> rfl
@[simp] theorem setPc_c1 (c : Ctx) (e : Eng) (p : Word) : (setPc c e p).c1 = c.c1 := by cases e <;> rfl
@[simp] theorem setPc_ways (c : Ctx) (e : Eng) (p : Word) : (setPc c e p).ways = c.ways := by cases e <;> rfl
@[simp] theorem setPc_permits (c : Ctx) (e : Eng) (p : Word) : (setPc c e p).permits = c.permits := by cases e <;> rfl
@[simp] theorem setPc_reports (c : Ctx) (e : Eng) (p : Word) : (setPc c e p).reports = c.reports := by cases e <;> rfl
@[simp] theorem setPc_bds (c : Ctx) (e : Eng) (p : Word) : (setPc c e p).bds = c.bds := by cases e <;> rfl
@[simp] theorem setPc_bndr (c : Ctx) (e : Eng) (p : Word) : (setPc c e p).bndr = c.bndr := by cases e <;> rfl
@[simp] theorem setPc_errs (c : Ctx) (e : Eng) (p : Word) : (setPc c e p).errs = c.errs := by cases e <;> rfl
@[simp] theorem setPc_halted (c : Ctx) (e : Eng) (p : Word) : (setPc c e p).halted = c.halted := by cases e <;> rfl
@[simp] theorem setPc_saving (c : Ctx) (e : Eng) (p : Word) : (setPc c e p).saving = c.saving := by cases e <;> rfl
@[simp] theorem setPc_restoring (c : Ctx) (e : Eng) (p : Word) : (setPc c e p).restoring = c.restoring := by cases e <;> rfl
@[simp] theorem setPc_issued (c : Ctx) (e : Eng) (p : Word) : (setPc c e p).issued = c.issued := by cases e <;> rfl
@[simp] theorem setPc_stop (c : Ctx) (e : Eng) (p : Word) : (setPc c e p).stop = c.stop := by cases e <;> rfl
@[simp] theorem setLoops_job (c : Ctx) (e : Eng) (l : List LoopLevel) : (setLoops c e l).job = c.job := by cases e <;> rfl
@[simp] theorem setLoops_csr (c : Ctx) (e : Eng) (l : List LoopLevel) : (setLoops c e l).csr = c.csr := by cases e <;> rfl
@[simp] theorem setLoops_dbg (c : Ctx) (e : Eng) (l : List LoopLevel) : (setLoops c e l).dbg = c.dbg := by cases e <;> rfl
@[simp] theorem setLoops_desc (c : Ctx) (e : Eng) (l : List LoopLevel) : (setLoops c e l).desc = c.desc := by cases e <;> rfl
@[simp] theorem setLoops_chans (c : Ctx) (e : Eng) (l : List LoopLevel) : (setLoops c e l).chans = c.chans := by cases e <;> rfl
@[simp] theorem setLoops_spill (c : Ctx) (e : Eng) (l : List LoopLevel) : (setLoops c e l).spill = c.spill := by cases e <;> rfl
@[simp] theorem setLoops_spillErr (c : Ctx) (e : Eng) (l : List LoopLevel) : (setLoops c e l).spillErr = c.spillErr := by cases e <;> rfl
@[simp] theorem setLoops_c0 (c : Ctx) (e : Eng) (l : List LoopLevel) : (setLoops c e l).c0 = c.c0 := by cases e <;> rfl
@[simp] theorem setLoops_c1 (c : Ctx) (e : Eng) (l : List LoopLevel) : (setLoops c e l).c1 = c.c1 := by cases e <;> rfl
@[simp] theorem setLoops_ways (c : Ctx) (e : Eng) (l : List LoopLevel) : (setLoops c e l).ways = c.ways := by cases e <;> rfl
@[simp] theorem setLoops_permits (c : Ctx) (e : Eng) (l : List LoopLevel) : (setLoops c e l).permits = c.permits := by cases e <;> rfl
@[simp] theorem setLoops_reports (c : Ctx) (e : Eng) (l : List LoopLevel) : (setLoops c e l).reports = c.reports := by cases e <;> rfl
@[simp] theorem setLoops_bds (c : Ctx) (e : Eng) (l : List LoopLevel) : (setLoops c e l).bds = c.bds := by cases e <;> rfl
@[simp] theorem setLoops_bndr (c : Ctx) (e : Eng) (l : List LoopLevel) : (setLoops c e l).bndr = c.bndr := by cases e <;> rfl
@[simp] theorem setLoops_errs (c : Ctx) (e : Eng) (l : List LoopLevel) : (setLoops c e l).errs = c.errs := by cases e <;> rfl
@[simp] theorem setLoops_halted (c : Ctx) (e : Eng) (l : List LoopLevel) : (setLoops c e l).halted = c.halted := by cases e <;> rfl
@[simp] theorem setLoops_saving (c : Ctx) (e : Eng) (l : List LoopLevel) : (setLoops c e l).saving = c.saving := by cases e <;> rfl
@[simp] theorem setLoops_restoring (c : Ctx) (e : Eng) (l : List LoopLevel) : (setLoops c e l).restoring = c.restoring := by cases e <;> rfl
@[simp] theorem setLoops_issued (c : Ctx) (e : Eng) (l : List LoopLevel) : (setLoops c e l).issued = c.issued := by cases e <;> rfl
@[simp] theorem setLoops_stop (c : Ctx) (e : Eng) (l : List LoopLevel) : (setLoops c e l).stop = c.stop := by cases e <;> rfl

/-! ### g registers -/

@[simp] theorem readG_zero (c : Ctx) : readG c 0 = 0 := rfl

/-- Which register a g field denotes does not depend on the registers' values. -/
@[simp] theorem gKey_writeGKey (c : Ctx) (k : Nat) (sh : Bool) (v : Word) (r : GReg) : gKey (writeGKey c k sh v) r = gKey c r := by
  unfold writeGKey gKey
  split <;> (try split) <;> rfl

theorem readG_writeG_same (c : Ctx) (r : GReg) (v : Word) (h : r.val ≠ 0) : readG (writeG c r v) r = v := by
  unfold readG writeG
  rw [if_neg h, gKey_writeGKey]
  by_cases hs : 24 ≤ r.val ∧ c.acc.uli = true ∧ c.acc.sys = false
  · have hk : gKey c r = (r.val - 24, true) := by simp [gKey, hs]
    simp [hk, writeGKey]
  · have hk : gKey c r = (r.val, false) := by simp only [gKey, hs, if_false]
    simp [hk, writeGKey, h]

end Sys2Proof.Machine
end

