-- ==== Sys2Proof/Laws/Operands.lean ====
section
/-!
SUPPORT. What taking the operands of an access-core instruction can do: with the operands at hand it goes on with their values.
-/
namespace Sys2Proof.Machine
open Sys2Proof Sys2Proof.Claims

/-- With no Almanac at work an order point leaves the die as it is. -/
theorem orderPoint_quiet (s : State) (w : Who) (eng kind obj choice : Nat) (h : quietDie (getDie s w.die) = true) :
    orderPoint s w eng kind obj choice = setDie s w.die (getDie s w.die) := by
  simp only [quietDie, Bool.and_eq_true, Bool.not_eq_true'] at h
  simp [orderPoint, modDie, h.1.1, h.1.2]

@[simp] theorem me_orderPoint (s : State) (w : Who) (eng kind obj choice : Nat) : me (orderPoint s w eng kind obj choice) = me s := rfl

@[simp] theorem me_chDrop (s : State) (w : Who) (e n : Nat) : me (chDrop s w e n) = me s := by
  simp only [chDrop]; split <;> rfl

@[simp] theorem me_taken (s : State) (a : Src) : me (taken s a) = me s := by cases a <;> simp [taken]

@[simp] theorem me_takenAll (s : State) (l : List Src) : me (takenAll s l) = me s := by
  induction l generalizing s with
  | nil => rfl
  | cons a t ih => simp only [takenAll, List.foldl_cons] at *; rw [ih, me_taken]

/-- A write of a die's own value changes no reading of the state. -/
theorem getDie_setDie_self (s : State) (d : Nat) : getDie (setDie s d (getDie s d)) d = getDie s d := by simp

/-- What a pop leaves: the context without the head entry, every other part of the die as it was. -/
theorem chDrop_quiet (s : State) (n : Nat) (h : Quiet s) :
    getDie (chDrop s (me s) 0 n) (me s).die =
      getDie (setCtx s (me s) (setChan (here s) n { getChan (here s) n with q := (getChan (here s) n).q.tail })) (me s).die := by
  unfold chDrop
  simp only [modCtx, here]
  split
  · rfl
  · rw [orderPoint_quiet]
    · simp
    · unfold Quiet hereDie at h; simpa [getDie_setCtx, quietDie] using h

theorem getCtx_of_getDie {s t : State} {w : Who} (h : getDie t w.die = getDie s w.die) : getCtx t w = getCtx s w := by
  unfold getCtx getCore; rw [h]

theorem here_taken_pop (s : State) (n : Fin 16) (h : Quiet s) :
    here (taken s (.pop n)) = setChan (here s) n.val { getChan (here s) n.val with q := (getChan (here s) n.val).q.tail } := by
  have := getCtx_of_getDie (w := me s) (chDrop_quiet s n.val h)
  simpa [here, taken] using this

theorem hereDie_taken (s : State) (a : Src) (h : Quiet s) :
    (hereDie (taken s a)).alm = (hereDie s).alm ∧ (hereDie (taken s a)).acc = (hereDie s).acc := by
  cases a with
  | g r => exact ⟨rfl, rfl⟩
  | peek n => exact ⟨rfl, rfl⟩
  | pop n =>
    have e := chDrop_quiet s n.val h
    rw [show getDie (chDrop s (me s) 0 n.val) (me s).die = hereDie (taken s (.pop n)) by simp [hereDie, taken]] at e
    rw [e]; simp [getDie_setCtx, hereDie]

theorem quiet_taken {s : State} (h : Quiet s) (a : Src) : Quiet (Claims.taken s a) := by
  have := (hereDie_taken s a h).1
  simpa [Quiet, quietDie, this] using h

/-- What the access core's checks read of a context: taking operands changes none of it. -/
theorem here_taken (s : State) (a : Src) (h : Quiet s) :
    (here (taken s a)).acc = (here s).acc ∧ (∀ k, (getChan (here (taken s a)) k).cfg = (getChan (here s) k).cfg) ∧
      (here (taken s a)).errs = (here s).errs := by
  cases a with
  | g r => exact ⟨rfl, fun _ => rfl, rfl⟩
  | peek n => exact ⟨rfl, fun _ => rfl, rfl⟩
  | pop n =>
    rw [here_taken_pop s n h]
    refine ⟨rfl, fun k => ?_, rfl⟩
    by_cases hk : k = n.val
    · subst hk; simp [getChan, setChan]
    · simp [getChan, setChan, spGet_spSet_other _ _ _ hk]

theorem gKey_acc {c e : Ctx} (h : c.acc = e.acc) (r : GReg) : gKey c r = gKey e r := by unfold gKey; rw [h]

theorem pendingG_taken (s : State) (a : Src) (h : Quiet s) (r : GReg) :
    pendingG (taken s a) (me s) r = pendingG s (me s) r := by
  have h1 := (hereDie_taken s a h).2
  have h2 := gKey_acc (here_taken s a h).1 r
  unfold hereDie here at *
  simp only [me_taken] at h1 h2
  simp only [pendingG, h1, h2]

theorem srcLegal_taken (s : State) (a b : Src) (h : Quiet s) : srcLegal (here (taken s a)) b = srcLegal (here s) b := by
  have h2 := (here_taken s a h).2.1
  cases b <;> simp only [srcLegal, chEn, chCons, h2]

theorem dstLegal_taken (s : State) (a : Src) (d : RC) (h : Quiet s) : dstLegal (here (taken s a)) d = dstLegal (here s) d := by
  have h2 := (here_taken s a h).2.1
  cases d <;> simp only [dstLegal, chEn, chProd, h2]

theorem lostG_taken (s : State) (a : Src) (h : Quiet s) (r : GReg) : lostG (here (taken s a)) r = lostG (here s) r := by
  have h1 := here_taken s a h
  simp only [lostG, gLoc, gKey_acc h1.1, h1.2.2]

theorem srcReady_legal {s : State} {a : Src} (h : srcReady s a = true) :
    srcLegal (here s) a = true ∧ srcPending s (me s) a = false ∧ srcLost (here s) a = false := by
  cases a <;> simp_all [srcReady, srcLegal, srcPending, srcLost]

theorem srcsReady_legal {s : State} {l : List Src} (hq : Quiet s) (h : srcsReady s l = true) :
    l.all (srcLegal (here s)) = true ∧ l.any (srcPending s (me s)) = false ∧ l.any (srcLost (here s)) = false := by
  induction l generalizing s with
  | nil => exact ⟨rfl, rfl, rfl⟩
  | cons a t ih =>
    simp only [srcsReady, Bool.and_eq_true] at h
    obtain ⟨i1, i2, i3⟩ := ih (quiet_taken hq a) h.2
    obtain ⟨j1, j2, j3⟩ := srcReady_legal h.1
    simp only [List.all_cons, List.any_cons, Bool.and_eq_true, Bool.or_eq_false_iff]
    refine ⟨⟨j1, ?_⟩, ⟨j2, ?_⟩, j3, ?_⟩
    · simpa [srcLegal_taken s a _ hq] using i1
    · rw [me_taken] at i2
      rw [← i2]
      congr 1
      funext b
      cases b <;> simp [srcPending, pendingG_taken s a hq]
    · rw [← i3]
      congr 1
      funext b
      cases b <;> simp [srcLost, lostG_taken s a hq]

theorem quiet_takenAll {s : State} (h : Quiet s) (l : List Src) : Quiet (Claims.takenAll s l) := by
  induction l generalizing s with
  | nil => exact h
  | cons a t ih => exact ih (quiet_taken h a)

theorem dstLegal_takenAll (s : State) (l : List Src) (d : RC) (h : Quiet s) : dstLegal (here (takenAll s l)) d = dstLegal (here s) d := by
  induction l generalizing s with
  | nil => rfl
  | cons a t ih => exact (ih (taken s a) (quiet_taken h a)).trans (dstLegal_taken s a d h)

/-- Sources at hand are taken in their order, and the instruction goes on with their values. -/
theorem takeSrcs_ready {s : State} {l : List Src} (hq : Quiet s) (h : srcsReady s l = true) (ns : List ChNeed)
    (k : State → List Word → Res) : takeSrcs s (me s) ns l k = k (takenAll s l) (heldVals s l) := by
  induction l generalizing s k with
  | nil => rfl
  | cons a t ih =>
    simp only [srcsReady, Bool.and_eq_true] at h
    have ih' := fun k => ih (s := taken s a) (quiet_taken hq a) h.2 k
    simp only [me_taken] at ih'
    cases a with
    | g r => simp only [takeSrcs]; exact ih' _
    | pop n =>
      simp only [srcReady, headFilled, Bool.and_eq_true] at h
      obtain ⟨⟨-, h1⟩, h2⟩ := h
      simp only [takeSrcs, chHead]
      cases hc : (getChan (here s) n.val).q with
      | nil => rw [hc] at h1; simp at h1
      | cons e q =>
        rw [hc] at h1
        have : (getChan (getCtx s (me s)) n.val).q = e :: q := hc
        simp only [Bool.and_eq_true, Bool.not_eq_true'] at h1
        simp only [this, h1.1, h1.2, Bool.not_true, Bool.false_eq_true, if_false]
        refine (ih' _).trans ?_
        simp [heldVals, srcVal, hc, Claims.takenAll]
    | peek n =>
      simp only [srcReady, headFilled, Bool.and_eq_true] at h
      obtain ⟨⟨-, h1⟩, h2⟩ := h
      simp only [takeSrcs, chHead]
      cases hc : (getChan (here s) n.val).q with
      | nil => rw [hc] at h1; simp at h1
      | cons e q =>
        rw [hc] at h1
        have : (getChan (getCtx s (me s)) n.val).q = e :: q := hc
        simp only [Bool.and_eq_true, Bool.not_eq_true'] at h1
        simp only [this, h1.1, h1.2, Bool.not_true, Bool.false_eq_true, if_false]
        refine (ih' _).trans ?_
        simp [heldVals, srcVal, hc, Claims.takenAll]

/-- A destination that can be written has room. -/
theorem dstRoom_ready {s s1 : State} {d : RC} (h : dstReady s s1 d = true) (l : List ChNeed) (k : Res) : dstRoom (here s1) l d k = k := by
  cases d with
  | g r => rfl
  | ch n =>
    simp only [dstReady, Bool.and_eq_true, decide_eq_true_eq] at h
    simp [dstRoom, h.2]

/-- With the operands at hand, an access-core instruction goes on with their values. -/
theorem withOps_ready {s : State} {srcs : List Src} {regs : List GReg} {dst : RC} (hq : Quiet s) (h : Ready s srcs regs dst)
    (word : Word) (k : State → List Word → Res) : withOps s word srcs regs dst k = k (takenAll s srcs) (heldVals s srcs) := by
  unfold Ready at h
  simp only [Bool.and_eq_true] at h
  obtain ⟨⟨h1, h2⟩, h3⟩ := h
  obtain ⟨l1, l2, l3⟩ := srcsReady_legal hq h1
  have hd : dstLegal (here s) dst = true := by
    rw [← dstLegal_takenAll s srcs dst hq]
    cases dst <;> simp_all [dstReady, dstLegal]
  have hp : dstPending s (me s) dst = false := by
    cases dst <;> simp_all [dstReady, dstPending]
  have hr : regs.any (pendingG s (me s)) = false := by
    simp only [List.any_eq_false, List.all_eq_true, Bool.and_eq_true, Bool.not_eq_true'] at h2 ⊢
    exact fun r m => by simp [(h2 r m).1]
  have hl : regs.any (lostG (here s)) = false := by
    simp only [List.any_eq_false, List.all_eq_true, Bool.and_eq_true, Bool.not_eq_true'] at h2 ⊢
    exact fun r m => by simp [(h2 r m).2]
  unfold withOps
  simp only [show getCtx s (me s) = here s from rfl, l1, l2, l3, hd, hp, hr, hl, Bool.and_self, Bool.not_true, Bool.or_self, Bool.false_eq_true,
    if_false]
  rw [takeOps, takeSrcs_ready hq h1]
  have := dstRoom_ready h3 (opNeeds srcs dst) (k (takenAll s srcs) (heldVals s srcs))
  simpa [here] using this

/-- The outcome of a body that is done, where no order point holds it. -/
theorem runAccess_ok {s t : State} {body : State → Res} {n : Nxt} (hb : body s = .ok t n) (ho : almOver t (me s).die = false) :
    runAccess s body = .next (retired s t n) := by
  simp [runAccess, finishAccess, hb, ho, retired, here]

theorem almOver_of_quiet {t : State} {d : Nat} (h : quietDie (getDie t d) = true) : almOver t d = false := by
  simp only [quietDie, Bool.and_eq_true, Bool.not_eq_true'] at h
  exact h.2

/-- A write of the destination leaves the Almanac. -/
theorem quiet_putDst {t : State} (d : RC) (v : Word) (h : Quiet t) : quietDie (getDie (putDst t d v) (me t).die) = true := by
  cases d <;> simpa [putDst, modCtx, getDie_setCtx, quietDie, Quiet, hereDie] using h

/-- An instruction whose effect is to write a value to its destination. -/
theorem runAccess_wrote {s : State} {body : State → Res} {srcs : List Src} {d : RC} {v : Word} (hq : Quiet s)
    (hb : body s = .ok (putDst (takenAll s srcs) d v) .seq) : runAccess s body = .next (wrote s srcs d v) := by
  refine runAccess_ok hb (almOver_of_quiet ?_)
  have := quiet_putDst d v (quiet_takenAll hq srcs)
  simpa using this

end Sys2Proof.Machine
end

