-- ==== Sys2Proof/Laws/Retire.lean ====
section
/-!
SUPPORT. What ending a wait, retiring an instruction and taking a trap can do to the state: which parts stay.
-/
namespace Sys2Proof.Machine
open Sys2Proof Sys2Proof.Claims

/-! ### Trace rings and counters: cores, accesses and the Almanac stay -/

/-- A reading that no step of a fold changes is not changed by the fold. -/
theorem foldl_keeps {α β γ : Type} (g : β → γ) (f : β → α → β) (h : ∀ b a, g (f b a) = g b) (l : List α) (b : β) :
    g (l.foldl f b) = g b := by
  induction l generalizing b with
  | nil => rfl
  | cons a t ih => rw [List.foldl_cons, ih, h]

theorem countDie_keeps {γ : Type} (g : Die → γ) (hg : ∀ (d : Die) (t : TraceSt), g { d with trace := t } = g d) (d : Die)
    (p : Option (Nat × Nat)) (code n : Nat) : g (countDie d p code n) = g d := by
  unfold countDie
  apply foldl_keeps
  intro b a
  obtain ⟨i, sel⟩ := a
  cases p <;> dsimp only <;> split <;> first | rfl | exact hg _ _

theorem countDie_cores (d : Die) (p : Option (Nat × Nat)) (code n : Nat) :
    (countDie d p code n).cores = d.cores ∧ (countDie d p code n).mem = d.mem ∧ (countDie d p code n).acc = d.acc ∧
      (countDie d p code n).alm = d.alm ∧ (countDie d p code n).moot = d.moot ∧ (countDie d p code n).time = d.time :=
  ⟨countDie_keeps _ (fun _ _ => rfl) _ _ _ _, countDie_keeps _ (fun _ _ => rfl) _ _ _ _, countDie_keeps _ (fun _ _ => rfl) _ _ _ _,
    countDie_keeps _ (fun _ _ => rfl) _ _ _ _, countDie_keeps _ (fun _ _ => rfl) _ _ _ _, countDie_keeps _ (fun _ _ => rfl) _ _ _ _⟩

theorem ringAppend_cores (d : Die) (k : Nat) (r : List Byte) :
    (ringAppend d k r).cores = d.cores ∧ (ringAppend d k r).acc = d.acc ∧ (ringAppend d k r).alm = d.alm ∧
      (ringAppend d k r).moot = d.moot ∧ (ringAppend d k r).time = d.time := by
  unfold ringAppend
  split
  · exact ⟨rfl, rfl, rfl, rfl, rfl⟩
  split
  · have h := fun x => countDie_cores x none 0x0F 1
    refine ⟨(h _).1, (h _).2.2.1, (h _).2.2.2.1, (h _).2.2.2.2.1, (h _).2.2.2.2.2⟩
  · exact ⟨rfl, rfl, rfl, rfl, rfl⟩

theorem almTick_parts (d : Die) (w : Who) (e : Nat) :
    (almTick d w e).cores = d.cores ∧ (almTick d w e).mem = d.mem ∧ (almTick d w e).acc = d.acc ∧ (almTick d w e).moot = d.moot := by
  unfold almTick; split <;> exact ⟨rfl, rfl, rfl, rfl⟩

/-! ### Contexts after an update of the die that leaves its cores -/

theorem getCtx_modDie (s : State) (d : Nat) (f : Die → Die) (hf : ∀ x, (f x).cores = x.cores) (w : Who) :
    getCtx (modDie s d f) w = getCtx s w ∧ getCore (modDie s d f) w = getCore s w := by
  have : (getDie (modDie s d f) w.die).cores = (getDie s w.die).cores := by
    by_cases h : w.die = d
    · subst h; rw [getDie_modDie]; exact hf _
    · rw [getDie_modDie_other _ _ h]
  constructor <;> simp [getCtx, getCore, dieCore, this]

theorem getCtx_setDie_cores (s : State) (d : Nat) (x : Die) (hx : x.cores = (getDie s d).cores) (w : Who) :
    getCtx (setDie s d x) w = getCtx s w ∧ getCore (setDie s d x) w = getCore s w := by
  have : (getDie (setDie s d x) w.die).cores = (getDie s w.die).cores := by
    by_cases h : w.die = d
    · subst h; rw [getDie_setDie]; exact hx
    · rw [getDie_setDie_other _ _ h]
  constructor <;> simp [getCtx, getCore, dieCore, this]

theorem waitRecord_ctx (s : State) (w : Who) (e : Eng) (k : Nat) (v : Who) :
    getCtx (waitRecord s w e k) v = getCtx s v ∧ getCore (waitRecord s w e k) v = getCore s v := by
  unfold waitRecord
  dsimp only
  split
  · exact getCtx_setDie_cores _ _ _ (ringAppend_cores _ _ _).1 _
  · exact ⟨rfl, rfl⟩

/-- Ending a wait changes the stream's status alone. -/
theorem clearWait_ctx (s : State) (w : Who) (e : Eng) (k : Nat) :
    getCtx (clearWait s w e k) w = getCtx s w ∨
      ∃ t, getCtx (clearWait s w e k) w = setStat (getCtx s w) e t ∧ t.bps = (getStat (getCtx s w) e).bps ∧
        t.sstep = (getStat (getCtx s w) e).sstep := by
  unfold clearWait
  dsimp only
  split
  · right
    refine ⟨{ getStat (getCtx s w) e with st := .run, wkind := 0, obj := 0, aux := 0, since := 0, needs := [] }, ?_, rfl, rfl⟩
    simp [(waitRecord_ctx s w e k w).1]
  · exact .inl rfl

/-- A stream that runs stands in no wait. -/
theorem clearWait_run (s : State) (w : Who) (e : Eng) (k : Nat) (h : (getStat (getCtx s w) e).st = .run) : clearWait s w e k = s := by
  unfold clearWait; simp [h]

@[simp] theorem getCore_setCtx (s : State) (w : Who) (c : Ctx) : getCore (setCtx s w c) w = coreSetCtx (getCore s w) w.ctx c := by
  simp [setCtx, modCore]

/-- What giving up the access core's work leaves of its context. -/
theorem leaveWork_access (s : State) (w : Who) :
    getCtx (leaveWork s w .access) w = { getCtx s w with acc := { (getCtx s w).acc with fly := none } } ∧
      ∃ c, getCore (leaveWork s w .access) w = coreSetCtx (getCore s w) w.ctx c := by
  have key : ∀ t : State, getCtx t w = { getCtx s w with acc := { (getCtx s w).acc with fly := none } } →
      (∃ c, getCore t w = coreSetCtx (getCore s w) w.ctx c) → ∀ f : Die → Die, (∀ x, (f x).cores = x.cores) →
      getCtx (modDie t w.die f) w = { getCtx s w with acc := { (getCtx s w).acc with fly := none } } ∧
        ∃ c, getCore (modDie t w.die f) w = coreSetCtx (getCore s w) w.ctx c := by
    intro t h1 h2 f hf
    rw [(getCtx_modDie t w.die f hf w).1, (getCtx_modDie t w.die f hf w).2]
    exact ⟨h1, h2⟩
  have same : ∃ c, getCore s w = coreSetCtx (getCore s w) w.ctx c := by
    refine ⟨getCtx s w, ?_⟩
    unfold getCtx coreCtx coreSetCtx
    split <;> rfl
  unfold leaveWork
  dsimp only
  split
  · split
    · exact key _ (by simp) ⟨_, getCore_setCtx _ _ _⟩ _ (fun _ => rfl)
    · exact ⟨by simp, _, getCore_setCtx _ _ _⟩
  · rename_i h
    have hn : (getCtx s w).acc.fly = none := by simpa using h
    have e : getCtx s w = { getCtx s w with acc := { (getCtx s w).acc with fly := none } } := by rw [← hn]
    split
    · exact key _ e same _ (fun _ => rfl)
    · exact ⟨e, same⟩

theorem leaveWork_dbgctl (s : State) (w : Who) (e : Eng) : (getCore (leaveWork s w e) w).dbgctl = (getCore s w).dbgctl := by
  cases e
  · obtain ⟨c, h⟩ := (leaveWork_access s w).2
    rw [h]; unfold coreSetCtx; split <;> rfl
  · rfl
  · unfold leaveWork
    dsimp only
    split
    · simp [modCtx]
    · rfl

theorem clearWait_dbgctl (s : State) (w : Who) (e : Eng) (k : Nat) : (getCore (clearWait s w e k) w).dbgctl = (getCore s w).dbgctl := by
  unfold clearWait
  dsimp only
  split
  · simp [modCtx, (waitRecord_ctx s w e k w).2]
  · rfl

theorem abandonWait_dbgctl (s : State) (w : Who) (e : Eng) : (getCore (abandonWait s w e) w).dbgctl = (getCore s w).dbgctl := by
  unfold abandonWait
  rw [clearWait_dbgctl, leaveWork_dbgctl]

/-- What ending the access core's wait leaves of its context. -/
theorem abandonWait_access (s : State) (w : Who) :
    let c := getCtx s w
    let e := getCtx (abandonWait s w .access) w
    e = { c with acc := { c.acc with stat := e.acc.stat, fly := none } } ∧ e.acc.stat.bps = c.acc.stat.bps ∧
      e.acc.stat.sstep = c.acc.stat.sstep := by
  dsimp only [abandonWait]
  rcases clearWait_ctx (leaveWork s w .access) w .access 7 with h | ⟨t, h, h2, h3⟩ <;> rw [h] <;> rw [(leaveWork_access s w).1] at *
  · exact ⟨rfl, rfl, rfl⟩
  · exact ⟨rfl, h2, h3⟩

/-- Retiring without single step: what the context holds after. -/
theorem retireAccess_ctx (s : State) (w : Who) (b : Bool) (n : Nxt) (h : (getCtx s w).acc.stat.sstep = false) :
    getCtx (retireAccess s w b n) w =
      { getCtx s w with
        acc := { (getCtx s w).acc with
          pc := (loopNext (getCtx s w).acc.loops (getCtx s w).acc.pc 4 n).2
          loops := (loopNext (getCtx s w).acc.loops (getCtx s w).acc.pc 4 n).1
          stat := { (getCtx s w).acc.stat with bps := (getCtx s w).acc.stat.bps && !b }
          fly := none }
        csr := { (getCtx s w).csr with instret := (getCtx s w).csr.instret + 1 } } := by
  unfold retireAccess
  dsimp only
  rw [h]
  simp only [Bool.false_and, Bool.false_eq_true, if_false]
  rw [(getCtx_modDie _ _ _ (fun x => by rw [(almTick_parts _ _ _).1, (countDie_cores _ _ _ _).1]) _).1, getCtx_setCtx]

/-- Retiring without single step writes no memory, leaves the other parts of the core, the host, the fabric and the packages. -/
theorem retireAccess_rest (s : State) (w : Who) (b : Bool) (n : Nxt) (h : (getCtx s w).acc.stat.sstep = false) :
    (∀ d, (getDie (retireAccess s w b n) d).mem = (getDie s d).mem) ∧ (retireAccess s w b n).host = s.host ∧
      (retireAccess s w b n).net = s.net ∧ (retireAccess s w b n).pkgs = s.pkgs ∧ me (retireAccess s w b n) = me s ∧
      ∃ c, getCore (retireAccess s w b n) w = coreSetCtx (getCore s w) w.ctx c := by
  unfold retireAccess
  dsimp only
  rw [h]
  simp only [Bool.false_and, Bool.false_eq_true, if_false]
  refine ⟨fun d => ?_, rfl, rfl, rfl, rfl, ?_⟩
  · by_cases hd : d = w.die
    · subst hd; rw [getDie_modDie, (almTick_parts _ _ _).2.1, (countDie_cores _ _ _ _).2.1, getDie_setCtx]; rfl
    · rw [getDie_modDie_other _ _ hd, getDie_setCtx_other _ _ _ hd]
  · rw [(getCtx_modDie _ _ _ (fun x => by rw [(almTick_parts _ _ _).1, (countDie_cores _ _ _ _).1]) _).2, getCore_setCtx]
    exact ⟨_, rfl⟩

end Sys2Proof.Machine
end

