-- ==== Sys2Proof/Tests/Slice0.lean ====
section
/-!
SUPPORT. Tests: words of the spec's encodings, ill-formed terms refused, single steps on small states with results worked out from the spec, and for each
statement states and operands that meet its hypotheses.
-/
namespace Sys2Proof.Tests
open Sys2Proof Sys2Proof.Machine Sys2Proof.Claims
set_option Elab.async false

/-! ### Small states -/

/-- Context 0 of core 0 of die 0. -/
def w0 : Who := ⟨0, 0, 0⟩

/-- A job there, running; memory mapped one to one; the word does not matter. -/
def base : State := State.reset.withFetchWord 32 0

def loomBase : State := State.reset.withFetchWord 96 0

def millBase : State := State.reset.withFetchWord 192 0

/-- Its context changed. -/
def withCtx (s : State) (f : Ctx → Ctx) : State := modCtx s w0 f

/-- Registers given values. -/
def withG (s : State) (l : List (Nat × Word)) : State := withCtx s fun c => l.foldl (fun c p => writeGKey c p.1 false p.2) c

/-- Channel `n` configured, with entries. -/
def withCh (s : State) (n : Nat) (cfg : Word) (l : List Word) : State :=
  withCtx s fun c => { c with chans := spSet {} c.chans n { cfg := cfg, q := l.map fun v => { val := v } } }

/-- Die 0 changed; package 0 changed; an event's particulars. -/
def withDie (s : State) (f : Die → Die) : State := modDie s 0 f

def withPkg (s : State) (f : Pkg → Pkg) : State := modPkg s 0 f

def withEv (s : State) (v : EvArg) : State := { s with ev := v }

/-- In system mode. -/
def inSys (s : State) : State := withCtx s fun c => { c with acc := { c.acc with sys := true } }

/-- What holds of the next state of an instruction, and of a step. -/
def after (i : Instr) (s : State) (f : State → Bool) : Bool :=
  match exec i s with
  | .next t => f t
  | _ => false

def stepTo (s : State) (f : State → Bool) : Bool :=
  match step s with
  | .next t => f t
  | _ => false

def ctx (s : State) : Ctx := getCtx s w0

/-- What a state's HBM holds. -/
def withHbm (s : State) (a : Nat) (bs : List Byte) : State := withDie s fun x => { x with mem := { x.mem with hbm := memWrite x.mem.hbm a bs } }

/-! ### Witnesses: the access core (04, 01) -/

/-- g2 = 5, g3 = 7, g5 = 2^54; channel 2 holds 9, channel 4 is the access core's to fill. -/
def regs : State := withCh (withCh (withG base [(2, 5), (3, 7), (5, 0x40000000000000), (6, 0x30000)]) 2 0x100 [9]) 4 0x100 []

theorem good_of (t : Word) (h : t.toNat % 4 = 0 ∧ ∀ k < 64, 55 ≤ k → t.getLsbD k = t.getLsbD 54) : goodTarget t :=
  ⟨h.1, fun k h1 h2 => h.2 k h2 h1⟩

theorem wit_regOps : Quiet regs ∧ Ready regs [.g 2, .pop 2] [] (.ch 4) ∧ Ready regs [.peek 2] [] (.g 0) ∧ Ready regs [rcSrc (.ch 2)] [] (.g 3) := by
  unfold Quiet Ready; decide +kernel

theorem wit_selectAndField : Quiet regs ∧ Ready regs [.g 2, .pop 2] [] (.g 3) ∧ Ready regs [] [] (.ch 4) ∧ (63#6).toNat + (0#6).toNat + 1 ≤ 64 := by
  unfold Quiet Ready; decide +kernel

theorem wit_branches : Quiet regs ∧ Ready regs [rcSrc (.g 2), rcSrc (.ch 2)] [] (.g 0) ∧
    branchTaken .lt (srcVal regs (rcSrc (.g 2))) (srcVal (taken regs (rcSrc (.g 2))) (rcSrc (.ch 2))) ∧
    ¬ branchTaken .geu (srcVal regs (rcSrc (.g 2))) (srcVal (taken regs (rcSrc (.g 2))) (rcSrc (.ch 2))) := by
  unfold Quiet Ready branchTaken; decide +kernel

theorem wit_branches_target : goodTarget (wordsFrom (here regs).acc.pc (-512)) := good_of _ (by decide +kernel)

theorem wit_jumps : Ready regs [] [] (.g 1) ∧ Ready regs [rcSrc (.g 6)] [] (.g 0) ∧ Ready regs [rcSrc (.g 6)] [] (.g 6) := by
  unfold Ready; decide +kernel

theorem wit_jumps_target : goodTarget (srcVal regs (rcSrc (.g 6)) + BitVec.ofInt 64 (-4096)) ∧ goodTarget (wordsFrom (here regs).acc.pc (2 ^ 18 - 1)) :=
  ⟨good_of _ (by decide +kernel), good_of _ (by decide +kernel)⟩

theorem wit_badTargets : Ready regs [.g 2] [] (.g 1) ∧ (readG (here regs) 2 + BitVec.ofInt 64 0).toNat % 4 ≠ 0 ∧
    (readG (here regs) 5 + BitVec.ofInt 64 0).toNat % 4 = 0 ∧ ¬ goodTarget (readG (here regs) 5 + BitVec.ofInt 64 0) :=
  ⟨by unfold Ready; decide +kernel, by decide +kernel, by decide +kernel, fun h => absurd (h.2 55 (by omega) (by omega)) (by decide +kernel)⟩

/-- Four levels are open. -/
def looped : State := withCtx regs fun c => { c with acc := { c.acc with loops := List.replicate 4 { start := 0x20000, last := 0x20010, count := 2 } } }

theorem wit_loop : Quiet looped ∧ Ready looped [rcSrc (.g 2)] [] (.g 0) ∧ srcVal looped (rcSrc (.g 2)) ≠ 0 ∧ (here looped).acc.loops.length = 4 ∧
    Ready regs [rcSrc (.g 0)] [] (.g 0) ∧ srcVal regs (rcSrc (.g 0)) = 0 ∧ (here regs).acc.loops.length < 4 ∧
    (0#10).toInt < 1 ∧ 1 ≤ (1#10).toInt ∧ 1 ≤ (511#10).toInt := by
  unfold Quiet Ready; decide +kernel

theorem wit_nopExit : almOver regs (me regs).die = false ∧ (here regs).acc.uli = false := by decide +kernel

theorem wit_retirement : (getCtx looped w0).acc.stat.sstep = false ∧ Running looped := by unfold Running; decide +kernel

theorem wit_frame : regForm (.add (.ch 4) (.g 2) (.pop 2)) = some (.ch 4, [.g 2, .pop 2], []) ∧ Running regs ∧
    after (.add (.ch 4) (.g 2) (.pop 2)) regs (fun t => (getChan (here t) 4).q.map ChEntry.val == [14] && (getChan (here t) 2).q.isEmpty) = true := by
  unfold Running; decide +kernel

theorem wit_trapEntry : EntersSystem regs w0 0x16 ∧ EntersSystem regs w0 0x12 ∧ EntersSystem regs w0 9 ∧ EntersSystem regs w0 0x1A := by
  unfold EntersSystem; decide +kernel

/-- A user-level handler takes 0x09. -/
def delegating : State := withCtx regs fun c => { c with csr := { c.csr with ulvec := 0x30000, uldel := 0x200 } }

theorem wit_delegated : bit (getCtx delegating w0).csr.uldel 9 = true ∧ (getCtx delegating w0).csr.ulvec ≠ 0 ∧
    (getCtx delegating w0).acc.uli = false ∧ (getCtx delegating w0).acc.sys = false := by decide +kernel

/-- In system mode with trap-enable clear; in a user-level handler. -/
def trapped : State := withCtx (inSys regs) fun c => { c with csr := { c.csr with te := false, sepc := 0x24000, pm := false } }

def handling : State := withCtx regs fun c => { c with acc := { c.acc with uli := true }, csr := { c.csr with ulepc := 0x24000 } }

theorem wit_doubleFault : (getCtx trapped w0).acc.sys = true ∧ (getCtx trapped w0).csr.te = false := by decide +kernel

theorem wit_returns : Quiet trapped ∧ Running trapped ∧ (here trapped).acc.sys = true ∧ Quiet handling ∧ Running handling ∧ (here handling).acc.uli = true ∧
    (here regs).acc.sys = false ∧ (here regs).acc.uli = false := by
  unfold Quiet Running; decide +kernel

/-- g8 points at the scratchpad's last word, g9 at the spill bank's. -/
def points : State := withG regs [(8, 0x5FFFF8), (9, 0xFFF8), (10, 0x1000), (11, 0x300001000)]

theorem wit_scratchpad : Quiet points ∧ Ready points [] [8] (.ch 4) ∧ ScratchOpen points (scaled points 8 0 8) 8 false ∧
    spMark (getCore points (me points)) ((scaled points 8 0 8).toNat / 32) = 0 ∧ Ready points [rcSrc (.ch 2)] [8] (.g 0) ∧
    ScratchOpen (takenAll points [rcSrc (.ch 2)]) (scaled points 8 0 8) 8 true := by
  unfold Quiet Ready ScratchOpen ScratchAt RangeOpen NoClash OwnDomainFree; decide +kernel

/-- The Loom has an instruction in flight that writes the sector of g8. -/
def racing : State := withCtx points fun c => { c with loom := { c.loom with fly := some { i := .vexit, wr := [0x2FFFE, 0x2FFFF] } } }

theorem wit_scratchRace : Quiet racing ∧ Ready racing [] [8] (.ch 4) ∧ ScratchAt racing (scaled racing 8 0 8) 8 false ∧
    FirstRaced racing (scaled racing 8 0 8) 8 false 0x2FFFF ∧ Ready racing [rcSrc (.ch 2)] [8] (.g 0) ∧
    ScratchAt (takenAll racing [rcSrc (.ch 2)]) (scaled racing 8 0 8) 8 true ∧ FirstRaced racing (scaled racing 8 0 8) 8 true 0x2FFFF ∧
    (here racing).acc.fly = none ∧ OwnDomainFree racing (scaled racing 8 0 8).toNat 8 false ∧ OwnDomainFree racing (scaled racing 8 0 8).toNat 8 true ∧
    after (.ldl (.ch 4) 8 0 .d) racing (fun t => (here t).csr.scause == 0x0C && (here t).csr.sval == 0x5FFFE0) = true := by
  unfold Quiet Ready ScratchAt OwnDomainFree FirstRaced; decide +kernel

theorem wit_spillBank : Ready points [] [9] (.g 1) ∧ Ready points [.g 2] [9] (.g 0) ∧ (scaled points 9 0 8).toNat % 8 = 0 ∧
    (scaled points 9 0 8).toNat < 0x10000 ∧ (∀ e ∈ (here points).spillErr, e.1 < 0 ∨ e.2 = 0) := by
  unfold Ready; decide +kernel

/-- The turn takes an access to its start only. -/
def beginning : State := { points with cur := { points.cur with begins := true } }

theorem wit_comesIntoFlight : Quiet beginning ∧ beginning.cur.begins = true ∧ (here beginning).acc.fly = none ∧ Ready beginning [] [8] (.ch 4) ∧
    ScratchAt beginning (scaled beginning 8 0 8) 8 false ∧ NoClash beginning (scaled beginning 8 0 8).toNat 8 false ∧
    Ready beginning [rcSrc (.ch 2)] [8] (.g 0) ∧ ScratchAt (takenAll beginning [rcSrc (.ch 2)]) (scaled beginning 8 0 8) 8 true ∧
    NoClash (takenAll beginning [rcSrc (.ch 2)]) (scaled beginning 8 0 8).toNat 8 true := by
  unfold Quiet Ready ScratchAt NoClash OwnDomainFree; decide +kernel

/-- g12 a configuration with both codes 4 and EN; g13 one with a bad code; a load of another slot is in flight. -/
def channels : State := withDie (withG regs [(12, 0x144), (13, 2), (14, 512)]) fun x => { x with
  acc := [{ id := 1, w := w0, kind := .load, size := 8, sb := 3, dest := .g 20 false }] }

theorem wit_channelSetup : Quiet channels ∧ Ready channels [.g 12] [] (.g 0) ∧ (readG (here channels) 12).toNat < 512 ∧
    (readG (here channels) 12).getLsbD 3 = false ∧ (readG (here channels) 12).getLsbD 7 = false ∧ (readG (here channels) 12).toNat % 8 = 4 ∧
    (readG (here channels) 12).toNat / 16 % 8 = 4 ∧ (readG (here channels) 13).toNat % 8 = 2 ∧ 512 ≤ (readG (here channels) 14).toNat ∧
    Ready channels [] [] (.g 1) ∧ (∀ a ∈ (hereDie channels).acc, a.w = me channels → a.sb ≠ 0 → (0x7B#7).getLsbD (a.sb - 1) = false) := by
  unfold Quiet Ready; decide +kernel

/-! ### Witnesses: global memory (10, 11) -/

/-- What the page of g10's address is. -/
def leaf : Xl := (xlated points (scaled points 10 0 8)).2.getD { sp := .hbm, pa := 0, pte := 0, asid := 0, base := 0 }

theorem wit_loads : Quiet points ∧ Ready points [] [10] (.g 1) ∧ SlotRoom points 7 ∧ Reaches points (scaled points 10 0 8) 8 leaf mayLoad .read := by
  unfold Quiet Ready SlotRoom Reaches XlRoom; decide +kernel

theorem wit_stores : Ready points [rcSrc (.ch 2)] [10] (.g 0) ∧ Reaches points (scaled points 10 0 8) 8 leaf mayStore .write ∧
    grantsOut points (me points) = false := by
  unfold Ready Reaches XlRoom; decide +kernel

theorem wit_atomics : Ready points [.pop 2] [10] (.g 1) ∧ Reaches points (readG (here points) 10) (atomBytes true) leaf mayAtom .atomic := by
  unfold Ready Reaches XlRoom; decide +kernel

theorem wit_alone : AloneInHbm points (scaled points 10 0 8) 8 leaf mayLoad .read ∧ AloneInHbm points (scaled points 10 0 8) 8 leaf mayStore .write ∧
    AloneInHbm points (readG (here points) 10) (atomBytes true) leaf mayAtom .atomic ∧
    (atomPos points 0 (leaf.pa / 128 * 4) 0).isSome = true ∧ (∀ e ∈ (getChan (here points) 4).q, e.filled = true) ∧ Ready points [] [10] (.ch 4) := by
  unfold AloneInHbm Running Reaches XlRoom Ready; decide +kernel

/-- c1 is tagged with every permission, c2 without GLOBAL; both name die 0. -/
def caps : State := withCtx points fun c => { c with acc := { c.acc with c :=
  [(1, mkCap 0 0 65535 0 0xFF 0 0x1000 true), (2, mkCap 0 0 65535 0 0xBF 0 0x1000 true), (3, mkCap 0 0 65535 1 0xFF 0 0x1000 true),
   (4, mkCap 0 0 65535 2 0xFF 0 0x1000 true), (5, mkCap 0 0 65535 4 0xFF 0 0x1000 true)] } }

theorem wit_granules : Quiet caps ∧ Ready caps [] [10] (.g 0) ∧ pendingC caps (me caps) 1 = false ∧
    AloneInHbm caps (scaled caps 10 0 16) 16 leaf mayLoad .read ∧ AloneInHbm caps (scaled caps 10 0 16) 16 leaf mayStore .write ∧
    lostC (here caps) 0 = false ∧ leaf.pa % 16 = 0 ∧
    (readCap (here caps) 0).tag = false ∧ (readCap (here caps) 1).bits.getLsbD 85 = true ∧ leaf.sp = .hbm ∧ (readCap (here caps) 2).tag = true ∧
    (readCap (here caps) 2).bits.getLsbD 85 = false := by
  unfold Quiet Ready AloneInHbm Running Reaches XlRoom; decide +kernel

/-- The page at 16 GiB without read attribute is not mapped; a watchpoint covers 0x1000. -/
def watched : State := withCtx points fun c => { c with dbg := { c.dbg with wpb := [(0, 0x1000 + 0x21)], wpm := [(0, 0xFF)] } }

theorem wit_loadChecks : Ready points [] [2] (.g 1) ∧ (scaled points 2 0 8).toNat % 8 ≠ 0 ∧ (xlated points (scaled points 11 0 8)).2 = none ∧ XlRoom points (scaled points 11 0 8) ∧
    (scaled points 11 0 8).toNat % 8 = 0 ∧ Ready watched [] [10] (.g 1) ∧ (watchHit (here watched) false false .read (scaled watched 10 0 8).toNat 8).isSome = true ∧
    XlRoom watched (scaled watched 10 0 8) := by
  unfold Ready XlRoom; decide +kernel

/-- One access in flight on die 0, performed next; die 0's HBM holds a word for it. -/
def flying (a : Access) : State := withEv (withDie (withHbm regs 0x1000 (leBytes 8 0x1122334455667788)) fun x => { x with acc := [a], nextId := 1 }) { w := w0, k := 1 }

def anAccess (k : AccKind) (n : Nat) (d : Dest) : Access :=
  { id := 1, w := w0, kind := k, va := 0x1000, sp := .hbm, pa := 0x1000, size := n, val := 7, dest := d }

theorem wit_complete : ∀ k ∈ [AccKind.load, .store, .atom 9, .cas], let a := anAccess k 8 (.g 1 false)
    Performable (flying a) a ∧ PlainHbm (flying a) a ∧ NoOwnStore (flying a) { a with kind := .load } ∨ k ≠ .load ∧
      Performable (flying a) a ∧ PlainHbm (flying a) a ∧ quietDie (getDie (flying a) 0) = true := by
  unfold Performable PlainHbm NoOwnStore; decide +kernel

theorem wit_capLoad : let a := anAccess .capLoad 16 (.cap 3)
    Performable (flying a) a ∧ physErr (flying a) 0 .hbm a.pa 16 = none := by
  unfold Performable; decide +kernel

theorem wit_cas : let a := anAccess .cas 8 (.g 1 false)
    hbmNat (flying a) a ≠ a.exp.toNat % 2 ^ 64 ∧ (let b := { a with exp := 0x1122334455667788 }; hbmNat (flying b) b = b.exp.toNat % 2 ^ 64) := by
  decide +kernel

theorem wit_fences : Quiet regs ∧ Quiet channels ∧ grantsOut regs (me regs) = false ∧ (∀ a ∈ (hereDie regs).acc, a.w ≠ me regs) ∧ (∃ a ∈ (hereDie channels).acc, a.w = me channels ∧ a.kind ≠ .result ∧ a.kind ≠ .store ∧ a.kind ≠ .capStore ∧ a.kind ≠ .rstore) := by
  unfold Quiet; decide +kernel

/-- g12 a length of 2^24, g13 one above it. -/
def lengths : State := withG points [(12, 0x1000000), (13, 0x1000001), (14, 1)]

theorem wit_cacheMaintenance : Quiet lengths ∧ Ready lengths [.g 12] [10] (.g 0) ∧ (srcVal lengths (.g 12)).toNat ≤ 0x1000000 ∧
    0x1000000 < (srcVal lengths (.g 13)).toNat ∧ (srcVal lengths (.g 0)).toNat = 0 ∧
    (match (translateRange (takenAll lengths [.g 14]) 0 (.access 0) (here lengths).dbg.xctx 0x1000 (fun _ => true) (granules 0x1000 128)).2 with
      | .ok ls => ls.length == 1 | .error _ => false) = true := by
  unfold Quiet Ready; decide +kernel

/-! ### Witnesses: tags, permits, descriptors, barriers (05, 08) -/

def withCore (s : State) (f : Core → Core) : State := setCore s w0 (f (getCore s w0))

/-- The example of R132: the tile of 0x12_3456_7000 goes to set 50.  Slot 400, of that set, holds it, FULL and PCNT 1; slot 401 is pinned, slot 402 has PCNT 255;
g20 the address, g21 slot 400's offset, g22 slot 401's, g23 slot 402's, g24 slot 403's; g25 slot 8's. -/
def tagged : State := withCore (withG regs [(20, 0x1234567000), (21, 0x190000), (22, 0x191000), (23, 0x192000), (24, 0x193000), (25, 0x8000), (26, 0x100000000 + 0x190000)])
  fun y => { y with tags := [(400, 0x1234567 * 65536 + 0x103), (401, 0x77 * 65536 + 9), (402, 0x78 * 65536 + 0xFF03)] }

theorem tags_good (s : State) (h : (hereCore s).tagErr = []) : TagsGood s := fun j => by simp [h, spGet]

theorem wit_tagsGood : TagsGood tagged := tags_good _ (by decide +kernel)

theorem wit_tagLookups : Quiet tagged ∧ Ready tagged [.g 20] [] (.g 1) ∧ setOf (srcVal tagged (.g 20)) = 50 ∧
    (slotsIn tagged 50).find? (holdsTile tagged (srcVal tagged (.g 20))) = some 400 ∧ TileOffset tagged (srcVal tagged (.g 21)) ∧
    TileOffset tagged 0x5FF000 := by
  unfold Quiet Ready TileOffset; decide +kernel

theorem wit_tagSet : Ready tagged [.g 20, .g 22] [] (.g 1) ∧ slotWord (srcVal tagged (.g 22)) ∧ TileOffset tagged (wordOffset (srcVal tagged (.g 22))) ∧
    RangeOpen (takenAll tagged [.g 20, .g 22]) 0x191000 4096 true ∧ entryPin tagged 401 = true ∧ entryPin tagged 8 = false ∧ 8 / 8 ≠ 50 ∧
    entryPin tagged 403 = false ∧ 403 / 8 = 50 ∧ (∃ k ∈ slotsIn tagged 50, k ≠ 403 ∧ holdsTile tagged (srcVal tagged (.g 20)) k = true) ∧
    (¬ ∃ k ∈ slotsIn tagged 50, k ≠ 400 ∧ holdsTile tagged (srcVal tagged (.g 20)) k = true) ∧ entryPin tagged 400 = false := by
  unfold Ready TileOffset slotWord RangeOpen NoClash OwnDomainFree; decide +kernel

theorem wit_fullTurns : FullTurn tagged 400 true ∧ FullTurn tagged 400 false ∧ FullTurn tagged 403 false := by unfold FullTurn; decide +kernel

theorem wit_fullEmpty : entryFull tagged 400 = true ∧ entryFull tagged 401 = false ∧ Ready tagged [.g 21, .g 0] [] (.g 1) ∧
    RangeOpen (takenAll tagged [.g 21]) 0x190000 4096 false ∧ slotWord (srcVal tagged (.g 26)) ∧ entryFull tagged 400 = (srcVal tagged (.g 26)).getLsbD 32 ∧
    entryFull tagged 400 ≠ (srcVal tagged (.g 21)).getLsbD 32 := by
  unfold Ready RangeOpen NoClash OwnDomainFree slotWord; decide +kernel

theorem wit_grants : Ready tagged [.g 21, .g 2] [] (.g 1) ∧ grantTarget tagged (0 : Word) ∧ entryValid tagged 403 = false ∧ entryPcnt tagged 402 = 255 ∧
    entryValid tagged 402 = true ∧ entryValid tagged 400 = true ∧ entryPcnt tagged 400 < 255 ∧ entryFull tagged 402 = true := by
  unfold Ready grantTarget; decide +kernel

/-- Descriptor 0 is unbound, 1 bound with counts 4, 1, 1, 1 at POS 1, 2 the same with WRAP, 3 with a count of zero; g20 = -1 … -/
def img (wrap n : Nat) : BitVec 512 :=
  BitVec.ofNat 512 (2 ^ 416 + n * 2 ^ 64 + 2 ^ 128 + 2 ^ 192 + 2 ^ 256 + wrap * 2 ^ 45 + 3 * 2 ^ 56)

def streams : State := withCtx (withG (withHbm points 0x1000 (leBytes 8 5)) [(20, -1), (21, 3), (22, 4), (23, 0x107)]) fun c => { c with
  desc := [(1, some (img 0 4)), (2, some (img 1 4)), (3, some (img 0 0))] }

theorem wit_descriptors : Quiet streams ∧ Ready streams [.g 10] [] (.g 0) ∧ descBusy (here streams) 1 = false ∧ (srcVal streams (.g 10)).toNat % 64 = 0 ∧
    (∀ y ∈ (hereDie streams).acc, y.w = me streams → y.kind ≠ .image) ∧ xlWaits streams 0 (.core 0) (here streams).dbg.xctx 0x1000 = false ∧
    (match (translate streams 0 (.core 0) (here streams).dbg.xctx 0x1000).2 with | some l => mayLoad l.pte | none => false) = true ∧
    (srcVal streams (.g 23)).toNat % 256 < 8 ∧ (srcVal streams (.g 23)).toNat < 512 ∧ (srcVal streams (.g 23)).getLsbD 8 = true ∧
    (here streams).errs.contains (.desc 1) = false := by
  unfold Quiet Ready; decide +kernel

/-- The read of the image has been done, without a fault and with one. -/
def imageDone (f : Nat) : State := withDie streams fun x => { x with
  acc := [{ id := 1, w := w0, kind := .image, va := 0x1000, sp := .hbm, pa := 0x1000, size := 64, ready := true, fail := f, data := leBytes 64 7 }] }

theorem wit_descriptorsRead : (∀ f ∈ [0, 0x0F], Quiet (imageDone f) ∧ Ready (imageDone f) [.g 10] [] (.g 0) ∧ descBusy (here (imageDone f)) 1 = false ∧
      (imageRead (imageDone f) (me (imageDone f))).map (fun y => (y.ready, y.fail)) = some (true, f)) ∧
    after (.sbind 1 (.g 10)) (imageDone 0) (fun t => getDesc (here t) 1 == some 7 && (hereDie t).acc.isEmpty) = true ∧
    after (.sbind 1 (.g 10)) (imageDone 0x0F) (fun t => (here t).csr.scause == 0x0F && (here t).csr.sval == 0x1000) = true := by
  unfold Quiet Ready; decide +kernel

theorem wit_descriptorBusy : descBusy (ctx (withCtx streams fun c => { c with mill := { c.mill with
    flight := [{ op := 4, f := { mform0 with os := 1 }, inj := false, step := 0, stage := .drain }] } })) 1 = true := by decide +kernel

theorem wit_skip : Ready streams [.g 20] [] (.g 0) ∧ getDesc (here streams) 0 = none ∧ getDesc (here streams) 3 = some (img 0 0) ∧ imgTotal (img 0 0) = 0 ∧
    imgTotal (img 1 4) ≠ 0 ∧ imgWrap (img 1 4) = true ∧ imgWrap (img 0 4) = false ∧ (imgPos (img 0 4) : Int) + (srcVal streams (.g 20)).toInt = 0 ∧
    (imgPos (img 0 4) : Int) + (srcVal streams (.g 21)).toInt = imgTotal (img 0 4) ∧ (imgTotal (img 0 4) : Int) < imgPos (img 0 4) + (srcVal streams (.g 22)).toInt := by
  unfold Ready; decide +kernel

/-- A live object at 0x2000 with EXP 2, PEND 1; one at 0x2020 that is not live; g20, g21 their names, g22 = 1, g23 = 3; g24 names phase 0xFFFF of the first;
g25 = u 1 for phase 1; g26 a barrier that others may arrive at. -/
def barred : State := withCore (withG regs [(20, 0x2000), (21, 0x2020), (22, 1), (23, 3), (24, 0xFFFF00002000), (25, 0x100000001), (26, 2)]) fun y =>
  barWrite y 0x2000 { exp := 2, pend := 1, next := 2, phase := 0, flg := 5, own := 0, ft := 0 } 1

theorem wit_barrierInit : Quiet barred ∧ Ready barred [rcSrc (.g 20), rcSrc (.g 22)] [] (.g 0) ∧ BarrierName barred 0x2000 false ∧
    (0x2000 : Word).getLsbD 28 = false ∧ BarrierOpen (takenAll barred [rcSrc (.g 20), rcSrc (.g 22)]) 0x2000 true ∧
    (srcVal barred (rcSrc (.g 22))).toNat % 2 ^ 32 ≠ 0 ∧ (barrierOf barred 0x2000).flg % 2 = 1 ∧ (barrierOf barred 0x2000).next ≤ 2 ∧
    1 < (barrierOf barred 0x2000).next ∧ (barrierOf barred 0x2020).flg % 2 = 0 := by
  unfold Quiet Ready BarrierName BarrierOpen RangeOpen NoClash OwnDomainFree; decide +kernel

theorem wit_arrivals : arrive 0 1 0 (barrierOf barred 0x2000) = some { exp := 2, pend := 2, next := 0, phase := 2, flg := 5, own := 0, ft := 0 } ∧
    arrive 0 3 0 (barrierOf barred 0x2000) = none ∧ arrive 0 1 1 (barrierOf barred 0x2000) = none ∧ (hereDie barred).time.ftime < 2 ^ 64 ∧
    (∀ y ∈ (hereDie barred).acc, y.w ≠ me barred) ∧ (barrierOf barred 0x2000).flg / 4 % 2 = 1 := by
  decide +kernel

theorem wit_barrierWait : Ready barred [rcSrc (.g 24)] [] (.g 1) ∧ BarrierName barred 0xFFFF00002000 true ∧
    BarrierOpen (takenAll barred [rcSrc (.g 24)]) 0xFFFF00002000 false ∧ phaseDone (barrierOf barred 0x2000) 0xFFFF ∧ phaseDone (barrierOf barred 0x2000) 0x8000 ∧
    ¬ phaseDone (barrierOf barred 0x2000) 0 := by
  unfold Ready BarrierName BarrierOpen RangeOpen NoClash OwnDomainFree phaseDone; decide +kernel

/-! ### Witnesses: capabilities and Carters (04 R111; 08) -/

/-- c6 a data capability of [0x1000, 0x2000) that may be derived from; g20 = 64, g21 = 4097. -/
def derivable : State := withCtx (withG regs [(20, 64), (21, 4097), (22, 2)]) fun c => { c with acc := { c.acc with c :=
  [(6, mkCap 0 0x1000 0x1FFF 0 0xFF 0 0x1000 true), (7, mkCap 0 0x1000 0x1FFF 0 0xDF 0 0x1000 true)] } }

theorem wit_capabilities : Quiet derivable ∧ pendingC derivable (me derivable) 6 = false ∧ Ready derivable [.g 20] [] (.g 1) ∧
    (capReg derivable 6).tag = true ∧ (cPerm (capReg derivable 6)).testBit 5 = true ∧ (cPerm (capReg derivable 7)).testBit 5 = false ∧
    (capReg derivable 0).tag = false ∧ cbndFind (cCursor (capReg derivable 6) % 2 ^ 54) 64 = some (0, 0x1000, 0x103F) ∧
    cBase (capReg derivable 6) ≤ 0x1000 ∧ 0x1040 ≤ cEnd (capReg derivable 6) ∧
    (match cbndFind (cCursor (capReg derivable 6) % 2 ^ 54) 4097 with | some (e, _, top) => decide (cEnd (capReg derivable 6) < (top + 1) * 2 ^ e) | none => false) = true ∧
    (srcVal derivable (.g 22)).toNat = 2 ∧ capF (capReg derivable 6) 106 16 ≤ capF (capReg derivable 6) 90 16 := by
  unfold Quiet Ready; decide +kernel

theorem wit_neverAdd : capForm (.cbnd 1 6 (.g 20)) = true ∧ after (.cbnd 1 6 (.g 20)) derivable (fun t => (capReg t 1).tag && cEnd (capReg t 1) == 0x1040) = true := by
  decide +kernel

/-- g20 the flags word 0, g21 the length word: 4096 bytes at 0x1000; channel 5 is for Carter 0; c8 a tile of die 0 with every permission, for which there
is a permit, c9 one without; die 0's HBM holds 64 bytes to copy. -/
def copying : State := withCtx (withCh (withG (withHbm regs 0x3000 (leBytes 64 0xABCDEF)) [(20, 0), (21, 0x1000 + 4096 * 2 ^ 24), (22, 0x3000), (24, 0x1000 + 4096 * 2 ^ 24 + 2 ^ 48)]) 5 0x130 []) fun c =>
  { c with
    acc := { c.acc with c := [(8, mkCap 0 0 65535 1 0xFF 0 0x4000 true), (9, mkCap 0 0 65535 1 0xFF 0 0x5000 true)] }
    permits := [{ die := 0, core := 1, gtag := 0, addr := 0x4000, launch := 0, csel := false, cctx := 0, count := 1 }] }

theorem wit_copies : Quiet copying ∧ Ready copying [.g 20, .g 21] [] (.g 0) ∧ Ready copying [.g 20, .g 21, .g 22] [] (.g 0) ∧
    CarterOpen copying 0 { cmdOf copying (.cpy 20 22 21 0 false false) .cpy 20 21 0 false with a := 0x3000 } ∧
    CarterOpen copying 0 { cmdOf copying (.cpym 20 22 21 0 false false) .cpym 20 21 0 false with a := 0x3000 } ∧
    chEn (getChan (here copying) 5) = true ∧ chCons (getChan (here copying) 5) = 3 ∧
    badOffset (here copying) 0 24 = none ∧ NoClash copying 0 24 false ∧
    (match (translateRange copying 0 (.core 0) (here copying).dbg.xctx 0x3000 mayLoad (granules 0x3000 4096)).2 with | .ok l => l.length == 1 | .error _ => false) = true := by
  unfold Quiet Ready CarterOpen NoClash OwnDomainFree; decide +kernel

theorem wit_copiesGathered : CarterOpen copying 0 { cmdOf copying (.cpyg 20 5 24 0 false false) .cpyg 20 24 0 false with ch := 5 } := by
  unfold CarterOpen; decide +kernel

theorem wit_marks : ∀ j, spMark (hereCore copying) j = 0 := by
  have h : (hereCore copying).spErr = [] := by decide +kernel
  intro j; simp [spMark, h, spGet, sectorMark]

theorem wit_transfers : pendingC copying (me copying) 8 = false ∧ TileCap (capReg copying 8) 4096 0 ∧ TileCap (capReg copying 8) 4096 3 ∧
    CarterOpen copying 1 { cmdOf copying (.tsend 20 8 21 0 true false) .tsend 20 21 0 false with cap := capReg copying 8 } ∧
    cCursor (capReg copying 8) % 4096 = 0 ∧ (permitFor copying (capReg copying 8)).isSome = true ∧ permitFor copying (capReg copying 9) = none := by
  unfold TileCap CarterOpen; decide +kernel

/-- One command is outstanding on C0, half done. -/
def aCopy : Cmd := { kind := .cpy, l := 0x1000 + 128 * 2 ^ 24, a := 0x3000, seen := true, done := 32, pages := [(0, 2 ^ 36)] }

def carting (q : Cmd) : State := withEv (withCtx copying fun c => { c with c0 := { q := [q] } }) { w := w0, n := 1 }

theorem wit_copyWaits : Quiet (carting aCopy) ∧ Ready (carting aCopy) [rcSrc (.g 0)] [] (.g 1) ∧ (here (carting aCopy)).c0.q.length = 1 ∧
    (1 : Int) ≤ (1#13).toInt ∧ (0#13).toInt < 1 ∧ (16#13).toInt ≤ 16 := by
  unfold Quiet Ready; decide +kernel
/-! ### Witnesses: Carters at work, control registers, events (08, 04, 14) -/

/-- The state an instruction makes. -/
def made (i : Instr) (s : State) : State :=
  match exec i s with
  | .next t => t
  | _ => s

/-- The copy of `copying` under way, one sector of it moved. -/
def copied : State := withEv (withCtx (made (.cpy 20 22 21 0 false false) copying) fun c => { c with
  c0 := { c.c0 with q := c.c0.q.map fun q => { q with done := 32, seen := true, started := true } } }) { w := w0, n := 1 }

def headCmd (s : State) : Cmd := (Claims.queueOf (evCtx s) 0).q.headD { kind := .cpy }

theorem wit_carterHead : EvMoves copied ∧ HeadIs copied (headCmd copied) ∧ (headCmd copied).done = 32 := by
  unfold EvMoves HeadIs; decide +kernel

theorem wit_carterCopyIn : CopyIn copied (headCmd copied) ((cmdPage (getDie copied 0) (headCmd copied) 0x3020).getD { asid := 0, base := 0, log := 0, pte := 0 }) := by
  unfold CopyIn; decide +kernel

theorem wit_carterMove : after .carterCommandStart copied (fun t => spByte (getCore t w0) 0x1020 == 0 && (Claims.queueOf (ctx t) 0).q.map Cmd.done == [64]) = true := by
  decide +kernel

/-- A command of C0 that has moved all, one that has failed, a CPYM that waits for room in the injection queue. -/
theorem wit_carterEnds : (∀ q ∈ [{ aCopy with moved := true }, { aCopy with fail := 0x0F }, { aCopy with kind := .cpym, moved := true, wait := 2 }],
      HeadIs (carting q) q ∧ whoOk (carting q) w0 = true ∧ ctxMoves (carting q) w0 = true ∧ quietDie (getDie (carting q) 0) = true) ∧
    (evCtx (carting aCopy)).mill.injq.length < 4 := by
  unfold HeadIs; decide +kernel

/-- g20 = 1; events 1 and 4 are pending, 4 is masked in. -/
def csrs : State := withCtx (withG regs [(20, 1), (21, 4), (22, 2 ^ 16), (23, 2), (24, 2 ^ 32), (25, 5), (26, 2 ^ 32 + 1)]) fun c => { c with csr := { c.csr with evmask := 0x10, evpend := 0x12 } }

theorem wit_csrReads : Quiet csrs ∧ Ready csrs [] [] (.g 1) ∧ mayRead csrs 0x19 ∧ mayRead csrs 0x800 ∧ mayRead (inSys csrs) 0x1990 ∧ (0x19, 0x12) ∈ csrHeld (here csrs) := by
  unfold Quiet Ready mayRead; decide +kernel

theorem wit_csrWrites : Quiet (inSys csrs) ∧ Ready (inSys csrs) [rcSrc (.g 20)] [] (.g 1) ∧ mayWrite (inSys csrs) 0x19 ∧ mayWrite (inSys csrs) 0x1006 ∧
    mayWrite (inSys csrs) 3 ∧ mayWrite csrs 4 ∧ mayWrite csrs 0x20 ∧ (hereCore (inSys csrs)).dbgctl.getLsbD 1 = false ∧
    after (.csrw (.g 1) (.g 0) 0x20) csrs (fun t => (here t).csr.chlim == 0xFFFFFFFF) = true := by
  unfold Quiet Ready mayWrite mayRead; decide +kernel

theorem wit_csrTraps : Ready csrs [rcSrc (.g 20)] [] (.g 1) ∧ Ready csrs [] [] (.g 1) ∧ csrNamed 5 = false ∧ csrNamed 0x1007 = true ∧ 2 ≤ 0x1007 / 2048 % 4 ∧
    (here csrs).acc.sys = false ∧ csrNamed 0x801 = true ∧ 0x801 / 2048 % 2 = 1 := by
  unfold Ready; decide +kernel

theorem wit_events : Quiet csrs ∧ Ready csrs [rcSrc (.g 21)] [] (.g 1) ∧ 3 < (srcVal csrs (rcSrc (.g 21))).toNat ∧ srcVal csrs (rcSrc (.g 20)) = 1 ∧
    (here csrs).csr.evpend &&& (here csrs).csr.evmask = 0x10 ∧ (here regs).csr.evmask = 0 ∧ ((srcVal csrs (rcSrc (.g 0))).toNat, (0x03010303 : Word)) ∈ featLeaf csrs := by
  unfold Quiet Ready; decide +kernel

theorem wit_eventsWait : let s := withCtx csrs fun c => { c with csr := { c.csr with evpend := 2 } }
    (here s).csr.evmask ≠ 0 ∧ (here s).csr.evpend &&& (here s).csr.evmask = 0 ∧ Ready s [] [] (.g 1) := by
  unfold Ready; decide +kernel

theorem wit_markers : Quiet csrs ∧ Ready csrs [.g 20] [] (.g 0) ∧ (hereDie csrs).trace.trcctl.getLsbD 0 = false ∧ Ready csrs [.g 20] [] (.g 1) ∧
    (here csrs).acc.sys = false ∧ (here csrs).csr.snj = false ∧ (here (inSys csrs)).acc.sys = true ∧ (hereDie csrs).trace.snapPend = false ∧
    (srcVal csrs (.g 20)).toNat + 16 < 2 ^ 64 ∧ (hereDie csrs).time.ftime + 272 < 2 ^ 64 ∧
    after (.snap (.g 1) (.g 20)) (inSys csrs) (fun t => readG (here t) 1 == 256) = true := by
  unfold Quiet Ready; decide +kernel

theorem wit_tlbi : Quiet (inSys csrs) ∧ Ready (inSys csrs) [rcSrc (.g 20), rcSrc (.g 22)] [] (.g 0) ∧ (srcVal (taken (inSys csrs) (.g 20)) (.g 22)).toNat < 2 ^ 18 ∧
    (srcVal (taken (inSys csrs) (.g 20)) (.g 22)).toNat / 2 ^ 16 ≠ 3 ∧ (∀ x ∈ (hereDie csrs).acc, x.w ≠ me csrs) ∧ (∀ x ∈ (hereDie csrs).tlb.tlbis, x.w ≠ me csrs) ∧
    (srcVal csrs (.g 24)).toNat < 2 ^ 35 ∧ (srcVal csrs (.g 24)).toNat % 2 ^ 32 = 0 ∧ (srcVal csrs (.g 26)).toNat < 2 ^ 35 ∧
    (srcVal csrs (.g 26)).toNat % 2 ^ 32 ≠ 0 ∧ (srcVal csrs (.g 26)).toNat % 2 ^ 32 ≤ 0x1000000 := by
  unfold Quiet Ready; decide +kernel

/-- A TLBI under way with nothing left in use; a walk of one granule whose result an access awaits. -/
def invalidating : State := withEv (made (.tlbi (.g 20) (.g 22)) (inSys csrs)) { w := w0, k := 0 }

def walking : State := withEv (made (.tpre (.g 1) (.g 10) (.g 26)) (withG csrs [(10, 0x1000)])) { w := w0, k := 0 }

theorem wit_tlbiRetire : (match (getDie invalidating 0).tlb.tlbis with
      | [o] => o.w.die == 0 && tlbiDone (getDie invalidating 0) o && ctxMoves invalidating o.w && (getCtx invalidating o.w).acc.stat.st == .run &&
        (getCtx invalidating o.w).acc.pc == o.pc && (getCtx invalidating o.w).acc.loops.isEmpty
      | _ => false) = true ∧
    after .tlbiRetire invalidating (fun t => (getDie t 0).tlb.tlbis.isEmpty && (ctx t).acc.pc == 0x20004) = true := by
  decide +kernel

theorem wit_walk : (match (getDie walking 0).tlb.walks with
      | [q] => decide (q.left ≤ 1) && (accAt (getDie walking 0) q.id).isSome && !(xlWaits walking 0 (.core 0) q.xctx q.va) && (translate walking 0 (.core 0) q.xctx q.va).2.isSome
      | _ => false) = true ∧
    after .translationWalk walking (fun t => (getDie t 0).tlb.walks.isEmpty && (getDie t 0).acc.isEmpty) = true := by
  decide +kernel

theorem wit_halt : Quiet csrs ∧ Ready csrs [rcSrc (.g 0)] [] (.g 0) ∧ (here csrs).acc.sys = false ∧ (here (inSys csrs)).acc.sys = true ∧
    128 ≤ (srcVal csrs (rcSrc (.g 22))).toNat ∧ (srcVal csrs (rcSrc (.g 0))).toNat < 64 ∧ (getCtx csrs w0).job.isSome = true ∧ whoOk csrs csrs.ev.w = true := by
  unfold Quiet Ready; decide +kernel

/-- An event that writes `v` to register `k`, the Loom stopped. -/
def writing (k : Nat) (v : Word) : State :=
  withEv (withDie (withCtx (inSys regs) fun c => { c with loom := { c.loom with stat := { c.loom.stat with st := .stop } } }) fun x => { x with
    trace := { x.trace with rgbase := [(4, 0x10010)] } }) { w := w0, k := k, v := v }

theorem wit_registerWrites : whoOk (writing 1 0x20) w0 = true ∧ (writing 1 0x20).ev.n = 0 ∧ (ctx (writing 1 0x20)).loom.stat.st = .stop ∧
    (0x20 : Word).getLsbD 5 = true ∧ (0x20 : Word).getLsbD 4 = false ∧ (ctx (writing 1 0x20)).acc.sys = true ∧ (ctx regs).loom.stat.st ≠ .stop ∧
    (getCore (writing 0x1006 0) w0).dbgctl.getLsbD 1 = false ∧ (0x10010 : Word).toNat % 64 = 16 ∧ (0x40022 : Word).toNat % 64 = 34 ∧
    (0x10010 : Word).toNat / 2 ^ 16 % 2 ^ 36 * 2 ^ 16 % 2 ^ 16 = 0 ∧ (0x40 : Nat) < ringSize (getDie (writing 0x1134 0x40) 0) 4 ∧ 0x40 % ringRec 4 = 0 := by
  decide +kernel

theorem wit_registerWrites_run : after .statusWordWrite (writing 1 0x20) (fun t => (ctx t).loom.stat.st == .run) = true ∧
    after .streamPcWrite (writing 3 0x44) (fun t => (ctx t).loom.pc == 0x44) = true ∧ after .rgbaseWrite (writing 0x112C 0x20010) (fun t => ringBase (getDie t 0) 4 == 0x20000) = true ∧
    after .rgrdpWrite (writing 0x1134 0x40) (fun t => spGet 0 (getDie t 0).trace.rgrdp 4 == 0x40) = true ∧
    after .dbgctlWrite (writing 0x1100 0xFF) (fun t => (getCore t w0).dbgctl == 7) = true ∧
    after .evselWrite (writing 0x114F 0xFFFFFFFFFFFFFFFF) (fun t => (spGet 0 (getDie t 0).trace.evsel 15).toNat % 2 ^ 42 == 2 ^ 42 - 1) = true := by
  decide +kernel
/-! ### Witnesses: bookings, remote operations, bundles, contexts (14, 18, 13) -/

/-- Booking 1 of generation 1 with one use, on the Mill, in a state; g20 its handle, g21 a handle that names none, g22 = 1, g23 = 8. -/
def bookings (st : BkState) (u : Use) : State := withDie (withG regs [(20, 65), (21, 129), (22, 1), (23, 8)]) fun x => { x with
  reeve := { x.reeve with bks := [(1, { st := st, gen := 1, prio := 3, uses := [u], job := {} })] } }

theorem wit_bookingNames : ∀ st ∈ [BkState.queued, .preparing, .committing, .booked, .running],
    Names (takenAll (bookings st {}) [.g 20, .g 0]) 65 1 (getBk (hereDie (bookings st {})) 1) := by
  intro st h
  simp only [List.mem_cons, List.not_mem_nil, or_false] at h
  rcases h with rfl | rfl | rfl | rfl | rfl <;> exact ⟨by decide, by decide, by decide, by decide +kernel, by decide +kernel, by decide +kernel, .inr ⟨by decide +kernel, {}, by decide +kernel, by decide +kernel⟩, by decide +kernel⟩

theorem wit_bookingNamesNone : ∀ k q, ¬ Names (takenAll (bookings .queued {}) [.g 21, .g 0]) 129 k q := by
  rintro k q ⟨_, _, rfl, rfl, h, _⟩
  exact h (by decide +kernel)

theorem wit_bookingQueries : let s := bookings .queued {}
    Quiet s ∧ Ready s [.g 20, rcSrc (.g 23)] [] (.g 1) ∧ (readG (here s) 20).toNat < 2 ^ 20 ∧ (srcVal s (rcSrc (.g 23))).toNat ≤ 8 ∧
    (srcVal s (rcSrc (.g 22))).toNat = 1 ∧ Ready s [.g 20] [] (.g 1) ∧ NoOtherTask s 1 ∧ 2 ^ 20 ≤ (readG (here s) 5).toNat ∧
    after (.bqry 1 20 (.g 0)) s (fun t => (readG (here t) 1).toNat == 2 ^ 63 + 2 ^ 55 + 9) = true := by
  unfold Quiet Ready NoOtherTask; decide +kernel

theorem wit_bookingEnds : let s := bookings .running { cls := 1, pinst := 0, placed := true, started := true, gate := true, slots := [5] }
    (getBk (hereDie s) 1).uses.length = 1 ∧ ((getBk (hereDie s) 1).uses.getD 0 {}).ended = false ∧
    (((getBk (hereDie (bookings .queued { ended := true })) 1).uses.getD 0 {}).ended = true) ∧
    after (.bdone 1 20 (.g 0)) (bookings .queued { ended := true }) (fun t => readG (here t) 1 == 1) = true ∧
    after (.bqry 1 20 (.g 0)) (bookings .running { ended := true }) (fun t => readG (here t) 1 == 0) = true ∧
    after (.bcan 1 20) s (fun t => readG (here t) 1 == 1) = true ∧ after (.bdone 1 20 (.g 0)) s (fun t => readG (here t) 1 == 0) = true := by
  decide +kernel

/-- A booked job's copy still runs for a use of its booking. -/
theorem wit_bookingCloses : let s := withCtx (bookings .running { cls := 1, pinst := 0, placed := true, started := true, gate := true, slots := [5] }) fun c => { c with
      job := some { bkd := true, handle := 65 }, c0 := { q := [{ aCopy with started := true }] } }
    useBusy (takenAll s [.g 20, .g 0]) 0 1 0 false = true ∧ after (.bdone 1 20 (.g 0)) s (fun t =>
      ((getBk (hereDie t) 1).uses.getD 0 {}).closing && !((getBk (hereDie t) 1).uses.getD 0 {}).gate) = true := by
  decide +kernel

/-- At 0x6000 a task of one use of the Mill for 64 slots, PRIO 1, its entry point 0x20000; at 0x6200 the same at PRIO 7. -/
def taskBytes (prio : Nat) : List Byte := leBytes 512 (1 + 2 ^ 8 + prio * 2 ^ 16 + 0x20000 * 2 ^ 192 + 64 * 2 ^ 32 * 2 ^ 512)

def tasks : State := withG (withHbm (withHbm regs 0x6000 (taskBytes 1)) 0x6200 (taskBytes 7)) [(20, 0x6000), (21, 0x6200)]

theorem wit_book : Quiet tasks ∧ Ready tasks [.g 20] [] (.g 1) ∧ (readG (here tasks) 2).toNat % 64 ≠ 0 ∧ leAt (leBytes 512 0) 0 1 ≠ 1 ∧
    taskOf 0 (leBytes 512 1) = none ∧ (taskOf 0 (taskBytes 1)).map Booking.prio = some 1 ∧ (taskOf 0 (taskBytes 7)).map Booking.prio = some 7 ∧
    (taskOf 0 (taskBytes 1)).map Booking.isGang = some false ∧ (taskOf 0 (taskBytes 1)).map Booking.regs = some [] ∧ (here tasks).acc.sys = false := by
  unfold Quiet Ready; decide +kernel

/-- The list that a translation of a range gives. -/
def okList {E : Type} (x : State × Except E (List Xl)) : List Xl :=
  match x.2 with
  | .ok l => l
  | .error _ => []

theorem okList_eq {E : Type} {x : State × Except E (List Xl)} (h : okList x ≠ []) : x = (x.1, .ok (okList x)) := by
  obtain ⟨s, _ | l⟩ := x
  · exact absurd rfl h
  · rfl

def taskPages : State × Except (Nat × Word) (List Xl) := translateRange tasks 0 (.access 0) (here tasks).dbg.xctx 0x6000 mayLoad (granules 0x6000 512)

/-- The state once the caches have been looked at for the task's bytes. -/
def taskRead : State := ((pieces 0x6000 512 (granules 0x6000 512)).zip (okList taskPages)).foldl (fun u p =>
  cacheLook (physMend u 0 p.2.sp p.2.pa p.1.2) 0 0 p.2.sp p.2.pa p.1.2 (pteCA p.2.pte && !(pteBN p.2.pte))) taskPages.1

theorem wit_bookReads : ReadsBytes tasks 0x6000 512 taskRead (taskBytes 1) := by
  refine ⟨taskPages.1, okList taskPages, okList_eq (by decide +kernel), by decide +kernel, by decide +kernel, by decide +kernel, by decide +kernel, by decide +kernel⟩

theorem wit_bookGoes : after (.book 1 20) tasks (fun t => (here t).acc.pc == 0x20004 && (hereDie t).acc.length == 1) = true ∧
    after (.book 1 21) tasks (fun t => readG (here t) 1 == 6) = true := by decide +kernel

/-- Every capability of `caps` names die 0; kinds 0, 1, 2, 4 are c1, c3, c4, c5. -/
theorem wit_remote : Quiet caps ∧ CapReady caps 1 ∧ exportAt (capReg caps 1) 0 8 = 0x1000 ∧ Egress (capReg caps 1) (exportAt (capReg caps 1) 0 8) [0, 3, 4] 0 8 ∧
    Egress (capReg caps 1) (exportAt (capReg caps 1) 0 8) [0, 3, 4] 1 8 ∧ Ready caps [] [] (.ch 4) ∧ (capReg caps 0).tag = false ∧
    (capReg caps 3).tag = true ∧ cKind (capReg caps 3) ∉ [0, 3, 4] ∧ (exportAt (capReg derivable 6) 31 8).toNat + 8 ≤ cEnd (capReg derivable 6) ∧
    cEnd (capReg derivable 6) < (exportAt (capReg derivable 6) 31 8).toNat + 4096 ∧ (exportAt (capReg derivable 6) 32 8).toNat < cBase (capReg derivable 6) := by
  unfold Quiet Ready CapReady Egress; decide +kernel

theorem wit_remoteAtomics : Ready caps [.g 2] [] (.g 1) ∧
    cKind (capReg caps 1) = 0 ∧ Egress (capReg caps 1) 0x1000 [0] 2 8 ∧ cKind (capReg caps 4) = 2 ∧ Egress (capReg caps 4) 0x1000 [2] 2 8 ∧
    (∀ y ∈ (hereDie caps).acc, y.w ≠ me caps) ∧ (capReg caps 4).tag = true :=
  ⟨by unfold Ready; decide +kernel, by unfold Egress; decide +kernel⟩

/-- Bundle context 1 with a header H. -/
def bundled (h : Nat) : State := withCtx (withG caps [(20, 0), (21, 2 ^ 23), (22, 2 ^ 24), (23, 2 ^ 24 + 2 ^ 29), (24, 16), (25, 17)]) fun c => { c with
  bds := [(1, { w := ((List.range 4).map fun k => (k, BitVec.ofNat 64 (h / 2 ^ (12 * k) % 2 ^ 12 * 2 ^ 52))).filter fun p => p.2 != 0 })] }

theorem wit_bundleOpen : Quiet (bundled 0) ∧ Ready (bundled 0) [.g 20] [] (.g 0) ∧ bndsBusy (bundled 0) (me (bundled 0)) 1 = false ∧ header (bundled 0) 1 = 0 ∧
    headState (header (bundled 0) 1) ≠ 3 ∧ headState (header (bundled (3 * 2 ^ 21)) 1) = 3 ∧ headState (header (bundled (2 ^ 21 + 15)) 1) = 1 ∧
    headLines (header (bundled (2 ^ 21 + 15)) 1) = 15 ∧ (readG (here (bundled 0)) 21).toNat / 2 ^ 23 % 4 = 1 ∧
    (readG (here (bundled 0)) 23).toNat / 2 ^ 23 % 4 = 2 ∧ (readG (here (bundled 0)) 23).toNat < 2 ^ 30 ∧ AreaOk (bundled 0) 0 2048 ∧ AreaOk (bundled 0) 0 2176 ∧
    Egress (capReg (bundled 0) 1) 0x1000 [0] 4 128 ∧ CapReady (bundled 0) 1 := by
  unfold Quiet Ready AreaOk Egress CapReady; decide +kernel

theorem wit_bundleCommit : BundleOpen (bundled (2 ^ 21 + 1)) 1 1 ∧ BundleOpen (bundled (2 ^ 22 + 16)) 1 2 ∧ Ready (bundled (2 ^ 22 + 16)) [] [] (.g 1) ∧
    NoClash (bundled (2 ^ 22 + 16)) 0 2176 true ∧
    (let q := bndcCmd (bundled (2 ^ 21 + 1)) w0 1 0
     gateFor (bundled (2 ^ 21 + 1)) w0 q.use 1 0 false = .unbooked ∧ NoClash (bundled (2 ^ 21 + 1)) (lenOff q.l) (lenN q.l) false) ∧
    Ready (bundled 0) [.g 24] [] (.g 1) ∧ (srcVal (bundled 0) (.g 24)).toNat = 16 ∧ 16 < (srcVal (bundled 0) (.g 25)).toNat := by
  unfold BundleOpen NoClash OwnDomainFree Ready headBad; decide +kernel

theorem wit_bundleRuns : after (.bndo 1 21) (bundled 0) (fun t => header t 1 == 2 ^ 21) = true ∧ after (.bnds 1 1) (bundled (2 ^ 21 + 15)) (fun t => header t 1 == 2 ^ 21 + 16) = true ∧
    after (.bndc 2 1) (bundled (2 ^ 21 + 1)) (fun t => headState (header t 1) == 3) = true ∧ after (.bndr 2 1) (bundled (2 ^ 22 + 1)) (fun t => headState (header t 1) == 3) = true := by
  decide +kernel

/-- g20 an area, g21 names context 1 of core 0 with one page of room, g22 the same without; system mode. -/
def saver (j : Option Job) : State := modCtx (inSys (withG regs [(20, 0x40000), (21, 32 + 2 ^ 16), (22, 32)])) ⟨0, 0, 1⟩ fun c => { c with job := j }

theorem wit_ctxs : Quiet (saver none) ∧ Ready (saver none) [rcSrc (.g 20), rcSrc (.g 21)] [] (.g 1) ∧ (here regs).acc.sys = false ∧
    targetCtx (saver none) (srcVal (saver none) (.g 21)) = ⟨0, 0, 1⟩ ∧ targetCtx (saver none) (srcVal (saver none) (.g 21)) ≠ me (saver none) ∧
    (srcVal (saver none) (.g 21)).toNat / 2 ^ 6 % 2 ^ 10 = 0 ∧ (srcVal (saver none) (.g 2)).toNat % 4096 ≠ 0 ∧ (getCtx (saver none) ⟨0, 0, 1⟩).job = none ∧
    (getCtx (saver (some {})) ⟨0, 0, 1⟩).job ≠ none ∧ (getCtx (saver (some {})) ⟨0, 0, 1⟩).saving = none ∧
    (match (areaRuns (saver none) w0 0x40000 4096 fun e => e.getLsbD 3).2 with | .ok l => l == [(0x40000, 4096)] | .error _ => false) = true := by
  unfold Quiet Ready; decide +kernel
/-! ### Witnesses: the Loom (06) -/

/-- Two rows of eight FP32 elements: v0 all 1.0, v1 all 2.0; vg1 = 3, vg2 the shape, vg3 = 0x8000, vg4 TOPK's word; p1 = 5; channel 2 is the Loom's to take
from, channel 4 its to fill; 0x8000 holds an element; descriptor 1 walks 0x8000. -/
def shapeW : Word := 2 * 2 ^ 32 + 8 * 2 ^ 16 + 2

def rep (n v : Nat) : BitVec 32768 := BitVec.ofNat 32768 ((List.range n).foldl (fun x _ => x * 2 ^ 32 + v) 0)

def strmImg (fl : Nat) : BitVec 512 := BitVec.ofNat 512 (0x8000 + 16 * 2 ^ 64 + 2 ^ 128 + 2 ^ 192 + 2 ^ 256 + fl)

def lm : State := withCore (withCh (withCh (withCtx loomBase fun c => { c with
    loom := { c.loom with shape := shapeW, v := [(0, rep 16 0x3F800000), (1, rep 16 0x40000000)], vg := [(1, 3), (2, shapeW), (3, 0x8000), (4, 2 ^ 48 * 2), (5, 9)], p := [(1, 5)] } })
    2 0x110 [0x40400000]) 4 0x101 []) fun y => spWrite y 0x8000 (leBytes 4 0x3F000000)

def lf : LForm := { modf := 0, b := .vreg 1 0 0 0, a := .vreg 0 0 0 0, d := .vreg 2 0 0 0, sat := false, rnd := .rne, fmt := .fp32, pred := 0 }

/-- Element `e` of v register `k`. -/
def elem (s : State) (k e : Nat) : Nat := (spGet 0 (here s).loom.v k).toNat / 2 ^ (32 * e) % 2 ^ 32

theorem ready_of {s : State} {p : Plan} (hi : ∀ i ∈ p.ins, inReady s i) (ho : ∀ o ∈ p.outs, outReady s o) (hp : p.push = none) : PlanReady s p :=
  ⟨hi, ho, fun n m h => by rw [hp] at h; cases h⟩

theorem wit_loomElements : Quiet lm ∧ (Instr.vfma lf).wf = true ∧
    ∃ p, elementPlan lm (.vfma lf) = some p ∧ PlanReady lm p := by
  refine ⟨by unfold Quiet; decide +kernel, by decide +kernel, _, rfl, ready_of ?_ ?_ rfl⟩
  · intro i hi
    simp only [arith, each, List.map, List.mem_cons, List.not_mem_nil, or_false] at hi
    rcases hi with rfl | rfl | rfl <;> show _ ≤ _ <;> decide +kernel
  · intro o ho
    simp only [arith, each, List.mem_cons, List.not_mem_nil, or_false] at ho
    subst ho; show _ ≤ _; decide +kernel

theorem wit_loomElements_run : after (.vadd lf) lm (fun t => elem t 2 0 == 0x40400000 && elem t 2 15 == 0x40400000 && elem t 2 16 == 0 && (here t).loom.pc == 0x2000C) = true ∧
    after (.vadd { lf with pred := 1 }) lm (fun t => elem t 2 4 == 0x40400000 && elem t 2 5 == 0) = true ∧
    after (.vmul { lf with b := .chan 2 false }) lm (fun t => elem t 2 3 == 0x40400000 && (getChan (here t) 2).q.isEmpty) = true ∧
    after (.vcmpLt { lf with modf := 2 }) lm (fun t => elem t 2 7 == 0xFFFFFFFF) = true := by decide +kernel

theorem wit_loomGroups : (Instr.vbcstRow { lf with modf := 1, b := .vreg 0 0 0 0 }).wf = true ∧
    ∃ p, groupPlan lm (.vbcstRow { lf with modf := 1, b := .vreg 0 0 0 0 }) = some p ∧ PlanReady lm p := by
  refine ⟨by decide +kernel, _, rfl, ready_of ?_ ?_ rfl⟩
  · intro i hi
    simp only [List.mem_cons, List.not_mem_nil, or_false] at hi
    subst hi; show _ ≤ _; decide +kernel
  · intro o ho
    simp only [List.mem_cons, List.not_mem_nil, or_false] at ho
    subst ho; show _ ≤ _; decide +kernel

/-- A sum over each row of 8 into channel 4; the two largest of 16 by value. -/
theorem wit_loomGroups_run : after (.vredSum { lf with modf := 0x18, b := .vreg 0 0 0 0, d := .chan 4 false }) lm (fun t => (getChan (here t) 4).q.map ChEntry.val == [0x41000000, 0x41000000]) = true ∧
    after (.vtopk { lf with modf := 0x30, b := .const 4, d := .vreg 2 0 0 0 }) lm (fun t => elem t 2 1 == 0x3F800000 && elem t 3 1 == 1) = true := by decide +kernel

theorem wit_loomControl : goodShape shapeW ∧ ¬ goodShape 3 ∧ goodShape (BitVec.ofNat 64 (modField { lf with modf := 0x4000 + 0x200 + 0x37 } 8 2 * 2 ^ 32 +
      2 ^ modField { lf with modf := 0x4000 + 0x200 + 0x37 } 4 4 * 2 ^ 16 + 2 ^ modField { lf with modf := 0x4000 + 0x200 + 0x37 } 0 4)) ∧
    constVal (here lm) (.const 0) = 0 ∧ constVal (here lm) (.const 1) ≠ 0 ∧ (here lm).loom.loops.length < 4 ∧
    branchTaken .ltu (constVal (here lm) (.const 1)) (constVal (here lm) (.const 5)) ∧ ¬ branchTaken .eq (constVal (here lm) (.const 1)) (constVal (here lm) (.const 5)) := by
  unfold goodShape branchTaken; decide +kernel

theorem wit_loomLoopsFull : (here (withCtx lm fun c => { c with loom := { c.loom with loops := List.replicate 4 { start := 0, last := 12, count := 1 } } })).loom.loops.length = 4 := by
  decide +kernel

theorem wit_loomTarget : inSpace ((here lm).loom.pc + BitVec.ofInt 64 ((-5#15).toInt * 12)) := by
  intro k h1 h2
  have h : ∀ j < 64, 55 ≤ j → ((here lm).loom.pc + BitVec.ofInt 64 ((-5#15).toInt * 12)).getLsbD j = ((here lm).loom.pc + BitVec.ofInt 64 ((-5#15).toInt * 12)).getLsbD 54 := by
    decide +kernel
  exact h k h2 h1

theorem loom_open {s : State} {rds wrs : List Nat} (h : s.cur.begins = false ∧ LoomClear s rds wrs) (ht : (hereCore s).tagErr = []) : LoomOpen s rds wrs :=
  ⟨.inr h, tags_good s ht⟩

def ld : LForm := { lf with modf := 3, a := .vreg 0 0 0 0, b := .vreg 0 0 0 0 }

theorem wit_loomMemory : (here lm).dbg.wpb = [] ∧ (Instr.vld ld).wf = true ∧ fmtBits ld.fmt ≤ 8 * 2 ^ ((here lm).loom.shape.toNat / 2 ^ 32 % 4) ∧
    baseOf lm ld % 4 = 0 ∧ badOffset (here lm) (baseOf lm ld) 64 = none ∧
    NoPoison lm ((List.range 16).map fun e => 0x8000 * 8 + e * 32) ∧ NoLoss lm ∧ after (.vld ld) lm (fun t => elem t 2 0 == 0x3F000000) = true := by
  unfold NoPoison NoLoss; decide +kernel

theorem wit_loomMemoryOpen : LoomOpen lm ((List.range 16).map fun e => 0x8000 * 8 + e * 32) [] ∧ LoomOpen lm [] ((List.range 16).map fun e => 0x8000 * 8 + e * 32) :=
  ⟨loom_open (by unfold LoomClear ClearAt; decide +kernel) (by decide +kernel), loom_open (by unfold LoomClear ClearAt; decide +kernel) (by decide +kernel)⟩

/-- The turn takes the load only to the start of its phase 2; the Mill has an output over part of it in flight. -/
def begins : State := { lm with cur := { lm.cur with begins := true } }

def overlapped : State := withCtx begins fun c => { c with mill := { c.mill with flight := [{ op := 7, f := mform0, inj := false, step := 0, stage := .drain, out := [1025] }] } }

theorem wit_loomBegins : Quiet begins ∧ begins.cur.begins = true ∧ (here begins).loom.fly = none ∧ chosen begins ld ≠ 0 ∧
    LoomClear begins ((List.range 16).map fun e => 0x8000 * 8 + e * 32) [] ∧ LoomClear begins [] ((List.range 16).map fun e => 0x8000 * 8 + e * 32) ∧
    after (.vld ld) begins (fun t => (here t).loom.fly == some { i := .vld ld, rd := [1024, 1025] } && elem t 2 0 == elem begins 2 0 &&
      after (.vld ld) t (fun u => (here u).loom.fly.isNone && elem u 2 0 == 0x3F000000)) = true := by
  unfold Quiet LoomClear ClearAt; decide +kernel

theorem wit_loomClash : Quiet overlapped ∧ (here overlapped).loom.fly = none ∧ 1025 ∈ posSectors ((List.range 16).map fun e => 0x8000 * 8 + e * 32) ∧
    (¬ ClearAt overlapped 1025 false) ∧ ClearAt overlapped 1024 true ∧
    after (.vld ld) overlapped (fun t => (getStat (here t) .loom).st == .stop && (getStat (here t) .loom).cause == 0x0C) = true := by
  unfold Quiet ClearAt; decide +kernel

/-- Gather and scatter by 32-bit indexes in v3, all 0. -/
def gf : LForm := { lf with modf := 3 + 0x10, a := .vreg 3 0 0 0, b := .vreg 0 0 0 0 }

def sf : LForm := { lf with modf := 3 + 0x10, a := .vreg 1 0 0 0, b := .vreg 3 0 0 0, d := .vreg 0 0 0 0 }

theorem wit_loomGather : (Instr.vgth gf).wf = true ∧ (Instr.vst { lf with modf := 3, d := .vreg 0 0 0 0, b := .vreg 0 0 0 0 }).wf = true ∧ (Instr.vsct sf).wf = true ∧
    (Instr.vldff { gf with pred := 1 }).wf = true ∧
    (List.range 16).map (indexed lm gf gf.a) = List.replicate 16 0x8000 ∧ OffsetsOk lm 32 (List.replicate 16 0x8000) ∧
    after (.vgth gf) lm (fun t => elem t 2 9 == 0x3F000000) = true ∧ after (.vsct sf) lm (fun t => spByte (hereCore t) 0x8003 == 0x40) = true := by
  unfold OffsetsOk; decide +kernel

/-- A stream source at descriptor 1, a stream destination at descriptor 2. -/
def strm : State := withCtx lm fun c => { c with desc := [(1, some (strmImg 0)), (2, some (strmImg 0))] }

/-- A descriptor image: format, engine, flags of [47:40], counts, and all strides 0: every element at 0x8000. -/
def sdImg (fmt eng fl c0 c1 : Nat) : BitVec 512 :=
  BitVec.ofNat 512 (0x8000 + fmt * 2 ^ 32 + fl * 2 ^ 40 + eng * 2 ^ 48 + c0 * 2 ^ 64 + c1 * 2 ^ 128 + 2 ^ 192 + 2 ^ 256)

/-- Sixteen FP32 elements in a row, for the Loom: descriptor 1 a source that consumes, 2 a destination that produces, 3 a source that wraps. -/
def rowImg (fl : Nat) : BitVec 512 := BitVec.ofNat 512 (0x8000 + fl * 2 ^ 40 + 2 ^ 48 + 16 * 2 ^ 64 + 2 ^ 96 + 2 ^ 128 + 2 ^ 192 + 2 ^ 256)

def rows : State := withCtx lm fun c => { c with desc := [(1, some (rowImg 1)), (2, some (rowImg 2)), (3, some (rowImg 32))] }

def okWalk {E : Type} : Except E Walk1 → Walk1
  | .ok k => k
  | .error _ => { ix := 0, img := 0, wb := 0, els := [] }

def isOk {E A : Type} : Except E A → Bool
  | .ok _ => true
  | .error _ => false

theorem okWalk_eq {E : Type} {x : Except E Walk1} (h : isOk x = true) : x = .ok (okWalk x) := by
  cases x with
  | ok k => rfl
  | error e => cases h

def srcW : Except Nat Walk1 := sdWalk rows (here rows) 1 1 (some .fp32) false 32 16

def dstW : Except Nat Walk1 := sdWalk rows (here rows) 2 1 (some .fp32) true 32 16

theorem wit_streamSource : (Instr.vmov { lf with a := .stream 1, b := .vreg 0 0 0 0 }).wf = true ∧ chosen rows { lf with a := .stream 1 } = 16 ∧
    srcW = .ok (okWalk srcW) ∧ LoomOpen rows ((okWalk srcW).els.map Prod.snd) [] ∧ LeaveTurn rows (okWalk srcW) false ∧ NoPoison rows ((okWalk srcW).els.map Prod.snd) ∧
    sdGrant (okWalk srcW).img = false ∧ sdWfull (okWalk srcW).img = false :=
  ⟨by decide +kernel, by decide +kernel, okWalk_eq (by decide +kernel), loom_open (by unfold LoomClear ClearAt; decide +kernel) (by decide +kernel),
    by unfold LeaveTurn; decide +kernel, by unfold NoPoison; decide +kernel,
    by decide +kernel, by decide +kernel⟩

theorem wit_streamDestination : dstW = .ok (okWalk dstW) ∧ LoomOpen rows [] ((okWalk dstW).els.map Prod.snd) ∧ LeaveTurn rows (okWalk dstW) true ∧
    (∀ j ∈ walkEnters (okWalk dstW), entryFull rows j = false) :=
  ⟨okWalk_eq (by decide +kernel), loom_open (by unfold LoomClear ClearAt; decide +kernel) (by decide +kernel), by unfold LeaveTurn; decide +kernel, by decide +kernel⟩

theorem wit_streams_run :
    after (.vmov { lf with a := .stream 1, b := .vreg 0 0 0 0 }) rows (fun t => elem t 2 0 == 0x3F000000 && elem t 2 1 == 0 && ((getDesc (here t) 1).map sdPos) == some 16 &&
      !(entryFull t 8)) = true ∧
    after (.vmov { lf with a := .vreg 1 0 0 0, b := .vreg 0 0 0 0, d := .stream 2 }) rows (fun t => spByte (hereCore t) 0x803F == 0x40 && entryFull t 8 &&
      ((getDesc (here t) 2).map sdPos) == some 16) = true ∧
    after (.vmov { lf with a := .stream 3, b := .vreg 0 0 0 0 }) rows (fun t => ((getDesc (here t) 3).map sdPos) == some 0) = true := by decide +kernel

/-- VGTH into the stream of descriptor 2, VSCT from that of descriptor 1: indexes in v3, all 0. -/
def gs : LForm := { gf with d := .stream 2 }

def ss : LForm := { sf with a := .stream 1 }

theorem wit_streamsIndexed : (Instr.vgth gs).wf = true ∧ (Instr.vsct ss).wf = true ∧ (List.range 16).map (indexed rows gs gs.a) = List.replicate 16 0x8000 ∧
    (List.range 16).map (indexed rows ss ss.b) = List.replicate 16 0x8000 ∧ OffsetsOk rows 32 (List.replicate 16 0x8000) ∧
    NoPoison rows (List.replicate 16 (8 * 0x8000)) ∧
    after (.vgth gs) rows (fun t => spByte (hereCore t) 0x803F == 0x3F && entryFull t 8 && ((getDesc (here t) 2).map sdPos) == some 16) = true ∧
    after (.vsct ss) rows (fun t => spByte (hereCore t) 0x8003 == 0 && ((getDesc (here t) 1).map sdPos) == some 16) = true := by
  unfold OffsetsOk NoPoison; decide +kernel

theorem wit_streamsIndexedOpen : LoomOpen rows (List.replicate 16 (8 * 0x8000)) ((okWalk dstW).els.map Prod.snd) ∧
    LoomOpen rows ((okWalk srcW).els.map Prod.snd) (List.replicate 16 (8 * 0x8000)) :=
  ⟨loom_open (by unfold LoomClear ClearAt; decide +kernel) (by decide +kernel), loom_open (by unfold LoomClear ClearAt; decide +kernel) (by decide +kernel)⟩

theorem wit_engineFault : Eng.loom ≠ .access ∧ Eng.mill ≠ .access ∧ (0x15 : Nat) < 256 := by decide

/-! ### Witnesses: the Mill (07) -/

/-- Bank 0 holds 1.0 in its cells 0 and 7; mg1 = 3, mg2 = 65536; descriptors 1 and 2 one tile step of E4M3, 3 a bank of FP32, 4 the output of an
epilogue; 5, 6, 7 and 8 those of an MPRO of one pass: codes, scales, zero points, weights. -/
def ml : State := withCtx millBase fun c => { c with
  mill := { c.mill with acc0 := [(0, 0x3F800000), (7, 0x3F800000)], mg := [(1, 3), (2, 65536), (3, 3)] }
  desc := [(1, some (sdImg 3 2 16 4096 1)), (2, some (sdImg 3 2 16 8192 1)), (3, some (sdImg 0 2 16 32768 1)), (4, some (sdImg 0 2 0 32768 1)),
    (5, some (sdImg 6 2 16 4096 1)), (6, some (sdImg 2 2 16 256 1)), (7, some (sdImg 9 2 16 256 1)), (8, some (sdImg 2 2 0 4096 1))] }

/-- MSTEP of E4M3 pairs, two steps, mode 1. -/
def mf : MForm := { mform0 with as := 1, bs := 2, afmt := 3, bfmt := 3, steps := 2, mode := 1 }

theorem wit_millBanks : Quiet ml ∧ bankFree ml false ∧ bankFree ml true ∧ GateLets ml mf 0 ∧ rawFmt mform0.afmt.val = true ∧ rawFmt mf.afmt.val = false ∧
    gateFor (usesEnded ml mf) (me ml) mf.use.val 0 (me ml).core false ≠ .bad ∧
    after (.mclr mform0) ml (fun t => (getBank (here t) false).isEmpty && (here t).mill.pc == (here ml).mill.pc + 24) = true ∧
    after (.mswap mform0) ml (fun t => spGet 0 (getBank (here t) true) 7 == 0x3F800000) = true := by
  unfold Quiet bankFree GateLets; decide +kernel

def mldaF : MForm := { mform0 with as := 3 }

def okOf {E A : Type} : Except E A → Option A
  | .ok a => some a
  | .error _ => none

theorem of_okOf {E A : Type} {x : Except E A} {a : A} (h : okOf x = some a) : x = .ok a := by
  cases x with
  | ok b => exact congrArg _ (Option.some.inj h)
  | error e => cases h

theorem bit0 (d : Img) (h : sdStride d 0 = 0 ∧ sdStride d 1 = 0 ∧ sdStride d 2 = 0 ∧ sdStride d 3 = 0) (wb n : Nat) : sdBit d wb n = 8 * sdBase d := by
  simp [sdBit, h.1, h.2.1, h.2.2.1, h.2.2.2]

theorem take0 (c : Ctx) (d : Img) (wb cnt : Nat) (h : sdStride d 0 = 0 ∧ sdStride d 1 = 0 ∧ sdStride d 2 = 0 ∧ sdStride d 3 = 0)
    (hi : sdInside c d wb 0 = true) (ht : (!(sdWrap d) && decide (sdPos d + cnt > sdTotal d)) = false) : ∃ l, sdTake c d wb cnt = .ok l := by
  have hin : ∀ n, sdInside c d wb n = true := fun n => by
    unfold sdInside at hi ⊢; rw [bit0 d h] at hi ⊢; exact hi
  cases hw : sdWrap d
  · simp [hw] at ht
    simp [sdTake, hw, hin, Nat.not_lt.2 ht]
  · simp [sdTake, hw, hin]

theorem clash0 (c : Ctx) (hq : cmdsOf c = []) (o n : Nat) (w : Bool) : carterClash c o n w = none := by
  simp [carterClash, hq, lowest]

def flat0 (d : Img) : Prop := sdStride d 0 = 0 ∧ sdStride d 1 = 0 ∧ sdStride d 2 = 0 ∧ sdStride d 3 = 0

theorem src0 {s : State} {c : Ctx} {f : MForm} {n code cnt adv : Nat} {e : Bool} {d : Img} (ho : okOf (millOpen s c n code false) = some d)
    (h : flat0 d ∧ sdScf d = 0 ∧ sdInside c d (fmtBits (fmtAt code)) 0 = true ∧ (!(sdWrap d) && decide (sdPos d + cnt > sdTotal d)) = false) :
    ∃ k, millSrc s c f n code cnt adv e = .ok k ∧ k.walk.img = effImg f d ∧ k.enter = e := by
  obtain ⟨l, hl⟩ := take0 c d _ cnt h.1 h.2.2.1 h.2.2.2
  exact ⟨⟨⟨n, effImg f d, fmtBits (fmtAt code), l⟩, adv, e, []⟩, by simp [millSrc, of_okOf ho, h.2.1, hl, scaleOffs], rfl, rfl⟩

theorem out0 {s : State} {c : Ctx} {n code cnt : Nat} {d : Img} (ho : okOf (millOpen s c n code true) = some d)
    (h : flat0 d ∧ sdScf d = 0 ∧ sdInside c d (fmtBits (fmtAt code)) 0 = true ∧ (!(sdWrap d) && decide (sdPos d + cnt > sdTotal d)) = false) :
    ∃ k, millOut s c n code cnt = .ok k ∧ k.img = d := by
  obtain ⟨l, hl⟩ := take0 c d _ cnt h.1 h.2.2.1 h.2.2.2
  exact ⟨⟨n, d, fmtBits (fmtAt code), l⟩, by simp [millOut, of_okOf ho, h.2.1, hl, scaleOffs], rfl⟩

/-- Nothing at the core and in the context has an access in flight, and no tag entry is lost. -/
def Idle (s : State) (w : Who) : Prop :=
  let c := getCtx s w
  let y := getCore s w
  cmdsOf c = [] ∧ c.loom.fly = none ∧ c.acc.fly = none ∧ millUses c false = [] ∧ millUses c true = [] ∧ landUses y = [] ∧ y.tagErr = []

theorem outer0 {s : State} {w : Who} (h : Idle s w) (o n : Nat) (b : Bool) : outerClash (getCore s w) (getCtx s w) o n b = none := by
  obtain ⟨h1, h2, h3, -, -, h6, -⟩ := h
  simp [outerClash, clash0 _ h1, loomUses, accessUses, h2, h3, h6, clashIn, lowest]

theorem free0 {s : State} {w : Who} (h : Idle s w) (a b : List Nat) : RangesFree (getCore s w) (getCtx s w) a b :=
  ⟨fun j _ => by simp [h.2.2.2.1], fun j _ => by simp [h.2.2.2.2.1], fun j _ => outer0 h _ _ _, fun j _ => outer0 h _ _ _⟩

theorem held0 {s : State} {w : Who} (h : Idle s w) : TagsHeld (getCore s w) := fun j => by simp [h.2.2.2.2.2.2, spGet]

theorem open0 {s : State} {w : Who} {ks : List MSrc} (hi : Idle s w)
    (h : ∀ k ∈ ks, sdWfull k.walk.img = false ∧ sdPaz k.walk.img = true ∧ sdCons k.walk.img = false) : SourcesOpen s w ks := by
  refine ⟨fun j hj => ?_, free0 hi _ _, ?_, held0 hi, ?_⟩
  · exfalso
    have : (ks.filter fun k => k.enter && sdWfull k.walk.img) = [] := List.filter_eq_nil_iff.2 fun k hk => by simp [(h k hk).1]
    simp [srcFulls, this] at hj
  · clear hi
    induction ks with
    | nil => rfl
    | cons k t ih => simp [srcsMeet, (h k List.mem_cons_self).2.1, ih fun x hx => h x (List.mem_cons_of_mem _ hx)]
  · have : (ks.map fun k => { k.walk with els := k.walk.els.take k.adv }).filter (fun k => sdCons k.img) = [] :=
      List.filter_eq_nil_iff.2 fun k hk => by obtain ⟨x, hx, rfl⟩ := List.mem_map.1 hk; simp [(h x hx).2.2]
    simp [srcsTurn, leavesTurn, this]

theorem written0 {s : State} {w : Who} {k : Walk1} (hi : Idle s w) (h : sdProd k.img = false) : OutputOpen s w k :=
  ⟨fun hp => by simp [h] at hp, free0 hi _ _, held0 hi⟩

theorem idle_ml : Idle ml (me ml) := by unfold Idle; decide +kernel

theorem wit_mlda : ∃ k, millSrc (begun ml mldaF) (here ml) mldaF 3 0 32768 32768 true = .ok k ∧ SourcesOpen ml (me ml) [k] := by
  obtain ⟨k, hk, hi, _⟩ := src0 (s := begun ml mldaF) (c := here ml) (f := mldaF) (n := 3) (code := 0) (cnt := 32768) (adv := 32768) (e := true)
    (d := sdImg 0 2 16 32768 1) (by decide +kernel) (by unfold flat0; decide +kernel)
  refine ⟨k, hk, open0 idle_ml fun x hx => ?_⟩
  rw [List.mem_singleton.1 hx, hi]; decide +kernel

theorem wit_msta_mepi : ∃ k, millOut (begun ml { mform0 with os := 4 }) (here ml) 4 0 32768 = .ok k ∧ OutputOpen ml (me ml) k ∧
    pathFree (hereCore ml) = true ∧ rawFmt 0 = true ∧ millOutFmt 0 = true := by
  obtain ⟨k, hk, hi⟩ := out0 (s := begun ml { mform0 with os := 4 }) (c := here ml) (n := 4) (code := 0) (cnt := 32768)
    (d := sdImg 0 2 0 32768 1) (by decide +kernel) (by unfold flat0; decide +kernel)
  exact ⟨k, hk, written0 idle_ml (by rw [hi]; decide +kernel), by decide +kernel, rfl, rfl⟩

/-- One pass of a prologue: codes, scales, zero points, and the weights out. -/
def pf : MForm := { mform0 with bs := 5, ss := 6, zs := 7, os := 8, bfmt := 6, ofmt := 2, steps := 1 }

theorem wit_mpro : pf.bfmt.val = 6 ∧ pf.ofmt.val = 2 ∧ flightOf ml = [] ∧ GateLets ml pf 0 ∧
    millFmtBad (here ml) 5 6 = none ∧ millFmtBad (here ml) 6 2 = none ∧ millFmtBad (here ml) 7 9 = none ∧ millFmtBad (here ml) 8 2 = none :=
  ⟨rfl, rfl, by decide +kernel, by unfold GateLets; decide +kernel, by decide +kernel, by decide +kernel, by decide +kernel, by decide +kernel⟩

theorem wit_mpro_walks : ∃ b ss zs k, millSrc (begun ml pf) (here ml) pf 5 6 (1 * 4096) (1 * 4096) true = .ok b ∧
    millSrc (begun ml pf) (here ml) pf 6 2 (256 * ((16 * 1 + 32 - 1) / 32)) (256 * (16 * 1 / 32)) true = .ok ss ∧
    millSrc (begun ml pf) (here ml) pf 7 9 (256 * ((16 * 1 + 32 - 1) / 32)) (256 * (16 * 1 / 32)) true = .ok zs ∧
    millOut (begun ml pf) (here ml) 8 2 (1 * 4096) = .ok k ∧ SourcesOpen ml (me ml) [b, ss, zs] ∧ OutputOpen ml (me ml) k := by
  obtain ⟨b, hb, ib, _⟩ := src0 (s := begun ml pf) (c := here ml) (f := pf) (n := 5) (code := 6) (cnt := 4096) (adv := 4096) (e := true)
    (d := sdImg 6 2 16 4096 1) (by decide +kernel) (by unfold flat0; decide +kernel)
  obtain ⟨x, hx, ix, _⟩ := src0 (s := begun ml pf) (c := here ml) (f := pf) (n := 6) (code := 2) (cnt := 256) (adv := 0) (e := true)
    (d := sdImg 2 2 16 256 1) (by decide +kernel) (by unfold flat0; decide +kernel)
  obtain ⟨z, hz, iz, _⟩ := src0 (s := begun ml pf) (c := here ml) (f := pf) (n := 7) (code := 9) (cnt := 256) (adv := 0) (e := true)
    (d := sdImg 9 2 16 256 1) (by decide +kernel) (by unfold flat0; decide +kernel)
  obtain ⟨k, hk, ik⟩ := out0 (s := begun ml pf) (c := here ml) (n := 8) (code := 2) (cnt := 4096)
    (d := sdImg 2 2 0 4096 1) (by decide +kernel) (by unfold flat0; decide +kernel)
  refine ⟨b, x, z, k, hb, hx, hz, hk, open0 idle_ml fun y hy => ?_,
    written0 idle_ml (by rw [ik]; decide +kernel)⟩
  simp only [List.mem_cons, List.not_mem_nil, or_false] at hy
  rcases hy with rfl | rfl | rfl
  · rw [ib]; decide +kernel
  · rw [ix]; decide +kernel
  · rw [iz]; decide +kernel

/-- With an epilogue to FP32 through descriptor 4. -/
def ef : MForm := { mf with epi := true, os := 4 }

theorem may_start {s : State} {f : MForm} (h : NoLoss s ∧ mstepFmts f = true ∧ bankFree s f.bank ∧ (∀ x ∈ flightOf s, x.stage ≠ .steps) ∧ GateLets s f 32 ∧
    millFmtBad (here s) f.as.val f.afmt.val = none ∧ millFmtBad (here s) f.bs.val f.bfmt.val = none) (hp : f.pro = false) (he : f.epi = false) :
    StepMayStart s f :=
  ⟨h.1, h.2.1, h.2.2.1, h.2.2.2.1, h.2.2.2.2.1, h.2.2.2.2.2.1, h.2.2.2.2.2.2, fun x => by simp [hp] at x, fun x => by simp [he] at x⟩

theorem wit_mstepStarts : StepMayStart ml mf ∧ StepMayStart ml { mf with steps := 0 } :=
  ⟨may_start (by unfold NoLoss bankFree GateLets; decide +kernel) rfl rfl, may_start (by unfold NoLoss bankFree GateLets; decide +kernel) rfl rfl⟩

theorem wit_mstepStarts_step : firstStep ml mf = 0 ∧ firstStep ml mf < mf.steps.toNat ∧
    after (.mstep mf) ml (fun t => (flightOf t).length == 1 && (getBank (here t) false).isEmpty && (here t).mill.pc == (here ml).mill.pc) = true ∧
    firstStep (withCtx ml fun c => { c with mill := { c.mill with mrp := 1 } }) mf = 1 := by
  decide +kernel

theorem wit_mstepEpilogue : StepMayStart ml ef := by
  obtain ⟨k, hk, _⟩ := out0 (s := begun ml ef) (c := here ml) (n := 4) (code := 0) (cnt := 32768)
    (d := sdImg 0 2 0 32768 1) (by decide +kernel) (by unfold flat0; decide +kernel)
  exact ⟨by unfold NoLoss; decide +kernel, by decide +kernel, by unfold bankFree; decide +kernel, by decide +kernel, by unfold GateLets; decide +kernel, by decide +kernel, by decide +kernel,
    by decide +kernel, fun _ => ⟨by decide +kernel, k, hk, free0 idle_ml _ _⟩⟩

/-- An MSTEP performs its first step; one in its drain; one that has written. -/
def fly (f : MForm) (op : Nat) (stage : MillStage) : MillFly := { op := op, f := f, inj := false, step := 0, stage := stage }

def stepping (x : MillFly) : State := withEv (withCtx ml fun c => { c with mill := { c.mill with flight := [x] } }) { w := w0, e := .mill }

theorem wit_tileStep : EvMoves (stepping (fly mf 1 .steps)) ∧ streamMoves (evCtx (stepping (fly mf 1 .steps))) .mill = true ∧
    stepEntry (evCtx (stepping (fly mf 1 .steps))) = some (fly mf 1 .steps) ∧ (evCtx (stepping (fly mf 1 .steps))).dbg.wpb = [] ∧ (evCtx (stepping (fly mf 1 .steps))).errs = [] ∧
    (let s := stepping (fly mf 1 .steps); gateFor s w0 mf.use.val 0 w0.core true = .unbooked ∧ unbookedRoom s w0 32 = true) ∧
    millPair mf.afmt.val mf.bfmt.val mf.pro = some (32, false) := by
  unfold EvMoves; decide +kernel

theorem step0 {s : State} {c : Ctx} {a b : MSrc} (ha : millSrc s c mf mf.as.val mf.afmt.val (128 * 32) (128 * 32) true = .ok a)
    (hb : millSrc s c mf mf.bs.val mf.bfmt.val (256 * 32) (256 * 32) true = .ok b) : stepSrcs s c mf 0 = .ok [a, b] := by
  have hK : ((millPair mf.afmt.val mf.bfmt.val mf.pro).map Prod.fst).getD 0 = 32 := by decide +kernel
  have hp : (!mf.pro) = true := rfl
  simp only [stepSrcs, hK, ha, hb, hp, if_true]

theorem wit_tileStep_sources : ∃ ks, stepSrcs (stepping (fly mf 1 .steps)) (evCtx (stepping (fly mf 1 .steps))) mf 0 = .ok ks ∧
    SourcesOpen (stepping (fly mf 1 .steps)) w0 ks := by
  obtain ⟨a, ha, ia, _⟩ := src0 (s := stepping (fly mf 1 .steps)) (c := evCtx (stepping (fly mf 1 .steps))) (f := mf) (n := mf.as.val) (code := mf.afmt.val)
    (cnt := 128 * 32) (adv := 128 * 32) (e := true) (d := sdImg 3 2 16 4096 1) (by decide +kernel) (by unfold flat0; decide +kernel)
  obtain ⟨b, hb, ib, _⟩ := src0 (s := stepping (fly mf 1 .steps)) (c := evCtx (stepping (fly mf 1 .steps))) (f := mf) (n := mf.bs.val) (code := mf.bfmt.val)
    (cnt := 256 * 32) (adv := 256 * 32) (e := true) (d := sdImg 3 2 16 8192 1) (by decide +kernel) (by unfold flat0; decide +kernel)
  refine ⟨[a, b], ?_, open0 (by unfold Idle; decide +kernel) fun y hy => ?_⟩
  · exact step0 ha hb
  · simp only [List.mem_cons, List.not_mem_nil, or_false] at hy
    rcases hy with rfl | rfl
    · rw [ia]; decide +kernel
    · rw [ib]; decide +kernel

/-- The same step only begins. -/
def starting : State := { stepping (fly mf 1 .steps) with ev := { w := w0, e := .mill, b := true } }

theorem wit_tileStep_begins : EvMoves starting ∧ streamMoves (evCtx starting) .mill = true ∧ stepEntry (evCtx starting) = some (fly mf 1 .steps) ∧
    starting.ev.b = true ∧ (fly mf 1 .steps).rd = [] ∧ (stepping (fly mf 1 .steps)).ev.b = false ∧
    gateFor starting w0 mf.use.val 0 w0.core true = .unbooked ∧ unbookedRoom starting w0 32 = true := by
  unfold EvMoves; decide +kernel

theorem sources_ev (s : State) (e : EvArg) (f : MForm) (h : e.w = s.ev.w) (hs : ∃ ks, stepSrcs s (evCtx s) f 0 = .ok ks ∧ SourcesOpen s w0 ks) :
    ∃ ks, stepSrcs { s with ev := e } (evCtx { s with ev := e }) f 0 = .ok ks ∧ SourcesOpen { s with ev := e } w0 ks := by
  have hc : evCtx { s with ev := e } = evCtx s := by show getCtx s e.w = getCtx s s.ev.w; rw [h]
  rw [hc]; exact hs

theorem wit_tileStep_begins_sources : ∃ ks, stepSrcs starting (evCtx starting) mf 0 = .ok ks ∧ SourcesOpen starting w0 ks :=
  sources_ev (stepping (fly mf 1 .steps)) { w := w0, e := .mill, b := true } mf rfl wit_tileStep_sources

/-- An output in its drain whose walk is empty writes nothing more than its end; with a walk, its tiles need not be empty. -/
theorem wit_epilogue : let x := { fly ef 1 .drain with img := sdImg 0 2 0 32768 1 }
    EvMoves (stepping x) ∧ (evCtx (stepping x)).mill.flight[(stepping x).ev.k]? = some x ∧ flyWrites x = true ∧ pathFree (getCore (stepping x) w0) = true ∧
    sdProd x.img = false := by
  unfold EvMoves; decide +kernel

theorem wit_millTags : Idle (stepping (fly mf 1 .drain)) w0 ∧ Idle (stepping (fly ef 1 .writing)) w0 ∧
    leavesTurn (stepping (fly mf 1 .drain)) w0 [] [flyWalk (evCtx (stepping (fly mf 1 .drain))) (fly mf 1 .drain)] 2 = true ∧
    leavesTurn (stepping (fly ef 1 .writing)) w0 [] [flyWalk (evCtx (stepping (fly ef 1 .writing))) (fly ef 1 .writing)] 2 = true := by
  unfold Idle; decide +kernel

theorem wit_millRetire : let x := fly mf 1 .drain
    let y := fly ef 1 .writing
    EvMoves (stepping x) ∧ flyWrites x = false ∧ x.inj = false ∧ (evCtx (stepping x)).mill.flight[(stepping x).ev.k]? = some x ∧
    (evCtx (stepping y)).mill.flight[(stepping y).ev.k]? = some y ∧
    after .millRetire (stepping x) (fun t => (getCtx t w0).mill.flight.isEmpty && (getCtx t w0).mill.mrp == 0) = true ∧
    after .millRetire (stepping y) (fun t => (getCtx t w0).mill.flight.isEmpty) = true := by
  unfold EvMoves; decide +kernel

/-- A word in the injection queue: the encoding, with inj = 1, of MCLR, MSWAP, MSTEP, and one that is no array instruction. -/
def injects (w : BitVec 192) : State := withCtx ml fun c => { c with mill := { c.mill with injq := [{ word := w, src := false }] } }

def wordBits (i : Instr) : BitVec 192 := BitVec.ofNat 192 (leNat (encode i))

theorem wit_minj : Quiet ml ∧ (here ml).mill.injv = false ∧ (here ml).mill.injq = [] ∧
    (∀ i ∈ [Instr.mclr { mform0 with inj := true }, .mswap { mform0 with inj := true }, .mstep { mf with inj := true }],
      (match decodeMill (wordBits i).toNat with | .ok j => j == i | .error _ => false) = true) ∧
    bankFree (injects 0) true ∧ GateLets (injects 0) { mform0 with inj := true } 0 ∧
    (injBody 0).isNone = true ∧ (injBody 0x14).isNone = true := by
  unfold Quiet bankFree GateLets; decide +kernel

theorem wit_minj_step : StepMayStart (injects 0) { mf with inj := true } := may_start (by unfold NoLoss bankFree GateLets; decide +kernel) rfl rfl

theorem wit_minj_run :
    after .minj (injects (wordBits (.mclr { mform0 with inj := true }))) (fun t => (getBank (here t) false).isEmpty && (here t).mill.injq.isEmpty) = true ∧
    after .minj (injects (wordBits (.mstep { mf with inj := true }))) (fun t => (flightOf t).length == 1 && (here t).mill.injv) = true ∧
    after .minj (injects 0x14) (fun t => (getStat (here t) .mill).st == .stop && (getStat (here t) .mill).cause == 1) = true := by
  decide +kernel

theorem wit_millControl : Quiet ml ∧ flightOf ml = [] ∧ (spGet 0 (here ml).mill.mg 1).toNat ≤ 65535 ∧ 65535 < (spGet 0 (here ml).mill.mg 2).toNat ∧
    spGet 0 (here ml).mill.mg 4 = 0 ∧ spGet 0 (here ml).mill.mg 1 ≠ 0 ∧ (here ml).mill.loops.length < 4 ∧
    4 ≤ (here (withCtx ml fun c => { c with mill := { c.mill with loops := List.replicate 4 { start := 0, last := 24, count := 1 } } })).mill.loops.length ∧
    canonical ((here ml).mill.pc + (-1#32).signExtend 64 * 24) = true ∧
    canonical ((here (withCtx ml fun c => { c with mill := { c.mill with pc := 0x3FFFFFFFFFFFE0 } })).mill.pc + (2#32).signExtend 64 * 24) = false := by
  unfold Quiet; decide +kernel

theorem wit_millControl_run :
    after (.mrpgA { mform0 with as := 5, bs := 1, imm1 := -1 }) ml (fun t => spGet 0 (here t).mill.mg 5 == 2) = true ∧
    after (.mrpgW { mform0 with bs := 1 }) ml (fun t => (here t).mill.mrp == 3) = true ∧
    after (.mbrEq { mform0 with as := 1, bs := 3, imm1 := -2 }) ml (fun t => (here t).mill.pc == (here ml).mill.pc - 48) = true ∧
    after (.mloop { mform0 with as := 4, imm1 := 2 }) ml (fun t => (here t).mill.pc == (here ml).mill.pc + 72) = true := by
  decide +kernel

/-! ### Witnesses: jobs, waits, faults, saved contexts (01, 13) -/

/-- A launch of one job of one stream, on die 0; it has no booking. -/
def oneJob : LJob := { flat := 0, lix := [0], die := 0 }

def oneLaunch : Launch :=
  { id := 5, pkt := 9, img := 0, ents := [0x20000, 0, 0x30000], levels := [{ cnt := 1, dom := 1, scope := 1 }], prio := 2, bkd := false, gang := false,
    tiles := 100, xctx := 1, svec := 0, jobs := [oneJob] }

/-- Core 0's first context is held; the launch waits for a context. -/
def launched : State := withEv (withPkg (withCtx base fun c => { c with ways := 0x0F }) fun x => { x with launches := [oneLaunch] }) { w := ⟨0, 0, 1⟩, v := 0 }

theorem wit_jobResident : (launched.ev.b = false ∧ launched.ev.e ≠ .mill ∧ ctxFree launched ⟨0, 0, 1⟩ false = true ∧
    (getPkg launched 0).launches[0]? = some oneLaunch ∧
    (oneLaunch.jobs.find? fun k => k.flat == launched.ev.n && k.st == 0 && k.die == 0) = some oneJob ∧ waysFree (getCore launched ⟨0, 0, 1⟩) 1 100 = some 0x10 ∧
    launchFails oneLaunch = false ∧ coreSuits oneLaunch oneJob 0 = true) ∧
    after .jobResident launched (fun t => let c := getCtx t ⟨0, 0, 1⟩; c.ways == 0x10 && c.acc.pc == 0x20000 && c.mill.pc == 0x30000 &&
      c.loom.stat.st == .absent && c.acc.stat.st == .run && spGet 0 c.loom.p 3 == 0xFFFF && (getPkg t 0).launches.all fun l => l.jobs.all fun k => k.st == 1) = true := by
  decide +kernel

/-- A booking of die 0, bound to core 0. -/
def boundOne : Booking := { st := .booked, gen := 1, bound := true, core := 0, tiles := 10, uses := [{}], job := { ents := 0x40000, pa := true } }

def bound : State := withEv (withDie (withCtx base fun c => { c with ways := 0x0F }) fun x => { x with reeve := { x.reeve with bks := [(1, boundOne)] } })
  { w := ⟨0, 0, 1⟩, e := .mill, k := 1 }

theorem wit_bookedResident : (ctxFree bound ⟨0, 0, 1⟩ true = true ∧ waysFree (getCore bound ⟨0, 0, 1⟩) 1 10 = some 0x10 ∧ bkHeld boundOne = true ∧
    jobAt (getDie bound 0) 1 boundOne = none ∧ (bookedJob bound boundOne (handleOf 1 boundOne) ⟨0, 0, 1⟩).isSome = true) ∧
    after .jobResident bound (fun t => (getCtx t ⟨0, 0, 1⟩).acc.pc == 0x40000) = true := by decide +kernel

/-- A saved context of core 0 waits for a place. -/
def waiting : State := withEv (withDie base fun x => { x with saved := [{ core := 0, launch := 0, area := 0x40000, ctx := { ways := 0x10 } }] }) { w := ⟨0, 0, 1⟩, b := true }

theorem wit_restoreBegins : (ctxFree waiting ⟨0, 0, 1⟩ false = true ∧ ((getDie waiting 0).saved[0]?).isSome = true ∧
    (coreCtx (getCore waiting ⟨0, 0, 1⟩) 0).ways &&& 0x10 = 0) = false ∨
    after .jobResident (withCtx waiting fun c => { c with ways := 0x0F }) (fun t => (getCtx t ⟨0, 0, 1⟩).restoring.isSome) = true := by decide +kernel

theorem wit_restoreBegins_hyps : let s := withCtx waiting fun c => { c with ways := 0x0F }
    ctxFree s ⟨0, 0, 1⟩ false = true ∧ ((getDie s 0).saved[0]?).isSome = true ∧ (coreCtx (getCore s ⟨0, 0, 1⟩) 0).ways &&& 0x10 = 0 := by decide +kernel

/-- A gang's streams in IDLE, its start slot come. -/
def ganged : State := withCtx base fun c => { c with job := some { gang := true, gstart := 0, pa := true }, acc := { c.acc with stat := { c.acc.stat with st := .idle } } }

theorem wit_gangStart : dieOk ganged 0 = true ∧ clockRuns (getDie ganged 0).power = true ∧
    after .gangStart ganged (fun t => (getStat (getCtx t w0) .access).st == .run) = true := by decide +kernel

/-- The access core waits with code `k` for object `o` (second value `a`). -/
def waits (s : State) (k : BitVec 4) (o a : Word) : State :=
  withEv (withCtx s fun c => { c with acc := { c.acc with stat := { c.acc.stat with st := .wait, wkind := k, obj := o, aux := a } } }) { w := w0, e := .access }

/-- Channel 2 holds a value and channel 4 has room; event 1 is pending and not masked. -/
def met (k : BitVec 4) (o a : Word) : State := waits (withCtx regs fun c => { c with csr := { c.csr with evpend := 2, evmask := 2 } }) k o a

/-- It waits for channel 2's value and channel `n`'s room or value. -/
def needing (n : Nat) (push : Bool) : State :=
  withCtx (met 2 2 0) fun c => { c with
    acc := { c.acc with stat := { c.acc.stat with needs := [{ ch := 2, n := 0, push := false }, { ch := n, n := if push then 15 else 0, push := push }] } } }

theorem wit_waits : ObjectMet (met 1 3 0) w0 .access ∧ ObjectMet (met 3 0 (5 * 4096 + 1)) w0 .access ∧ ObjectMet (met 4 0x100 0) w0 .access ∧
    ObjectMet (met 5 0 0) w0 .access ∧ ObjectMet (met 8 0 0) w0 .access := by
  have none1 : accAt (getDie (met 1 3 0) w0.die) (getStat (getCtx (met 1 3 0) w0) .access).obj.toNat = none := by decide +kernel
  refine ⟨.inl ⟨by decide +kernel, fun x h => absurd (none1.symm.trans h) nofun⟩, .inr (.inr (.inl ⟨by decide +kernel, ?_⟩)),
    .inr (.inr (.inr (.inl ⟨by decide +kernel, by decide +kernel⟩))), .inr (.inr (.inr (.inr (.inl ⟨by decide +kernel, by decide +kernel⟩)))),
    .inr (.inr (.inr (.inr (.inr (.inr ⟨by decide +kernel, by decide +kernel⟩)))))⟩
  rw [if_neg (by decide +kernel)]; decide +kernel

theorem need_push (c : Ctx) (x : ChNeed) (hp : x.push = true) (h : (getChan c x.ch).q.length ≤ x.n) : NeedMet c .access x := by
  unfold NeedMet; rw [if_pos hp]; exact ⟨h, .inl rfl⟩

theorem need_pop (c : Ctx) (x : ChNeed) (hp : x.push = false) (h : x.n < (getChan c x.ch).q.length) : NeedMet c .access x := by
  unfold NeedMet; rw [if_neg (by simp [hp])]; exact ⟨_, List.getElem?_eq_getElem h, .inl rfl⟩

theorem wit_waitsChannels : EvMoves (needing 4 true) ∧ (getStat (evCtx (needing 4 true)) .access).st = .wait ∧ ObjectMet (needing 4 true) w0 .access := by
  refine ⟨by unfold EvMoves; decide +kernel, by decide +kernel, .inr (.inl ⟨by decide +kernel, ?_⟩)⟩
  have hn : (getStat (getCtx (needing 4 true) w0) .access).needs = [{ ch := 2, n := 0, push := false }, { ch := 4, n := 15, push := true }] := by decide +kernel
  rw [hn]
  intro x hx
  simp only [List.mem_cons, List.not_mem_nil, or_false] at hx
  rcases hx with rfl | rfl
  · exact need_pop _ _ rfl (by decide +kernel)
  · exact need_push _ _ rfl (by decide +kernel)

theorem wit_waits_run : ∀ x ∈ [(1, 3, 0), (3, 0, 5 * 4096 + 1), (4, 0x100, 0), (5, 0, 0), (8, 0, 0)],
    let s := met (BitVec.ofNat 4 x.1) (BitVec.ofNat 64 x.2.1) (BitVec.ofNat 64 x.2.2)
    EvMoves s ∧ (getStat (evCtx s) .access).st = .wait ∧ after .waitSatisfied s (fun t => (getStat (getCtx t w0) .access).st == .run) = true := by
  unfold EvMoves; decide +kernel

/-- Channel 5 is empty. -/
def tardy : State := withDie (withCtx (needing 5 false) fun c => { c with csr := { c.csr with chlim := 10 } }) fun x => { x with time := { x.time with cyc := 11 } }

theorem wit_channelTimeout : EvMoves tardy ∧ (getStat (evCtx tardy) .access).needs = [] ++ [{ ch := 2, n := 0, push := false }] ++ { ch := 5, n := 0, push := false } :: [] ∧
    NeedMet (evCtx tardy) .access { ch := 2, n := 0, push := false } ∧ (¬ NeedMet (evCtx tardy) .access { ch := 5, n := 0, push := false }) ∧
    (evCtx tardy).csr.chlim.toNat < cycNow tardy 0 - (getStat (evCtx tardy) .access).since ∧
    after .channelTimeout tardy (fun t => (getCtx t w0).csr.scause == 0x0B && (getCtx t w0).csr.sval == 5) = true := by
  refine ⟨by unfold EvMoves; decide +kernel, by decide +kernel, need_pop _ _ rfl (by decide +kernel), ?_, by decide +kernel, by decide +kernel⟩
  rintro ⟨y, hy, -⟩
  have h5 : (getChan (evCtx tardy) 5).q = [] := by decide +kernel
  exact absurd hy (by simp [h5])

/-- The access core at its rendezvous, the Loom done. -/
def meeting : State := withCtx (waits base 7 0 0) fun c => { c with loom := { c.loom with stat := { c.loom.stat with st := .done } } }

theorem wit_meeting : EvMoves meeting ∧ atMeeting (getStat (evCtx meeting) .access) = true ∧
    (∀ e ∈ [Eng.access, .loom, .mill], atMeeting (getStat (evCtx meeting) e) = true ∨ over_ (getStat (evCtx meeting) e)) ∧
    (getDie meeting 0).acc = [] ∧ (∀ e ∈ [Eng.access, .loom, .mill], (getStat (evCtx meeting) e).sstep = false) ∧
    after .meetingOpen meeting (fun t => (getCtx t w0).acc.pc == (evCtx meeting).acc.pc + 4 && (getCtx t w0).acc.stat.st == .run) = true := by
  unfold EvMoves over_; decide +kernel

/-- Every stream has ended. -/
def ended : State := withEv (withCtx base fun c => { c with acc := { c.acc with stat := { c.acc.stat with st := .done } } }) { w := w0 }

theorem wit_jobRetire : EvMoves ended ∧ (∀ e ∈ [Eng.access, .loom, .mill], over_ (getStat (evCtx ended) e)) ∧ (evCtx ended).c0.q = [] ∧
    (evCtx ended).c1.q = [] ∧ (evCtx ended).mill.flight = [] ∧ (getDie ended 0).acc = [] ∧
    after .jobRetire ended (fun t => (getCtx t w0).job.isNone) = true := by
  unfold EvMoves over_; decide +kernel

/-- A report of the Mill and an older one of the Loom wait; the die is to stop at 0. -/
def reported : State := withEv (withCtx base fun c => { c with reports := [{ rank := 1, cause := 0x18, val := 3, eng := 2 }, { rank := 0, cause := 0x0A, val := 9, eng := 1 }] }) { w := w0 }

theorem wit_faultDelivery : whoOk reported w0 = true ∧ ctxMoves reported w0 = true ∧ canDeliver (getCtx reported w0) = true ∧
    (nextReport (getCtx reported w0).reports).map Report.cause = some 0x0A ∧
    after .engineFaultDelivery reported (fun t => (getCtx t w0).csr.scause == 0x0A && (getCtx t w0).csr.sval == 9 && (getCtx t w0).csr.seng == 1 &&
      (getCtx t w0).reports.length == 1) = true ∧
    after .stopAtCut (withDie base fun x => { x with stopAt := some 0 }) (fun t => (getCtx t w0).halted && (getDie t 0).stopAt.isNone) = true ∧
    after .illegalInstruction (withEv base { w := w0, v := 0xFF }) (fun t => (getCtx t w0).csr.scause == 1 && (getCtx t w0).csr.sval == 0xFF) = true ∧
    after .fetchFault (withEv base { w := w0, n := 5, v := 0x99000 }) (fun t => (getCtx t w0).csr.scause == 5 && (getCtx t w0).csr.sval == 0x99000) = true := by
  decide +kernel

theorem wit_preempt : let s := withEv (waits base 8 0 0) { w := w0, n := 0x800000 }
    whoOk s w0 = true ∧ (getCtx s w0).job.isSome = true ∧ (getCtx s w0).saving = none ∧ (getCtx s w0).restoring = none ∧ s.ev.n % 4096 = 0 ∧ s.ev.n + 2 ^ 23 ≤ 2 ^ 37 ∧
    after .preempt s (fun t => (getCtx t w0).saving.isSome && (getCtx t w0).acc.stat.st == .run) = true := by decide +kernel

/-- Context 0 is being saved to 0x800000, with room for `lim` blocks. -/
def saves (lim : Nat) : State := withEv (withCtx base fun c => { c with ways := 0, saving := some { runs := [(0x800000, 2 ^ 23)], limit := lim } }) { w := w0 }

def settled (lim : Nat) : State := modCtx (settleSave (saves lim) w0) w0 fun c => { c with halted := false }

theorem leBytes_len : ∀ (n v : Nat), (leBytes n v).length = n
  | 0, _ => rfl
  | n + 1, _ => congrArg (· + 1) (leBytes_len n _)

theorem codeSec_len (p : Option MSec) (x : MSec) (h : x.1.length ≤ 32) : (codeSec p x).2.length ≤ 32 := by
  unfold codeSec; split
  · simpa using h
  · split
    · simp
    · split
      · simp
      · split <;> simp [plainBytes] <;> omega

theorem codeSecs_len : ∀ (xs : List MSec) (p : Option MSec), (∀ x ∈ xs, x.1.length ≤ 32) → ((codeSecs p xs).flatMap Prod.snd).length ≤ 32 * xs.length
  | [], _, _ => by simp [codeSecs]
  | x :: t, p, h => by
    have h1 := codeSec_len p x (h x List.mem_cons_self)
    have h2 := codeSecs_len t (some x) fun y hy => h y (List.mem_cons_of_mem _ hy)
    simp only [codeSecs, List.flatMap_cons, List.length_append, List.length_cons]; omega

theorem codeBlock_len (xs : List MSec) (h : ∀ x ∈ xs, x.1.length ≤ 32) (hn : xs.length ≤ 128) : (codeBlock xs).length ≤ 4160 := by
  have h1 := codeSecs_len xs none h
  have h2 : padTo 32 ((codeSecs none xs).flatMap Prod.snd).length < 32 := Nat.mod_lt _ (by decide)
  have h3 : ∀ v, (leBytes 32 v).length = 32 := fun v => leBytes_len _ _
  simp only [codeBlock, plainBytes, List.length_append, List.length_map, List.length_replicate, h3]; omega

theorem codeSection_len : ∀ (n : Nat) (xs : List MSec), (∀ x ∈ xs, x.1.length ≤ 32) → (codeSection n xs).length ≤ 4160 * n
  | 0, _, _ => by simp [codeSection]
  | n + 1, xs, h => by
    have h1 := codeBlock_len (xs.take 128) (fun x hx => h x (List.mem_of_mem_take hx)) (by rw [List.length_take]; omega)
    have h2 := codeSection_len n (xs.drop 128) fun x hx => h x (List.mem_of_mem_drop hx)
    simp only [codeSection, List.length_append]; omega

theorem cut32_len : ∀ (n : Nat) (bs x : List Byte), x ∈ cut32 n bs → x.length ≤ 32
  | 0, _, _, h => by simp [cut32] at h
  | n + 1, bs, x, h => by
    simp only [cut32, List.mem_cons] at h
    rcases h with rfl | h
    · simp only [List.length_append, List.length_take, List.length_replicate]; omega
    · exact cut32_len n _ x h

theorem rawSecs_len (n : Nat) (bs : List Byte) : ∀ x ∈ rawSecs n bs, x.1.length ≤ 32 := by
  intro x h
  obtain ⟨b, hb, rfl⟩ := List.mem_map.1 h
  exact cut32_len _ _ _ hb

theorem sections_len (y : Core) (c : Ctx) (h : waySlots c.ways = []) : ((imageSections y c).map List.length).sum ≤ 4160 * 98 ∧ (imageSections y c).length = 7 := by
  have h0 : maskBlocks c.ways = 0 := by unfold maskBlocks; rw [h]; rfl
  have hs : ∀ x ∈ spillSecs c, x.1.length ≤ 32 := fun x hx => by
    obtain ⟨k, _, rfl⟩ := List.mem_map.1 hx
    simp [memRead]
  refine ⟨?_, rfl⟩
  simp only [imageSections, h, h0, List.map_cons, List.map_nil, List.sum_cons, List.sum_nil, List.filter_nil, List.length_nil]
  have a1 := codeSection_len 16 _ (rawSecs_len 16 ((List.range 16).flatMap fun k => leBytes 4096 (spGet 0 c.loom.v k).toNat))
  have a2 := codeSection_len 64 _ (rawSecs_len 64 (accBytes c.mill.acc0 ++ accBytes c.mill.acc1))
  have a3 := codeSection_len 16 _ hs
  have a4 := codeSection_len 1 _ (rawSecs_len 1 (queueBytes c.c0 ++ queueBytes c.c1 ++ c.mill.injq.flatMap fun e => leBytes 24 e.word.toNat))
  have a5 := codeSection_len 1 _ (rawSecs_len 1 (c.permits.flatMap permBytes))
  have a6 : ∀ xs, (codeSection 0 xs).length = 0 := fun _ => rfl
  simp only [a6]
  omega

theorem wordsOf_len (n : Nat) (f : Nat → Word) : (wordsOf n f).length = 8 * n := by
  have h : ∀ v : Word, (wordBytes8 v).length = 8 := fun v => leBytes_len 8 _
  unfold wordsOf
  induction n with
  | zero => rfl
  | succ k ih => simp only [List.range_succ, List.flatMap_append, List.length_append, ih, List.flatMap_cons, List.flatMap_nil, List.append_nil, h]; omega

theorem image_len (lim : Nat) (hw : waySlots (getCtx (settled lim) w0).ways = []) (hr : (getCtx (settled lim) w0).reports = [])
    (hf : (imageFixed (settled lim) w0).length ≤ 8192) (hd : (debugBytes (getCtx (settled lim) w0).dbg).length = 128) :
    (ctxImage (settled lim) w0).length ≤ 430000 := by
  have hs := sections_len (getCore (settled lim) w0) (getCtx (settled lim) w0) hw
  have hb : (reportsInOrder (getCtx (settled lim) w0).reports.length (getCtx (settled lim) w0).reports) = [] := by rw [hr]; rfl
  have hh : ∀ c secs, secs.length = 7 → (imageHeader c secs).length ≤ 128 := fun c secs h => by
    have : (secs.flatMap fun x : List MByte => leBytes 4 x.length).length = 28 := by
      have h4 : ∀ l : List (List MByte), (l.flatMap fun x => leBytes 4 x.length).length = 4 * l.length := fun l => by
        induction l with
        | nil => rfl
        | cons a t ih => simp only [List.flatMap_cons, List.length_append, leBytes_len, ih, List.length_cons]; omega
      rw [h4, h]
    simp only [imageHeader, List.length_append, leBytes_len, List.length_replicate, this]; omega
  have h8 : ∀ v : Word, (wordBytes8 v).length = 8 := fun v => leBytes_len 8 _
  have hx := hh (getCtx (settled lim) w0) _ hs.2
  simp only [ctxImage, hb, List.length_append, plainBytes, List.length_map, leBytes_len, wordsOf_len, h8, List.length_flatten, List.length_replicate,
    List.flatMap_nil, List.length_nil] at hx ⊢
  omega

theorem wit_contextSave_hyps : ∀ lim ∈ [0, 2048], whoOk (saves lim) w0 = true ∧ clockRuns (getDie (saves lim) 0).power = true ∧ saveReady (saves lim) w0 = true ∧
    (getCtx (saves lim) w0).saving.map CtxOp.limit = some lim ∧ (getDie (saves lim) 0).acc = [] := by decide +kernel

theorem wit_contextSave_fits : (ctxImage (settled 2048) w0).length ≤ 4096 * 2048 :=
  Nat.le_trans (image_len 2048 (by decide +kernel) (by decide +kernel) (by decide +kernel) (by decide +kernel)) (by decide)

theorem wit_contextSave_short : 4096 * 0 < (ctxImage (settled 0) w0).length := by
  simp only [ctxImage, List.length_append, plainBytes, List.length_map, leBytes_len]; omega

/-- Nothing but zeros at 0x800000; and a saved image, of which only a few bytes are not zero: the access core ran at 0x20000. -/
def restores (m : Mem) : State :=
  withEv (withDie (withCtx State.reset fun c => { c with restoring := some { id := 1, runs := [(0x800000, 2 ^ 23)] } }) fun x => { x with mem := { x.mem with hbm := m } }) { w := w0 }

def imageBytes : Mem :=
  [(11, 0x1F#8), (225, 0x23#8), (256, 0x01#8), (257, 0x01#8), (265, 0x02#8), (269, 0x08#8), (273, 0x02#8), (276, 0x20#8), (280, 0x20#8), (962, 0x02#8),
    (989, 0x02#8), (1090, 0x10#8)].map fun x => (0x800000 + x.1, x.2)

theorem wit_restoreBad : whoOk (restores []) w0 = true ∧ clockRuns (getDie (restores []) 0).power = true ∧ (imageAt (restores []) w0 [(0x800000, 2 ^ 23)]).1.isNone = true ∧
    (accAt (getDie (restores []) 0) 1).isNone = true := by decide +kernel

theorem wit_restoreFree : (getCtx (restores imageBytes) (otherCtx w0)).job = none := by decide +kernel

theorem wit_restoreGood : (match imageAt (restores imageBytes) w0 [(0x800000, 2 ^ 23)] with
    | (some im, k) => im.loc % 2 ^ 20 == whoBits w0 && im.ctx.acc.pc == 0x20000 &&
        !(unpaged (getCtx (putImage (restores imageBytes) w0 { id := 1, runs := [(0x800000, 2 ^ 23)] } im k) w0))
    | _ => false) = true := by decide +kernel

/-! ### Witnesses: messages between dies (05, 17, 18); trace, replay, broadcasts (13) -/

/-- The job of core 0 of die 0 is launch 5 of package 0; the link between dies 0 and 1 is up; one message is under way. -/
def linked (s : State) : State :=
  modDie (modDie (withCtx s fun c => { c with job := some { launch := 5, pa := true }, ways := 1 }) 0 fun x => setPort x 0 { state := 2 }) 1 fun x =>
    setPort x 1 { state := 2 }

def net (s : State) (l : List Msg) : State := { linked s with net := l }

def permitMsg (launch : Word) : Msg :=
  { kind := .permit, src := 1, dst := 0, w := { die := 1, core := 3, ctx := 0 }, opnd := 77, addr := 0x40000000001000, opnd2 := 0, words := [launch] }

theorem wit_permit : Arrives (net base [permitMsg 5]) .permit (permitMsg 5) ∧
    (let s := net base [permitMsg 5]; recvCtx (getCore s w0) 5 false 0 = some 0 ∧
      (tableAdd (getCtx s w0).permits (permitIn (permitMsg 5)).2).isSome = true) ∧
    recvCtx (getCore (net base [permitMsg 6]) w0) 6 false 0 = none ∧
    after .permitArrival (net base [permitMsg 5]) (fun t => (getCtx t w0).permits.map Permit.gtag == [77] && t.net.isEmpty) = true := by
  unfold Arrives; decide +kernel

theorem wit_permitEnters : let s := withDie (net base []) fun x => { x with fab := { x.fab with permq := [(0, (permitIn (permitMsg 5)).2)] } }
    (getDie s 0).fab.permq[0]? = some (0, (permitIn (permitMsg 5)).2) ∧ recvCtx (getCore s w0) 5 false 0 = some 0 ∧
    after .permitEnter s (fun t => (getCtx t w0).permits.length == 1 && (getDie t 0).fab.permq.isEmpty) = true := by decide +kernel

/-- Window 0 of die 0: kind `k`, permissions `p`, from `b` on, `n` bytes. -/
def windowed (s : State) (k p b n : Nat) : State :=
  withDie (withHbm s 0x100000 (leBytes 8 (1 + k * 2 + p * 16) ++ leBytes 8 b ++ leBytes 8 n)) fun x => { x with fab := { x.fab with ewbase := 0x100000 } }

/-- Sixteen bytes for slot 8 of core 0, whose entry's GTAG is 77 with one grant outstanding. -/
def aLanding : Landing :=
  { src := { die := 1, core := 3, ctx := 0 }, carter := 0, cmd := 4, launch := 5, slot := 8, off := 16, gtag := 77, bytes := leBytes 16 0x1234 }

def landMsg : Msg := { kind := .landing, src := 1, dst := 0, addr := 16, size := 16, capk := 1, land := some aLanding }

def landing : State :=
  withEv (withCore (windowed (net base [landMsg]) 1 0x08 0x8000 4096) fun y => setTag y 8 (77 * 2 ^ 16 + 2 ^ 8)) { w := w0 }

theorem wit_landing : Arrives landing .landing landMsg ∧ (windowFor landing 0 16 1 3 16).isSome = true ∧
    (windowFor (windowed landing 0 0x08 0x8000 4096) 0 16 1 3 16).isNone = true ∧ (windowFor (windowed landing 1 0x08 0x8000 16) 0 16 1 3 16).isNone = true ∧
    landCtx (getCore landing w0) aLanding = some 0 ∧ landGood (getCore landing w0) aLanding = true ∧ (getCore landing w0).landq.length < 8 ∧
    (getDie landing 0).fab.store = [] ∧
    after .landingArrival landing (fun t => (getCore t w0).landq == [aLanding] && t.net.isEmpty) = true := by
  unfold Arrives; decide +kernel

def landed : State := withCore { landing with net := [] } fun y => { y with landq := [aLanding] }

theorem wit_landingWrite : landed.ev.b = false ∧ (getCore landed w0).landq[0]? = some aLanding ∧ (getCore landed w0).landq.take 0 = [] ∧ aLanding.begun = false ∧
    tagLost (getCore landed w0) [8] = false ∧ landCtx (getCore landed w0) aLanding = some 0 ∧ ctxTakes landed w0 = true ∧
    landGood (getCore landed w0) aLanding = true ∧ tagFull (getCore landed w0) 8 = false ∧ landBlocked (getCtx landed w0) aLanding = false ∧
    landed.ev.n ≠ 1 ∧ tagTurn landed w0 8 true 5 = true ∧ quietDie (getDie landed 0) = true ∧
    after .landingWrite landed (fun t => tagFull (getCore t w0) 8 && tagPcnt (getCore t w0) 8 == 0 && spByte (getCore t w0) 0x8010 == 0x34 &&
      t.net.map Msg.kind == [.landAck]) = true := by decide +kernel

/-- The same landing only begins; then it is in flight, its grant taken. -/
def landBegins : State := { landed with ev := { landed.ev with n := 1 } }

def landFlies : State := made .landingWrite landBegins

theorem wit_landingBegins : landBegins.ev.n = 1 ∧ tagFull (getCore landBegins w0) 8 = false ∧
    after .landingWrite landBegins (fun t => tagPcnt (getCore t w0) 8 == 0 && (getCore t w0).landq.map Landing.begun == [true] && t.net.isEmpty &&
      spByte (getCore t w0) 0x8010 == 0) = true ∧
    (slotOwner landFlies w0 8).map Who.ctx = some 0 ∧ tagTurn landFlies w0 8 true 5 = true ∧ quietDie (getDie landFlies 0) = true ∧
    after .landingWrite landFlies (fun t => tagFull (getCore t w0) 8 && tagPcnt (getCore t w0) 8 == 0 && spByte (getCore t w0) 0x8010 == 0x34) = true := by
  decide +kernel

/-- A TSEND of Carter 0 waits for its answer. -/
def sent (r : Nat) : State :=
  withCtx (net base [{ kind := .landAck, src := 1, dst := 0, w := w0, agent := 3, tag := 4, op := r }]) fun c =>
    { c with c0 := { q := [{ kind := .tsend, seq := 4, wait := 1, started := true }] } }

theorem wit_landingAck : Arrives (sent 0) .landAck { kind := .landAck, src := 1, dst := 0, w := w0, agent := 3, tag := 4, op := 0 } ∧ ctxAnswers (sent 0) w0 = true ∧
    Answered (sent 0) w0 0 4 { kind := .tsend, seq := 4, wait := 1, started := true } ∧
    after .landingAck (sent 0) (fun t => (Machine.headCmd (getCtx t w0) 0).map Cmd.moved == some true) = true ∧
    after .landingAck (sent 1) (fun t => (Machine.headCmd (getCtx t w0) 0).map Cmd.fail == some 0x19) = true := by
  unfold Arrives Answered; decide +kernel

/-- A remote operation on window 0 of die 0, from die 1. -/
def remMsg (op : Nat) : Msg := { kind := .remote, src := 1, dst := 0, w := { die := 1, core := 0, ctx := 0 }, tag := 9, op := op, addr := 8, opnd := 5, size := 8 }

def remote (op : Nat) : State := withHbm (windowed (net base [remMsg op]) 0 0x07 0x1000 4096) 0x1008 (leBytes 8 0x1111)

theorem wit_remoteHome : (∀ op ∈ [0, 1, 16], Arrives (remote op) .remote (remMsg op) ∧ quietDie (getDie (remote op) 0) = true ∧ NoWatch (remote op) 0 ∧
      (remote op).ev.n ≠ 1 ∧ opHeld (remote op) (remMsg op) (getDie (remote op) 0).fab.held = false) ∧
    (match windowFor (remote 0) 0 8 0 0 8 with | some v => v.kind == 0 && !v.bn && physErr (remote 0) 0 .hbm (v.base + expOffset 8) 8 == none | none => false) = true ∧
    (windowFor (remote 1) 0 8 0 1 8).isSome = true ∧ (windowFor (remote 16) 0 8 0 2 8).isSome = true ∧
    (windowFor (remote 0) 0 4096 0 0 8).isNone = true ∧ (windowFor (remote 0) 0 4088 0 0 8).isSome = true := by
  unfold Arrives NoWatch; decide +kernel

theorem wit_remoteHome_run : after .remoteOperation (remote 0) (fun t => t.net.map Msg.opnd == [0x1111] && t.net.map Msg.op == [0]) = true ∧
    after .remoteOperation (remote 16) (fun t => memRead (getDie t 0).mem.hbm 0x1008 8 == leBytes 8 0x1116 && t.net.map Msg.opnd == [0x1111]) = true := by
  decide +kernel

/-- The link is down. -/
def cut : State := modDie (remote 0) 0 fun x => setPort x 0 { state := 0 }

theorem wit_remoteCut : msgOf cut 0 .remote = none ∧ msgOf cut 0 .tget = none ∧ msgCut cut 0 .remote = some (remMsg 0) ∧
    after .remoteOperation cut (fun t => t.net.map Msg.op == [2]) = true := by decide +kernel

/-- A remote load of core 0's context, and its answer. -/
def answered (r : Nat) : State :=
  withDie (net base [{ kind := .reply, src := 1, dst := 0, w := w0, tag := 1, op := r, opnd := 42 }]) fun x => { x with
    acc := [{ id := 1, w := w0, kind := .rload, dest := .g 5 false }] }

theorem wit_reply : ∀ r ∈ [0, 1, 6, 7], Arrives (answered r) .reply { kind := .reply, src := 1, dst := 0, w := w0, tag := 1, op := r, opnd := 42 } ∧
    ctxAnswers (answered r) w0 = true ∧ (accAt (getDie (answered r) 0) 1).isSome = true ∧
    after .remoteReply (answered r) (fun t => if r = 0 then readG (getCtx t w0) 5 == 42 else (getCtx t w0).reports.length == 1) = true := by
  unfold Arrives; decide +kernel

/-- Two combinable adds of die 0's cores to one word of die 1. -/
def addMsg (core : Nat) (v : Word) : Msg :=
  { kind := .remote, src := 0, dst := 1, w := { die := 0, core := core, ctx := 0 }, tag := core, op := 16, addr := 8, opnd := v, size := 8, cmb := true }

/-- As it waits in the queue, the `n`-th message that die 0 sent. -/
def atQueue (n : Nat) (m : Msg) : Msg := { m with num := n * 2 ^ 15, need := 1 }

def pair : State := withEv (send (send (net base []) (addMsg 1 5)) (addMsg 2 7)) { w := w0, k := 0, n := 1 }

theorem wit_combining : pair.net = [atQueue 1 (addMsg 1 5), atQueue 2 (addMsg 2 7)] ∧ combinable (atQueue 1 (addMsg 1 5)) = true ∧
    combinable (atQueue 2 (addMsg 2 7)) = true ∧ (getDie pair 0).alm.rply = false ∧
    (portAt pair 0 (atQueue 1 (addMsg 1 5))).isSome = true ∧ portAt pair 0 (atQueue 1 (addMsg 1 5)) = portAt pair 0 (atQueue 2 (addMsg 2 7)) ∧
    ((portAt pair 0 (atQueue 1 (addMsg 1 5))).all fun p =>
      (((getPort (getDie pair 0) p).outq.filter fun f => f.vc == 0).map Flit.msg) == [2 ^ 15, 2 ^ 16]) = true ∧
    ((List.range 64).find? fun i => !((getDie pair 0).fab.splits.any fun x => x.idx == i)) = some 0 ∧
    after .combining pair (fun t => t.net.length == 1 && (getDie t 0).fab.splits.length == 1 && t.net.map Msg.opnd == [12]) = true := by decide +kernel

/-- A split record of die 0 and its answer. -/
def aSplit : Split :=
  { idx := 3, members := [{ w := w0, agent := 0, src := 0, tag := 1, opnd := 5 }, { w := w0, agent := 0, src := 0, tag := 2, opnd := 7 }], size := 8, addr := 8, since := 0 }

def splits : State :=
  withEv (withDie (net base [{ kind := .reply, src := 1, dst := 0, agent := 1, tag := 3, opnd := 100 }]) fun x => { x with
    fab := { x.fab with splits := [aSplit] } }) { w := w0, k := 0 }

theorem wit_combinedReply : Arrives splits .reply { kind := .reply, src := 1, dst := 0, agent := 1, tag := 3, opnd := 100 } ∧ quietDie (getDie splits 0) = true ∧
    ((getDie splits 0).fab.splits.find? fun x => x.idx == 3) = some aSplit ∧
    after .combinedReply splits (fun t => t.net.map Msg.opnd == [100, 105]) = true := by
  unfold Arrives; decide +kernel

theorem wit_splitTimeout : let s := withEv (withDie splits fun x => { x with time := { x.time with ftime := 1000000 } }) { w := w0, k := 3 }
    ((getDie s 0).fab.splits.find? fun x => x.idx == 3) = some aSplit ∧ aSplit.since + 1000000 ≤ ftimeNow s 0 ∧
    after .splitRecordTimeout s (fun t => (t.net.map Msg.op).contains 2) = true := by decide +kernel

/-- Samples are on; a snapshot is due; sector 5 has an error that can be corrected by none; the log's next record is the access core's of context 0. -/
def traced : State :=
  withEv (withDie base fun x => { x with
    trace := { x.trace with smpper := 100, snapPend := true, snapT := 0, evcnt := [(2, 9)] }
    mem := { x.mem with herr := [(5, 1)] } }) { w := w0, n := 5 }

theorem wit_sampling : let s := withDie traced fun x => { x with time := { x.time with cyc := 250 } }
    bits (getDie s 0).trace.smpper 0 32 = 100 ∧ (getDie s 0).trace.smpAt + 100 ≤ cycNow s 0 ∧
    after .sampleRecord s (fun t => (getDie t 0).trace.smpAt == 200) = true ∧ after .sampleRecord traced (fun t => t == traced) = true := by decide +kernel

theorem wit_scrubbing : let s := withDie traced fun x => { x with mem := { x.mem with herr := [(5, 4)] } }
    spGet 0 (getDie s 0).mem.herr 5 = 4 ∧ after .scrub s (fun t => spGet 0 (getDie t 0).mem.herr 5 == 0) = true ∧
    (let a := ringBase (getDie traced 0) 4 + (spGet 0 (getDie traced 0).trace.rgwrp 4).toNat; a + 32 ≤ 32 * traced.ev.n) := by decide +kernel

theorem wit_trace : bits (getDie traced 0).trace.smpper 0 32 ≠ 0 ∧ (getDie traced 0).trace.snapPend = true ∧
    (getDie traced 0).trace.snapT.toNat ≤ (getDie traced 0).time.ftime ∧ spGet 0 (getDie traced 0).mem.herr 5 = 1 ∧ spGet 0 (getDie base 0).mem.herr 5 = 0 ∧
    residents traced 0 = [w0] ∧
    after .snapTrigger traced (fun t => (getDie t 0).trace.snapValid && spGet 0 (getDie t 0).trace.snapWords (4 * 2 ^ 16 + 2) == 9) = true ∧
    after .scrub traced (fun t => spGet 0 (getDie t 0).mem.herr 5 == 3) = true := by decide +kernel

/-- Replay waits for agent 0 of context 0; bytes of one record; divergence. -/
def replaying : State := withEv (withDie base fun x => { x with alm := { x.alm with rply := true, log := [0] } }) { w := w0, k := 0 }

theorem wit_replay : recAgent 0 = agentKey w0 0 ∧ (∀ e ∈ allDies replaying, e ≠ 0 → (getDie replaying e).alm.rply = false) ∧ (getDie replaying 0).alm.go.contains (agentKey w0 0) = false ∧
    after .replayOrderPoint replaying (fun t => (getDie t 0).alm.go.contains (agentKey w0 0)) = true ∧
    (let s := withEv base { w := w0, n := 0x9000, bytes := leBytes 32 7 }; dieOk s 0 = true ∧ (getDie s 0).alm.rply = false ∧ s.ev.bytes.length % 32 = 0 ∧
      after .replayStart s (fun t => (getDie t 0).alm.log == [7]) = true) := by decide +kernel

theorem wit_broadcasts : let s := withEv (withDie (net base []) fun x => { x with alm := { x.alm with div := true, rply := true } }) { w := w0, n := 2, v := 9 }
    s.ev.b = false ∧ dieOk s 0 = true ∧ (∀ k < 3, (getDie s 0).fab.seen.contains (4 * 2 + k) = false) ∧ (getDie s 0).alm.div = true ∧ (getDie s 0).trace.snapPend = false ∧
    after .systemStopBroadcast s (fun t => (getDie t 0).stopAt == some 9 && t.net.length == 1) = true ∧
    after .snapshotBroadcast s (fun t => (getDie t 0).trace.snapPend && t.net.length == 1) = true ∧
    after .replayHaltBroadcast s (fun t => (getCtx t w0).halted && t.net.length == 1) = true := by decide +kernel

theorem wit_stopArrives : let m : Msg := { kind := .stop, src := 1, dst := 0, tag := 7, opnd := 33 }
    let s := withEv (net base [m]) { b := true }
    Arrives s .stop m ∧ (getDie s 0).fab.seen.contains (4 * 7) = false ∧ after .systemStopBroadcast s (fun t => (getDie t 0).stopAt == some 33) = true := by
  unfold Arrives; decide +kernel

/-! ### Witnesses: bookings between dies (12), links and fabric time (17) -/

/-- Fabric time is 640 ns: slot 2. -/
def slotted (f : ReeveSt → ReeveSt) : State :=
  withEv (withDie (linked base) fun x => { x with time := { x.time with ftime := 640 }, reeve := f x.reeve }) { w := w0, k := 1 }

theorem wit_slotStart : let s := slotted fun r => { r with excl := [(1, 2), (2, 2)] }
    dieOk s 0 = true ∧ (reeveOf s 0).slot < slotNow s 0 ∧ (reeveOf s 0).bks = [] ∧ (reeveOf s 0).others = [] ∧ (reeveOf s 0).held = [] ∧
    after .slotStart s (fun t => (reeveOf t 0).slot == 2 && (reeveOf t 0).excl == [(2, 2)]) = true := by decide +kernel

/-- A booked use of slot 2 on the Mill of core 0. -/
def dueOne : Booking := { st := .booked, gen := 1, prio := 3, uses := [{ cls := 0, placed := true, pinst := 0, slots := [2] }] }

theorem wit_gateOpens : let s := withCtx (slotted fun r => { r with bks := [(1, dueOne)], excl := [(2, 2 + 65 * 32)] }) fun c => { c with
      job := some { bkd := true, handle := 65 } }
    (getDie s 0).power.state = 0 ∧ (getDie s 0).power.target = none ∧ (getDie s 0).time.off160 = false ∧ (reeveOf s 0).edges = [] ∧ dueOne.isGang = false ∧
    jobAt (getDie s 0) 1 dueOne = some (0, 0) ∧ (∀ u ∈ dueOne.uses, u.cls < 2 ∧ u.slots = [slotNow s 0] ∧ u.ended = false ∧ u.gate = false ∧ u.closing = false ∧ u.unb = false) ∧
    after .slotStart s (fun t => (bkOf t 0 1).st == .running && (nthUse (bkOf t 0 1) 0).gate) = true := by decide +kernel

/-- The same with jobs of others in both contexts of the core. -/
theorem wit_gateWaits : let s := modCtx (slotted fun r => { r with bks := [(1, dueOne)], excl := [(2, 2 + 65 * 32)] }) ⟨0, 0, 1⟩ fun c => { c with job := some {} }
    jobAt (getDie s 0) 1 dueOne = none ∧ (∀ k < 2, (getCtx s ⟨0, dueOne.core, k⟩).job.isSome = true) ∧
    after .slotStart s (fun t => (bkOf t 0 1).st == .booked && !(nthUse (bkOf t 0 1) 0).gate) = true := by decide +kernel

theorem wit_intakeAgeing : let s := withDie (slotted fun r => { r with bks := [(1, { st := .queued, gen := 1, level := 2 })], rvage := [(2, 0)] }) fun x => { x with
      time := { x.time with ftime := 2000000 }, reeve := { x.reeve with rvage := [(2, 1)] } }
    inIntake (bkOf s 0 1) = true ∧ (bkOf s 0 1).level < 6 ∧ bits (spGet 1000 (reeveOf s 0).rvage 2) 0 32 * 1000 ≠ 0 ∧
    (bkOf s 0 1).since + bits (spGet 1000 (reeveOf s 0).rvage 2) 0 32 * 1000 ≤ ftimeNow s 0 ∧
    after .intakeAgeing s (fun t => (bkOf t 0 1).level == 3) = true := by decide +kernel

theorem wit_bookResult : let s := withEv (withDie (linked base) fun x => { x with
      acc := [{ id := 1, w := w0, kind := .result, dest := .g 5 false }], reeve := { x.reeve with results := [(1, true, BitVec.ofNat 64 (65 * 2 ^ 8 + 7 * 2 ^ 32))] } }) { w := w0, k := 0 }
    ((reeveOf s 0).results[0]?).isSome = true ∧ (accAt (getDie s 0) 1).isSome = true ∧ quietDie (getDie s 0) = true ∧
    after .bookResult s (fun t => (readG (getCtx t w0) 5).toNat == 65 * 2 ^ 8 + 7 * 2 ^ 32) = true := by decide +kernel

/-- Die 1 asks for the Mill of core 0 for slots 100 to 103. -/
def ask (k : MKind) : Msg :=
  { kind := k, src := 1, dst := 0, tag := 65, opnd := 40, parts := [{ use := 0, cls := 0, dirin := false, any := false, inst := 0, dem := 0, slots := [100, 101, 102, 103] }] }

def asks (k : MKind) : State := withDie (net base [ask k]) fun x => { x with time := { x.time with set := true } }

def grantedMarks (k : MKind) : List RMk := (grantParts 0 (getDie (asks k) 0) 40 true 0 (ask k).parts []).getD []

theorem wit_prep : ∀ k ∈ [MKind.prep, .gang], Arrives (asks k) k (ask k) ∧ Grants (asks k) 0 (asked (ask k) (if k = .gang then (ask k).task else none)) (grantedMarks k) ∧
    (let s := withDie (asks k) fun x => { x with time := { x.time with set := false } }; Arrives s k (ask k) ∧ calendarsRun (getDie s 0) = false) := by
  unfold Arrives Grants; decide +kernel

theorem wit_prep_run : after .prep (asks .prep) (fun t => t.net.map Msg.kind == [.bkAck] && (reeveOf t 0).others.length == 1) = true ∧
    after .gangProposal (asks .gang) (fun t => t.net.map Msg.kind == [.bkAck]) = true ∧
    after .prep (withDie (asks .prep) fun x => { x with time := { x.time with set := false } }) (fun t => t.net.map Msg.opnd2 == [0x0A]) = true := by decide +kernel

/-- Booking 1 of die 0 in a state, its two-phase commit with die 1 (and die 2) under way; an answer from die 1. -/
def committed (st : BkState) (ps : List Part) (m : Msg) : State :=
  withEv (withDie (net base [m]) fun x => { x with
    reeve := { x.reeve with bks := [(1, { st := st, gen := 1, stamp := 40, prio := 3, parts := ps, uses := [{}], who := some (w0, 7) })] } }) { w := w0, k := 0 }

def ans (k : MKind) (op : Nat) (c : Word) : Msg := { kind := k, src := 1, dst := 0, tag := 65, op := op, opnd := 40, opnd2 := c }

def one : List Part := [{ die := 1 }]

def two : List Part := [{ die := 1 }, { die := 2 }]

theorem wit_bkAck : Arrives (committed .preparing one (ans .bkAck 0 0)) .bkAck (ans .bkAck 0 0) ∧
    AsksFor (committed .preparing one (ans .bkAck 0 0)) (ans .bkAck 0 0) 1 .preparing ∧
    AsksFor (committed .preparing two (ans .bkAck 0 0)) (ans .bkAck 0 0) 1 .preparing ∧ (∃ p ∈ two, p.die ≠ 1 ∧ p.ack = false ∧ p.nack = 0) ∧
    (getDie (committed .preparing one (ans .bkAck 0 0)) 0).time.off160 = false ∧
    after .bookingAck (committed .preparing one (ans .bkAck 0 0)) (fun t => (bkOf t 0 1).st == .committing && t.net.map Msg.dst == [1]) = true ∧
    after .bookingAck (committed .preparing two (ans .bkAck 0 0)) (fun t => (bkOf t 0 1).st == .preparing && t.net.isEmpty) = true := by
  unfold Arrives AsksFor; decide +kernel

theorem wit_bkNack : (∀ m ∈ [ans .bkNack 0 6, ans .bkNack 4 0], Arrives (committed .preparing one m) .bkNack m ∧ AsksFor (committed .preparing one m) m 1 .preparing) ∧
    (bkOf (committed .preparing one (ans .bkNack 0 6)) 0 1).queue = false ∧ (bkOf (committed .preparing one (ans .bkNack 4 0)) 0 1).isGang = false ∧ (bkOf (committed .preparing one (ans .bkNack 4 0)) 0 1).restarts < 16 ∧
    after .bookingNack (committed .preparing one (ans .bkNack 0 6)) (fun t => (bkOf t 0 1).st == .free) = true ∧
    after .bookingNack (committed .preparing one (ans .bkNack 4 0)) (fun t => (bkOf t 0 1).st == .placing && (bkOf t 0 1).planE == 4) = true := by
  unfold Arrives AsksFor; decide +kernel

/-- Die 1's booking has marks here. -/
def marked (m : Msg) : State := withDie (net base [m]) fun x => { x with
  reeve := { x.reeve with others := [{ die := 1, handle := 65, stamp := 40, since := 0, marks := [{ use := 0, ex := true, cal := 0, slots := [100], units := 0 }] }] } }

theorem wit_commit : Arrives (marked (ans .bkCommit 0 0)) .bkCommit (ans .bkCommit 0 0) ∧ (otherOf (getDie (marked (ans .bkCommit 0 0)) 0) 1 65).isSome = true ∧
    otherOf (getDie (net base [ans .bkCommit 0 0]) 0) 1 65 = none ∧ (reeveOf (marked (ans .bkCommit 0 0)) 0).held = [] ∧
    (let s := marked (ans .bkAbort 0 0); Arrives s .bkAbort (ans .bkAbort 0 0) ∧ IntakeEmpty s 0) ∧
    Arrives (marked (ans .refuse 0 0)) .refuse (ans .refuse 0 0) ∧
    after .bookingCommit (marked (ans .bkCommit 0 0)) (fun t => t.net.map Msg.kind == [.bkCommitAck] && (reeveOf t 0).others.all RBook.comm) = true ∧
    after .bookingAbort (marked (ans .bkAbort 0 0)) (fun t => (reeveOf t 0).others.isEmpty) = true ∧
    after .refuse (marked (ans .refuse 0 0)) (fun t => (reeveOf t 0).others.all RBook.held) = true := by
  unfold Arrives IntakeEmpty; decide +kernel

theorem wit_commitAck : (∀ k ∈ [MKind.bkCommitAck, .bkCommitNack], Arrives (committed .committing one (ans k 0 0)) k (ans k 0 0) ∧
      AsksFor (committed .committing one (ans k 0 0)) (ans k 0 0) 1 .committing ∧ (bkOf (committed .committing one (ans k 0 0)) 0 1).pend = []) ∧
    (∃ p ∈ two, p.die ≠ 1 ∧ p.commit = false) ∧
    after .bookingCommitAck (committed .committing one (ans .bkCommitAck 0 0)) (fun t => (bkOf t 0 1).st == .booked && (reeveOf t 0).results.length == 1) = true ∧
    after .bookingCommitNack (committed .committing one (ans .bkCommitNack 0 0)) (fun t => (bkOf t 0 1).st == .placing && (bkOf t 0 1).restarts == 1) = true := by
  unfold Arrives AsksFor; decide +kernel

theorem wit_wound : (∀ st ∈ [BkState.preparing, .committing, .booked, .running], Arrives (committed st one (ans .wound 0 0)) .wound (ans .wound 0 0) ∧
      AsksFor (committed st one (ans .wound 0 0)) (ans .wound 0 0) 1 st) ∧
    after .wound (committed .preparing one (ans .wound 0 0)) (fun t => (bkOf t 0 1).st == .placing) = true ∧
    after .wound (committed .booked one (ans .wound 0 0)) (fun t => t.net.map Msg.kind == [.refuse]) = true := by
  unfold Arrives AsksFor; decide +kernel

/-- Slot 64 has come. -/
def late (s : State) (k : Nat) : State := withEv (withDie s fun x => { x with time := { x.time with ftime := 64 * 320 } }) { w := w0, k := k }

theorem wit_timeouts : ((reeveOf (late (marked (ans .refuse 0 0)) 0) 0).others[0]?).isSome = true ∧ slotNow (late (marked (ans .refuse 0 0)) 0) 0 = 64 ∧
    (let s := late (committed .preparing one (ans .refuse 0 0)) 1; (bkOf s 0 1).st = .preparing ∧ (∃ p ∈ (bkOf s 0 1).parts, p.ack = false ∧ p.nack = 0) ∧ (bkOf s 0 1).sentAt + 64 ≤ slotNow s 0 ∧
      after .remoteAnswerTimeout s (fun t => (bkOf t 0 1).st == .free) = true) ∧
    after .tentativeMarkTimeout (late (marked (ans .refuse 0 0)) 0) (fun t => (reeveOf t 0).others.isEmpty) = true := by decide +kernel

/-- A flit of type 1 with sequence number `n` on VC 0 at port 0 of die 0. -/
def aFlit (n : Nat) : List Byte :=
  let h := 2 ^ 8 + n * 2 ^ 52
  let f := leBytes 8 h ++ leBytes 8 0 ++ List.replicate 240 0
  leBytes 8 h ++ leBytes 8 (flitCrc f).toNat ++ List.replicate 240 0

def atPort (s : State) (f : List Byte) : State := withEv s { w := w0, n := 0, bytes := f }

set_option maxRecDepth 1000000 in
theorem wit_flits : (let s := atPort (linked base) (aFlit 0); dieOk s 0 = true ∧ cabled s 0 0 = true ∧ linkUp s 0 0 = true ∧ neighbour s 0 0 ≠ 0 ∧ s.ev.b = false ∧ s.ev.bytes.length = 256 ∧
      leNat ((s.ev.bytes.drop 8).take 8) = (flitCrc s.ev.bytes).toNat ∧ flitHeader s.ev.bytes / 2 ^ 8 % 128 ≠ 0 ∧ flitHeader s.ev.bytes / 2 ^ 52 % 4096 = (portOf s 0 0).exp) ∧
    flitHeader (aFlit 1) / 2 ^ 52 % 4096 ≠ 0 ∧
    after .flitReceive (atPort (linked base) (aFlit 0)) (fun t => (portOf t 0 0).exp == 1 && (portOf t 0 0).rx.length == 1) = true ∧
    after .flitReceive (atPort (linked base) (aFlit 1)) (fun t => (portOf t 0 0).nak && (portOf t 0 0).rx.isEmpty) = true ∧
    after .flitReceive (atPort (linked base) []) (fun t => (portOf t 0 0).nak && (portOf t 0 0).crce == 1) = true := by decide +kernel

/-- A message of one flit from die 1 to die 0, and its flit as it waits. -/
def oneFlit : Msg := { kind := .reply, src := 1, dst := 0, w := w0, tag := 1, opnd := 42 }

def waitFlit : Flit := { msg := 2 ^ 15 + 1, idx := 0, nfl := 0, typ := 1 + (Config.msgType (MKind.ctorIdx .reply)).toNat % 127, vc := 1, dst := 0 }

def linkWaits : State := withEv (send (linked base) oneFlit) { w := w0, n := 0, b := true }

theorem wit_oneFlit : (let s := linkWaits; let o := portOf s 1 (farPort 0); dieOk s 0 = true ∧ dieOk s 1 = true ∧ cabled s 0 0 = true ∧ linkUp s 0 0 = true ∧
      neighbour s 0 0 = 1 ∧ s.ev.b = true ∧ o.resend = [] ∧ o.lock = [] ∧ o.rbuf.length < 512 ∧ o.seq = (portOf s 0 0).exp ∧
      (portOf s 0 0).exp < 4096 ∧ s.net = [{ oneFlit with num := waitFlit.msg, need := 1 }] ∧ (spGet 0 o.sent 2 + 4096 - spGet 0 o.retd 2) % 4096 < Claims.Room 2) ∧
    (portOf linkWaits 1 (farPort 0)).outq = [waitFlit] ∧ Claims.FlitOk waitFlit := by
  refine ⟨by decide +kernel, rfl, rfl, rfl, ?_, ?_, by decide, rfl, .inl rfl⟩
  · show 0 < 1 + (Config.msgType _).toNat % 127
    omega
  · show 1 + (Config.msgType _).toNat % 127 < 128
    omega

set_option maxRecDepth 1000000 in
theorem test_flit_crosses :
    after .flitReceive (modDie linkWaits 1 fun x => setPort x (farPort 0) { getPort x (farPort 0) with outq := [{ waitFlit with typ := 5 }] })
      (fun t => (portOf t 0 0).exp == 1 && t.net.map Msg.got == [1] && (portOf t 1 (farPort 0)).outq.isEmpty && (portOf t 0 0).freed == [(2, 1)] &&
        (msgOf t 0 .reply).isSome) = true := by decide +kernel

/-- Port 0 of die 0 in a state, with failures and tries. -/
def port (st tries fails : Nat) : State :=
  atPort (modDie (withDie (linked base) fun x => setPort x 0 { state := st, tries := tries, failRow := fails, crce := 3 }) 1 fun x => setPort x 1 { state := st }) []

theorem wit_training : (let s := port 2 8 0; linkUp s 0 0 = true ∧ 8 ≤ (portOf s 0 0).tries ∧ after .linkRetrain s (fun t => (portOf t 0 0).state == 1 && (portOf t 1 1).state == 1) = true) ∧
    (let s := port 1 0 0; neighbour s 0 0 = 1 ∧ cabled s 0 0 = true ∧ (portOf s 0 0).state = 1 ∧ (portOf s 1 (farPort 0)).state = 1 ∧
      after .trainingComplete s (fun t => (portOf t 0 0).state == 2) = true ∧
      after .trainingComplete (withEv s { w := w0, b := true }) (fun t => (portOf t 0 0).state == 1 && (portOf t 0 0).failRow == 1) = true) ∧
    after .trainingComplete (withEv (port 1 0 2) { w := w0, b := true }) (fun t => (portOf t 0 0).state == 0 && (getDie t 1).moot.length == 1) = true ∧
    linkDown (port 0 0 3) 0 0 = true ∧ after .mootLinkRetrain (port 0 0 3) (fun t => (portOf t 0 0).state == 1) = true ∧
    after .linkStatusRead (port 2 0 0) (fun t => t.out.length == 8 && (portOf t 0 0).crce == 0) = true := by decide +kernel

/-- Die 1 is die 0's parent over port 0; a beacon from it. -/
def timed (set : Bool) (ft : Nat) (b : Word) : State :=
  withEv (withDie (net base [{ kind := .beacon, src := 1, dst := 0, agent := 0, opnd := b }]) fun x => { x with
    time := { x.time with set := set, ftime := ft, parent := some 0, root := false } }) { w := w0, n := 0, k := 0 }

theorem wit_beacons : (∀ p ∈ [timed false 0 1000, timed true 1060 1000, timed true 1000 1000], Arrives p .beacon { kind := .beacon, src := 1, dst := 0, agent := 0, opnd := 1000 } ∧
      parentPort p 0 = some 0) ∧ parentPort (timed true 0 0) 1 ≠ some 0 ∧
    after .beacon (timed false 0 1000) (fun t => (getDie t 0).time.ftime == 1064 && (getDie t 0).time.set) = true ∧
    after .beacon (timed true 1060 1000) (fun t => (getDie t 0).time.corr == 4 && !(getDie t 0).time.oos) = true ∧
    after .beacon (timed true 800 1000) (fun t => (getDie t 0).time.oos && (getDie t 0).time.off160) = true := by
  unfold Arrives; decide +kernel

theorem wit_fabricTime : (let s := withDie (timed true 9000 0) fun x => { x with time := { x.time with root := true, osc := 1000000, bcnSeq := 1, bcnT := 1000 } };
      dieOk s 0 = true ∧ (getDie s 0).time.bcnT + 8000 ≤ (getDie s 0).time.ftime ∧ after .beaconSend s (fun t => (getDie t 0).time.bcnSeq == 2) = true) ∧
    (let s := withDie (timed true 9000 0) fun x => { x with time := { x.time with osc := 1000000, bcnT := 0 } };
      (getDie s 0).time.root = false ∧ 1000000 ≤ (getDie s 0).time.osc - (getDie s 0).time.bcnT ∧ after .beaconTimeout s (fun t => (getDie t 0).time.oos && (getDie t 0).moot.length == 1) = true) ∧
    (let s := modDie (withEv (linked base) { w := w0, n := 0, k := 150, v := 10 }) 1 fun x => { x with time := { x.time with set := true } }; cabled s 0 0 = true ∧ linkUp s 0 0 = true ∧ (getDie s (neighbour s 0 0)).time.set = true ∧ (getDie s (neighbour s 0 0)).time.oos = false ∧
      after .linkDelayMeasure s (fun t => (portOf t 0 0).delay == 70) = true ∧ after .parentPortAssign s (fun t => (getDie t 0).time.parent == some 0) = true) := by
  decide +kernel

/-! ### Witnesses: bundles between dies (17 R443 to R449; 18 R466 to R468) -/

/-- Window 0 of die 0 is one bundle page of 4096 bytes at 0x10000; the line at its start has state bits in its two records, and stamps. -/
def homed (m : Msg) (st0 st1 : Nat) (v0 v1 : Nat) : State :=
  withHbm (withHbm (windowed (net base [m]) 0 0x110 0x10000 4096) 0x12000 (leBytes 8 v0 ++ leBytes 1 st0)) 0x13000 (leBytes 8 v1 ++ leBytes 1 st1)

def bnMsg (k : MKind) (st : Word) : Msg := { kind := k, src := 1, dst := 0, w := { die := 1, core := 0, ctx := 0 }, tag := 3, op := 2, addr := 512, opnd := st, bytes := List.replicate 128 7 }

/-- Stamp 50 is current in slot 0; stamp 60 pends in slot 1, or none does. -/
def pends (k : MKind) (st : Word) : State := homed (bnMsg k st) 0x40 0x20 50 60

def calm (k : MKind) (st : Word) : State := homed (bnMsg k st) 0x40 0 50 0

theorem wit_line : (∀ k ∈ [MKind.prepare, .bCommit, .bAbort, .readCur, .readExact, .committed, .unknown], Arrives (pends k 60) k (bnMsg k 60)) ∧
    (let s := pends .prepare 70; let l := lineAt s 0 512; l = { a := 0x10000, size := 4096, cur := 0 } ∧ (slotSt s 0 l (otherSlot l)).testBit 5 = true ∧ curStamp s 0 l = 50) ∧
    (let s := calm .prepare 60; let l := lineAt s 0 512; l = { a := 0x10000, size := 4096, cur := 0 } ∧ (slotSt s 0 l (otherSlot l)).testBit 5 = false ∧ curStamp s 0 l < 60 ∧
      50 ≤ curStamp s 0 l ∧ SlotGood s 0 l l.cur ∧ slotStamp s 0 l (otherSlot l) ≠ 40) ∧
    (let s := pends .bCommit 60; let l := lineAt s 0 512; pendingIs s 0 l 60 = true ∧ pendingIs s 0 l 61 = false) := by
  unfold Arrives SlotGood; decide +kernel

theorem wit_lineQuiet : quietDie (getDie (pends .prepare 60) 0) = true ∧ quietDie (getDie (calm .prepare 60) 0) = true := by decide +kernel

theorem wit_line_run :
    after .prepare (pends .prepare 70) (fun t => t.net.map Msg.kind == [.bBusy] && t.net.map Msg.opnd2 == [60]) = true ∧
    after .prepare (calm .prepare 50) (fun t => t.net.map Msg.kind == [.bStale]) = true ∧
    after .prepare (calm .prepare 60) (fun t => t.net.map Msg.kind == [.bAck] && memGet (getDie t 0).mem.hbm 0x11000 == 7 && memGet (getDie t 0).mem.hbm 0x13008 == 0x30) = true ∧
    after .bundleCommit (pends .bCommit 60) (fun t => t.net.map Msg.kind == [.bCommitAck] && (memGet (getDie t 0).mem.hbm 0x13008).getLsbD 6) = true ∧
    after .bundleCommit (calm .bCommit 50) (fun t => t.net.map Msg.kind == [.bCommitAck]) = true ∧
    after .bundleCommit (calm .bCommit 61) (fun t => t.net.map Msg.kind == [.bCommitNack]) = true ∧
    after .bundleAbort (pends .bAbort 60) (fun t => t.net.map Msg.kind == [.bAbortAck] && !((memGet (getDie t 0).mem.hbm 0x13008).getLsbD 5)) = true ∧
    after .readCurrent (pends .readCur 0) (fun t => t.net.map Msg.kind == [.bData] && t.net.map Msg.opnd == [50]) = true ∧
    after .readExact (pends .readExact 40) (fun t => t.net.map Msg.kind == [.superseded]) = true := by decide +kernel

/-- A BNDS asks for a line, and its answer. -/
def bndsMsg : Msg := { kind := .bndsReq, src := 1, dst := 0, w := { die := 1, core := 0, ctx := 0 }, tag := 3, addr := 0x80, size := 128 }

def bndsAsks (p : Nat) : State := windowed (net base [bndsMsg]) 0 p 0x10000 4096

def bndsBack (r : Nat) : State :=
  withDie (net base [{ kind := .bndsAns, src := 1, dst := 0, w := w0, tag := 1, op := r, opnd := 99 }]) fun x => { x with acc := [{ id := 1, w := w0, kind := .bnds 1 0 }] }

theorem wit_bnds : Arrives (bndsAsks 0x110) .bndsReq bndsMsg ∧ (windowFor (bndsAsks 0x110) 0 0x80 0 4 128).map Win.bn = some true ∧
    windowFor (bndsAsks 0x100) 0 0x80 0 4 128 = none ∧
    (∀ r ∈ [0, 1], Arrives (bndsBack r) .bndsAns { kind := .bndsAns, src := 1, dst := 0, w := w0, tag := 1, op := r, opnd := 99 } ∧ ctxAnswers (bndsBack r) w0 = true ∧
      (accAt (getDie (bndsBack r) 0) 1).map Access.kind = some (.bnds 1 0) ∧ hdrNl (bdHdr (getBd (getCtx (bndsBack r) w0) 1)) = 0) ∧
    after .bndsLineRequest (bndsAsks 0x110) (fun t => t.net.map Msg.opnd == [513]) = true ∧
    after .bndsComplete (bndsBack 0) (fun t => bdLine (getBd (getCtx t w0) 1) 0 == 99 && (getDie t 0).acc.isEmpty) = true ∧
    after .bndsComplete (bndsBack 1) (fun t => hdrBad (bdHdr (getBd (getCtx t w0) 1)) && (getCtx t w0).reports.length == 1) = true := by
  unfold Arrives; decide +kernel

/-- A BNDC of Carter 0 with two lines, stamp 60, in a phase; an answer for line `n`. -/
def aBndc (ph : Nat) (aw : List Nat) : Cmd :=
  { kind := .bndc, seq := 4, wait := 1, started := true, bd := 1, bw := { stamp := 60, data := [List.replicate 128 1, List.replicate 128 2], phase := ph, await := aw } }

def bnAns (k : MKind) (n : Nat) (c : Word) : Msg := { kind := k, src := 1, dst := 0, w := w0, agent := 3, tag := 4, op := n, opnd := 60, opnd2 := c }

def bndcAt (ph : Nat) (aw : List Nat) (m : Msg) : State :=
  withEv (withCtx (net base [m]) fun c => { c with
    c0 := { q := [aBndc ph aw] }
    bds := [(1, { w := [(0, 512 + 2 * 2 ^ 52), (1, 513)] })] }) { w := w0, k := 0 }

theorem wit_writer : (∀ k ∈ [MKind.bAck, .bBusy, .bStale], ∀ aw ∈ [[0, 1], [0]], Arrives (bndcAt 1 aw (bnAns k 0 55)) k (bnAns k 0 55) ∧
      Writes (bndcAt 1 aw (bnAns k 0 55)) (bnAns k 0 55) (aBndc 1 aw) 1) ∧
    (∀ k ∈ [MKind.bCommitAck, .bCommitNack], Arrives (bndcAt 2 [0] (bnAns k 0 0)) k (bnAns k 0 0) ∧ Writes (bndcAt 2 [0] (bnAns k 0 0)) (bnAns k 0 0) (aBndc 2 [0]) 2) ∧
    Arrives (bndcAt 2 [] (bnAns .bAbortAck 0 0)) .bAbortAck (bnAns .bAbortAck 0 0) := by
  unfold Arrives Writes; decide +kernel

theorem wit_writer_run :
    after .bundleAck (bndcAt 1 [0, 1] (bnAns .bAck 0 0)) (fun t => (Machine.headCmd (getCtx t w0) 0).map (fun q => q.bw.await) == some [1]) = true ∧
    after .bundleAck (bndcAt 1 [0] (bnAns .bAck 0 0)) (fun t => t.net.map Msg.kind == [.bCommit, .bCommit] && (getDie t 0).fab.won.contains 60) = true ∧
    after .busy (bndcAt 1 [0] (bnAns .bBusy 0 55)) (fun t => (Machine.headCmd (getCtx t w0) 0).map (fun q => (q.bw.phase, q.bw.aborts, q.bw.until_)) == some (3, 1, 128)) = true ∧
    after .bundleCommitAck (bndcAt 2 [0] (bnAns .bCommitAck 0 0)) (fun t => (Machine.headCmd (getCtx t w0) 0).map Cmd.moved == some true) = true ∧
    after .bundleCommitNack (bndcAt 2 [0] (bnAns .bCommitNack 0 0)) (fun t => (Machine.headCmd (getCtx t w0) 0).map Cmd.fail == some 0x1A) = true := by
  decide +kernel

theorem wit_backoff : (∀ ph ∈ [3, 4], let s := bndcAt ph [] (bnAns .bAbortAck 0 0)
      (Machine.headCmd (getCtx s w0) (evK s)) = some (aBndc ph []) ∧ whoOk s w0 = true ∧ ctxAnswers s w0 = true ∧ (aBndc ph []).bw.until_ ≤ ftimeNow s 0 ∧
      (aBndc ph []).bw.until_ ≤ cycNow s 0 ∧ (aBndc ph []).bw.stale = false) ∧
    after .bundleBackoff { bndcAt 3 [] (bnAns .bAbortAck 0 0) with net := [] } (fun t => t.net.map Msg.kind == [.prepare, .prepare]) = true := by decide +kernel

/-- A BNDR of context 1 that awaits lines; a version for line 0. -/
def dataMsg : Msg := { kind := .bData, src := 1, dst := 0, w := w0, agent := 1, tag := 1, op := 0, opnd := 50, bytes := List.replicate 128 9 }

def reading (aw : List Nat) : State :=
  withDie (withCtx (net base [dataMsg]) fun c => { c with
    bndr := [{ bd := 1, id := 1, await := aw }]
    bds := [(1, { w := [(0, 512 + 2 ^ 52), (1, 513)] })] }) fun x => { x with acc := [{ id := 1, w := w0, kind := .result, dest := .g 5 false }] }

theorem wit_reader : (∀ aw ∈ [[0], [0, 1]], Arrives (reading aw) .bData dataMsg ∧ Reads (reading aw) dataMsg { bd := 1, id := 1, await := aw }) ∧
    quietDie (getDie (reading [0]) 0) = true ∧ (accAt (getDie (reading [0]) 0) 1).isSome = true ∧
    after .bndrRoundComplete (reading [0, 1]) (fun t => (getCtx t w0).bndr.map BndRd.await == [[1]]) = true ∧
    after .bndrRoundComplete (reading [0]) (fun t => (getCtx t w0).bndr.isEmpty && (readG (getCtx t w0) 5).toNat == 2 ^ 12 && spByte (getCore t w0) 5 == 9) = true := by
  unfold Arrives Reads; decide +kernel

/-- A version of stamp 60, of die 1's die number, pends since slot 0; slot 64 has come. -/
def stands (asked : Bool) : State :=
  withEv (withDie (pends .query 60) fun x => { x with
    time := { x.time with ftime := 64 * 320 }
    fab := { x.fab with pendv := [{ stamp := 60 + 32, data0 := 0x10000, slot := 0, since := 0, asked := asked }] } }) { w := w0, k := 0 }

theorem wit_outcomes : (∀ b ∈ [true, false], ((getDie (stands b) 0).fab.pendv[0]?).map PendV.asked = some b ∧ 64 ≤ slotNow (stands b) 0) ∧
    Arrives (pends .query 60) .query (bnMsg .query 60) ∧
    (∀ k ∈ [MKind.committed, .unknown], let s := pends k 60; OnLine s (bnMsg k 60) { a := 0x10000, size := 4096, cur := 0 } ∧ pendingIs s 0 { a := 0x10000, size := 4096, cur := 0 } 60 = true) ∧
    after .pendingVersionTimeout { stands false with net := [] } (fun t => t.net.map Msg.kind == [.query]) = true ∧
    after .outcomeTimeout (stands true) (fun t => (getDie t 0).moot.length == 1) = true ∧
    after .outcomeQuery (pends .query 60) (fun t => t.net.map Msg.kind == [.unknown]) = true ∧
    after .committed (pends .committed 60) (fun t => (memGet (getDie t 0).mem.hbm 0x13008).getLsbD 6) = true ∧
    after .unknown (pends .unknown 60) (fun t => !((memGet (getDie t 0).mem.hbm 0x13008).getLsbD 5)) = true := by
  unfold Arrives OnLine; decide +kernel

/-! ### Witnesses: the front end, the host, power (16) -/

/-- A field of a packet, marked mandatory; a packet of a type. -/
def field (ty : Nat) (vs : List Nat) : List Nat := (ty + 2 ^ 16 + (vs.length + 1) * 2 ^ 17) :: vs

def packet (pt : Nat) (fs : List Nat) : List Nat := 0x50001 :: (pt + (fs.length + 2) * 2 ^ 16) :: fs

/-- Queue `q` of package 0: its ring at 0x200000 of die 0, window 0 over all of the die's memory, a packet in it. -/
def aQueue (q n : Nat) : Queue :=
  { ring := 0x200000, log2 := 12, prio := 2, en := true, xctx := w64 placeRoot, dwin := [(0, mkCap 20 0 65535 0 3 0 0 true)], wridx := w64 (8 * n),
    mapped := true, sys := q == 0, level := 2 }

def queued (q : Nat) (ws : List Nat) : State :=
  withEv (withPkg (withHbm base 0x200000 (ws.flatMap (leBytes 8))) fun x => { x with
    fectl := 1, ready := true, queues := [(q, aQueue q ws.length)] }) { n := 0, k := q }

def headOf (s : State) : HeadPkt := (headPkt s 0 s.ev.k).getD { len := 0, bytes := [], fail := none }

def fieldsOf (s : State) (pt : Nat) : List Fld :=
  let ws := wordsIn ((headOf s).len / 8) (headOf s).bytes
  (okOf (readFields s 0 pt ws.length 16 (ws.drop 2) [])).getD []

/-- What of PacketStarts is decided by evaluation. -/
def startsB (s : State) (pt : Nat) : Bool :=
  let h := headOf s
  let ws := wordsIn (h.len / 8) h.bytes
  pkgOk s 0 && feRuns (evPkg s) && decide (nextQueue s 0 = some s.ev.k) && decide (headPkt s 0 s.ev.k = some h) && h.fail.isNone &&
    decide (bits (ws.getD 1 0) 0 8 = pt) && decide (okOf (readFields s 0 pt ws.length 16 (ws.drop 2) []) = some (fieldsOf s pt)) &&
    (fldNeeds pt).all (fun ty => (fldOf (fieldsOf s pt) ty).isSome) && (pt != 6 || s.ev.k == 0) && (fldOf (fieldsOf s pt) 2).isNone && s.ev.n == 0

theorem starts_of {s : State} {pt : Nat} (h : startsB s pt = true) : PacketStarts s (headOf s) pt (fieldsOf s pt) := by
  simp only [startsB, Bool.and_eq_true, decide_eq_true_eq, Bool.or_eq_true, bne_iff_ne, beq_iff_eq, List.all_eq_true, Option.isNone_iff_eq_none] at h
  obtain ⟨⟨⟨⟨⟨⟨⟨⟨⟨⟨h1, h2⟩, h3⟩, h4⟩, h5⟩, h6⟩, h7⟩, h8⟩, h9⟩, h10⟩, h11⟩ := h
  rw [PacketStarts, h11]
  exact ⟨h1, h2, h3, h4, h5, h6, of_okOf h7, h8, fun hp => h9.resolve_left fun hn => hn hp, fun f hf => by rw [h10] at hf; cases hf⟩

/-- COPY of 64 bytes from 0x300000 to 0x301000; its source not mapped. -/
def copies (a : Nat) : State := queued 1 (packet 3 (field 0x30 [a, 0x301000, 64]))

theorem wit_copy : PacketStarts (copies 0x300000) (headOf (copies 0x300000)) 3 (fieldsOf (copies 0x300000) 3) ∧
    PacketStarts (copies 0x100000000) (headOf (copies 0x100000000)) 3 (fieldsOf (copies 0x100000000) 3) :=
  ⟨starts_of (by decide +kernel), starts_of (by decide +kernel)⟩

theorem wit_copy_spots : (let s := copies 0x300000; let o := opened s (headOf s)
      refSpots o (evQueue s) 0x300000 64 1 = some [hbmRun 0 0x300000 64] ∧ refSpots o (evQueue s) 0x301000 64 2 = some [hbmRun 0 0x301000 64] ∧
      (spotsRead o [hbmRun 0 0x300000 64]).length = 64 ∧ (∀ b ∈ spotsRead o [hbmRun 0 0x300000 64], b.2 = false) ∧ spotDetect o (hbmRun 0 0x300000 64) = o) ∧
    (let s := copies 0x100000000; refSpots (opened s (headOf s)) (evQueue s) 0x100000000 64 1 = none) ∧
    after .copy (withHbm (copies 0x300000) 0x300000 [1, 2, 3]) (fun t => memRead (getDie t 0).mem.hbm 0x301000 3 == [1, 2, 3] && (getPkg t 0).pkts.length == 1) = true := by
  decide +kernel

/-- SIGNAL: a store, and an addition, to 0x300000. -/
def signals (f : Nat) : State := withHbm (queued 1 (packet 5 (field 0x50 [0x300000, f, 7]))) 0x300000 (leBytes 8 5)

theorem wit_signal : ∀ f ∈ [0, 1], let s := signals f
    startsB s 5 = true ∧ okOf (sigSpots (opened s (headOf s)) (evQueue s) 0x300000 2) = some [hbmRun 0 0x300000 8] ∧
    okOf (sigSpots (opened s (headOf s)) (evQueue s) 0x300000 3) = some [hbmRun 0 0x300000 8] ∧ (fldWord (fieldsOf s 5) 0x50 1).toNat = f ∧
    after .signal s (fun t => memRead (getDie t 0).mem.hbm 0x300000 8 == leBytes 8 (7 + 5 * f)) = true := by decide +kernel

/-- BARRIER_AND on a signal of value `v`. -/
def awaits (v : Nat) : State := withHbm (queued 1 (packet 4 (field 0x40 [0x300000]))) 0x300000 (leBytes 8 v)

theorem wit_barrierAnd : ∀ v ∈ [0, 5, 2 ^ 63], let s := awaits v
    startsB s 4 = true ∧ okOf (depSpots (opened s (headOf s)) (evQueue s) (((fldOf (fieldsOf s 4) 0x40).map Fld.v).getD [])) = some [[hbmRun 0 0x300000 8]] ∧
    after .barrierAnd s (fun t => (getPkg t 0).pkts.map Pkt.ended == [if v = 0 then some (0, 0, 0) else if v = 5 then none else some (4, 16, 0)]) = true := by
  decide +kernel

theorem wit_barrierAndRead : let o := opened (awaits 0) (headOf (awaits 0))
    let s := withEv o { n := 0, k := 0 }
    pkgOk s 0 = true ∧ (evPkg s).pkts.length = 1 ∧ (∀ p ∈ (evPkg s).pkts, p.ended = none ∧ pktType p = 4 ∧ (fldOf (pktFields s 0 p) 0x40).isSome = true ∧
      (okOf (depSpots s (getQueue (evPkg s) p.q) (((fldOf (pktFields s 0 p) 0x40).map Fld.v).getD []))).isSome = true) ∧
    after .barrierAndRead s (fun t => (getPkg t 0).pkts.map Pkt.ended == [some (0, 0, 0)]) = true := by decide +kernel

/-- A BOOK packet: a task of one use at PRIO 1, or a descriptor of zeros. -/
def books (b : List Byte) : State := withDie (withHbm (queued 1 (packet 2 (field 0x20 [0x300000, 0]))) 0x300000 b) fun x => { x with time := { x.time with set := true } }

theorem wit_bookPacket : (∀ b ∈ [taskBytes 1, leBytes 512 0], startsB (books b) 2 = true ∧
      (refSpots (opened (books b) (headOf (books b))) (evQueue (books b)) 0x300000 512 1).isSome = true) ∧ (taskOf 0 (leBytes 512 0)).isNone = true ∧
    (match taskOf 0 (taskBytes 1) with | some b => b.prio == 1 && b.regs.isEmpty && !b.isGang | none => false) = true ∧
    (let o := opened (books (taskBytes 1)) (headOf (books (taskBytes 1))); calendarsRun (getDie o 0) = true ∧ intakeStops (getDie o 0) = false ∧ freeBk (getDie o 0) = some 0 ∧
      intakeCount (getDie o 0) < 256) ∧
    after .bookPacket (books (taskBytes 1)) (fun t => (bkOf t 0 0).st == .queued && (getPkg t 0).pkts.map Pkt.ended == [none]) = true ∧
    after .bookPacket (books (leBytes 512 0)) (fun t => (getPkg t 0).pkts.map Pkt.ended == [some (0x0C, 0, 5)]) = true := by decide +kernel

/-- The range of argument areas has its table. -/
def argMapped (s : State) : State :=
  withHbm (withHbm s (placeRoot + 8 * 4095) (leBytes 8 (placeRoot + 0x20003))) (placeRoot + 0x20000 + 8 * 8191) (leBytes 8 (placeRoot + 0x30003))

/-- A launch of kernel 0 of image 1: one core-level job; the image is loaded, or it is not; a level that no partition can hold. -/
def launches (imgs : List Image) (cnt : Nat) : State :=
  withPkg (argMapped (queued 1 (packet 1 (field 0x10 [1] ++ field 0x11 [1, cnt + 2 ^ 32 + 2 ^ 35])))) fun x => { x with images := imgs }

def anImage : Image := { hdl := 1, digest := 0, gen := 3, code := [], kerns := [{ enta := 0x20000, entv := 0, entm := 0, tiles := 10, svec := none, caps := [] }], tasks := [] }

theorem wit_launch : startsB (launches [anImage] 1) 1 = true ∧ startsB (launches [] 1) 1 = true ∧
    (okOf (tryLaunch (opened (launches [anImage] 1) (headOf (launches [anImage] 1))) 0 (evPkg (launches [anImage] 1)).nextPkt (evQueue (launches [anImage] 1))
      (fieldsOf (launches [anImage] 1) 1))).isSome = true ∧
    (okOf (tryLaunch (opened (launches [anImage] 100) (headOf (launches [anImage] 100))) 0 (evPkg (launches [anImage] 100)).nextPkt (evQueue (launches [anImage] 100))
      (fieldsOf (launches [anImage] 100) 1))).isNone = true ∧ startsB (launches [anImage] 100) 1 = true ∧
    bit ((((fldOf (fieldsOf (launches [anImage] 1) 1) 0x11).map Fld.v).getD []).getD 0 0) 5 = false := by decide +kernel

theorem wit_launch_run : after .launch (launches [anImage] 1) (fun t => (getPkg t 0).launches.map (fun l => (l.id, l.jobs.length)) == [(1, 1)]) = true ∧
    after .launch (launches [] 1) (fun t => (getPkg t 0).pkts.map Pkt.ended == [some (6, 16, 0)]) = true ∧
    after .launch (launches [anImage] 100) (fun t => (getPkg t 0).launches.isEmpty) = true := by decide +kernel

/-- A packet that has ended with a status, with a completion signal at 0x300000 or none. -/
def completes (st : Nat) (sg : Bool) : State :=
  let ws := packet 5 (field 0x50 [0x301000, 0, 7] ++ if sg then field 2 [0x300000] else [])
  withPkg (withHbm (queued 1 ws) 0x300000 (leBytes 8 5)) fun x => { x with
    pkts := [{ id := 1, q := 1, off := 0, bytes := ws.flatMap (leBytes 8), ended := some (st, 16, 0) }] }

theorem wit_complete_packet : (∀ st ∈ [0, 3], ∀ sg ∈ [true, false], let s := withEv (completes st sg) { n := 0, k := 0 }
      ((evPkg s).pkts[0]?).isSome = true ∧ ((evPkg s).pkts.map (pktEnd s 0)) = [some (st, 16, 0)] ∧ (evPkg s).launches = [] ∧ ((evPkg s).pkts.map pktType) = [5] ∧
      (∀ k ∈ (evPkg s).pkts, pktScan k 3 = none ∧ pktScan k 2 = if sg then some [0x300000] else none)) ∧
    okOf (sigSpots (completes 0 true) (getQueue (getPkg (completes 0 true) 0) 1) 0x300000 3) = some [hbmRun 0 0x300000 8] ∧
    after .packetComplete (withEv (completes 0 true) { n := 0, k := 0 }) (fun t => memRead (getDie t 0).mem.hbm 0x300000 8 == leBytes 8 4 && (getPkg t 0).pkts.isEmpty) = true ∧
    after .packetComplete (withEv (completes 3 false) { n := 0, k := 0 }) (fun t => (getQueue (getPkg t 0) 1).err && (getPkg t 0).msix.length == 1) = true := by decide +kernel

/-- A CONFIG packet of the admin queue, whose window is the die's memory here. -/
def config (vs : List Nat) : State := queued 0 (packet 6 (field 0x60 vs))

/-- The record of a queue of 2^12 bytes at 0x400000, PRIO 2, enabled. -/
theorem wit_config : (∀ vs ∈ [[0x01, 0x300000], [0x02, 0], [0x03, 0], [0x10, 0x300000, 128, 0x301000], [0x20, 1 + 2 ^ 8], [0x30, 0x300000, 96], [0x40, 1, 0]],
      startsB (config vs) 6 = true) ∧
    (let s := withPkg (config [0x11, 1]) fun x => { x with images := [anImage] }; startsB s 6 = true ∧ (evPkg s).launches = [] ∧
      after .imageUnload s (fun t => (getPkg t 0).images.isEmpty) = true ∧
      after .imageUnload (withPkg s fun x => { x with launches := [{ oneLaunch with img := 1 }] }) (fun t => (getPkg t 0).pkts.map Pkt.ended == [some (5, 16, 0)]) = true) ∧
    after .queueReset (config [0x03, 0]) (fun t => (getPkg t 0).pkts.map Pkt.ended == [some (0, 0, 0)]) = true ∧
    after .almanac (config [0x40, 1, 0]) (fun t => (getDie t 0).alm.logging) = true ∧
    (∀ i < 8, let d := getDie (config [0x20, 1 + 2 ^ 8]) (pkgDie 0 i); liveIdx d d.power.wbk = none) ∧
    after .power (config [0x20, 1 + 2 ^ 8]) (fun t => (getDie t 0).power.target == some 1) = true := by decide +kernel

/-- A queue's record in HBM: one that is in order, one at level 7 without SYS, one of zeros. -/
def creates (ctl : Nat) : State := withHbm (config [0x01, 0x300000]) 0x300000 (leBytes 8 0 ++ leBytes 8 0 ++ leBytes 8 0x400000 ++ leBytes 8 ctl)

theorem wit_queueCreate : (let s := creates 0; let o := opened s (headOf s); startsB s 6 = true ∧
      (match refSpots o (evQueue s) 0x300000 256 3 with
        | some l => (spotsRead o l).all (fun b => !b.2) && (queueOf o ((spotsRead o l).map Prod.fst)).isNone
        | none => false) = true) ∧
    (let s := creates (12 + 7 * 64 + 1024); let o := opened s (headOf s); startsB s 6 = true ∧
      (match refSpots o (evQueue s) 0x300000 256 3 with
        | some l => (match queueOf o ((spotsRead o l).map Prod.fst) with | some r => queueDenied o (getPkg o 0) r | none => false)
        | none => false) = true) ∧
    after .queueCreate (creates 0) (fun t => (getPkg t 0).pkts.map Pkt.ended == [some (2, 16, 0)]) = true ∧
    after .queueCreate (creates (12 + 7 * 64 + 1024)) (fun t => (getPkg t 0).pkts.map Pkt.ended == [some (5, 16, 0)]) = true := by
  decide +kernel

/-- A record in order is denied only where the package's partition is. -/
theorem wit_queueCreated : let s := creates (12 + 2 * 64 + 1024)
    let o := opened s (headOf s)
    (match refSpots o (evQueue s) 0x300000 256 3 with
      | some l => (match queueOf o ((spotsRead o l).map Prod.fst) with | some r => r.prio == 2 && r.part == 0 && r.dwin.isEmpty | none => false)
      | none => false) = true ∧ ((List.range 4096).find? fun q => !(queueIs (getPkg o 0) q)) = some 1 := by decide +kernel

theorem wit_configBytes : let s := config [0x10, 0x300000, 128, 0x301000]
    let o := opened s (headOf s)
    ((refSpots o (evQueue s) 0x300000 128 1).map fun l => (spotsRead o l).all fun b => !b.2) = some true ∧
    refSpots o (evQueue s) 0x301000 8 2 = some [hbmRun 0 0x301000 8] ∧ okOf (loadImage (getPkg o 0) (List.replicate 128 0)) = none := by decide +kernel

/-- Queue 3 of package 0, with work. -/
def hosted (k : Nat) (v : Word) : State :=
  withEv (withPkg (linked base) fun x => { x with
    emerg := 3, queues := [(3, { log2 := 12, en := true, wridx := 64, rdidx := 16 })] }) { n := 0, k := k, v := v }

theorem wit_hostRegisters : pkgOk (hosted 0x08 1) 0 = true ∧ bit (evPkg (hosted 0x08 1)).fectl 0 = false ∧
    after .fectlWrite (hosted 0x08 1) (fun t => (getPkg t 0).fectl == 1 && (getQueue (getPkg t 0) 0).en) = true ∧
    after .fectlWrite (hosted 0x18 0x12345) (fun t => (getPkg t 0).admbase == 0x12000) = true ∧
    after .fectlWrite (hosted 0x20 20) (fun t => (getPkg t 0).admlog2 == 20) = true ∧ after .fectlWrite (hosted 0x20 21) (fun t => (getPkg t 0).admlog2 == 0x0C) = true ∧
    after .emergClear (hosted 0 1) (fun t => (getPkg t 0).emerg == 2) = true ∧ (evQueue (hosted 3 80)).log2 ≠ 0 ∧
    after .doorbell (hosted 3 80) (fun t => (getQueue (getPkg t 0) 3).wridx == 80) = true ∧
    after .doorbell (hosted 3 (16 + 4096)) (fun t => (getQueue (getPkg t 0) 3).wridx == 16 + 4096) = true ∧
    after .doorbell (hosted 3 (17 + 4096)) (fun t => (getQueue (getPkg t 0) 3).erri == 2 + 16 * 2 ^ 32) = true := by decide +kernel

theorem wit_queueSlots : (let s := withEv (withPkg (queued 1 []) fun x => { x with queues := [(1, { aQueue 1 8 with mapped := false, bell := 1 })] }) { n := 0, k := 1 }
      feRuns (evPkg s) = true ∧ queueActive (evQueue s) = true ∧ (evQueue s).mapped = false ∧ ((evPkg s).queues.filter fun u => u.2.mapped).length < 64 ∧
      (∀ u ∈ (evPkg s).queues, queueActive u.2 = true → u.2.mapped = false → (evQueue s).bell ≤ u.2.bell) ∧ after .queueMap s (fun t => (getQueue (getPkg t 0) 1).mapped) = true) ∧
    (let s := withDie (queued 1 []) fun x => { x with time := { x.time with osc := 100000, ftime := 100000 } }
     (evQueue s).mapped = true ∧ (evQueue s).wridx = (evQueue s).rdidx ∧ queueBusy (evPkg s) 1 = false ∧ after .queueUnmap s (fun t => !(getQueue (getPkg t 0) 1).mapped) = true) ∧
    (let s := withPkg (withDie (queued 1 (packet 3 [])) fun x => { x with time := { x.time with osc := 100000, ftime := 100000 } }) fun x => { x with queues := [(1, { aQueue 1 8 with age := 5 })] }
     (evQueue s).mapped = true ∧ queueActive (evQueue s) = true ∧ (evQueue s).age ≠ 0 ∧ (evQueue s).level < 6 ∧ (evQueue s).since + (evQueue s).age * 1000 < pkgNow s 0 ∧
      after .queueAgeing s (fun t => (getQueue (getPkg t 0) 1).level == 3) = true) := by decide +kernel

/-- The power of die 0. -/
def powered (p : PowerSt) (b : Bool) : State := withEv (withDie (linked base) fun x => { x with power := p, time := { x.time with osc := 30000 } }) { w := w0, b := b }

theorem wit_power : dieOk (powered {} false) 0 = true ∧
    (let s := powered { target := some 1 } false; (getDie s 0).power.relock = false ∧ (getDie s 0).power.waking = false ∧ (getDie s 0).power.drain = false ∧
      (getDie s 0).power.window ≤ slotNow s 0 ∧ after .powerChange s (fun t => (getDie t 0).power.relockEnd == 50000) = true) ∧
    (let s := modCore (powered { target := some 3, drain := true } false) w0 fun _ => {}; drained (getDie s 0) = true ∧ after .powerChange s (fun t => (getDie t 0).power.relock) = true) ∧
    after .relockComplete (powered { target := some 1, relock := true, relockEnd := 30000 } false) (fun t => (getDie t 0).power.state == 1) = true ∧
    after .idleWake (powered { state := 3, target := some 0, waking := true, relockEnd := 30000 } false) (fun t => (getDie t 0).power.state == 0) = true ∧
    after .emergencyTrip (powered {} false) (fun t => (getDie t 0).power.state == 2 && bit (getPkg t 0).emerg 0) = true ∧
    after .emergencyTrip (powered {} true) (fun t => (getDie t 0).power.trip && bit (getPkg t 0).emerg 1) = true ∧
    (let s := config [0x20, 1 + 2 ^ 8]; startsB s 6 = true ∧ bit (opWord (fieldsOf s 6) 1) 0 = true ∧ (getDie s 0).power.state ≠ bits (opWord (fieldsOf s 6) 1) 8 4) := by
  decide +kernel

theorem wit_boot : (let s := withEv base { n := 0 }; pkgOk s 0 = true ∧ (evPkg s).ready = false ∧ (evPkg s).err = false ∧ (fwPick (evPkg s)).isNone = true ∧
      spGet false (evPkg s).gfail 0 = false ∧ after .boot s (fun t => (getPkg t 0).err) = true ∧ after .granaryLinkFail s (fun t => spGet false (getPkg t 0).gfail 0) = true) ∧
    (let s := withPkg (withEv base { n := 0 }) fun x => { x with ready := true }; (evPkg s).ready = true ∧ after .mootSramError s (fun t => (getPkg t 0).err) = true) ∧
    (let s := withPkg (withEv base { n := 0, k := 4, v := 64, bytes := [1, 2] }) fun x => { x with hdm := 1 }; 64 + s.ev.k ≤ 8 * (evPkg s).hdm * 2 ^ 30 ∧ 64 % 4096 + s.ev.k ≤ 4096 ∧ after .hostHdmRead s (fun t => t.out == [0, 0, 0, 0]) = true ∧
      after .hostHdmWrite s (fun t => memGet (getDie t 0).mem.hbm (2 ^ 37 - 2 ^ 30 + 65) == 2) = true) := by decide +kernel

/-- The mailbox: GET_VERSION and GET_CAPABILITIES, a discovery of index 1, a request of a code that is none of the seven. -/
def mails (bs : List Byte) : State := withPkg (withEv base { n := 0, bytes := bs }) fun x => { x with ready := true }

theorem wit_mailbox : (evPkg (mails [0x10, 0x84])).ready = true ∧
    after .getVersion (mails [0x10, 0x84]) (fun t => (getPkg t 0).doe == [[0x10, 0x04, 0, 0, 0, 1, 0, 0x12]] && (getPkg t 0).spdm == [[0x10, 0x84]]) = true ∧
    after .getCapabilities (mails [0x10, 0xE1]) (fun t => ((getPkg t 0).doe.headD []).take 5 == [0x12, 0x61, 0, 0, 0]) = true ∧
    after .doeDiscovery (mails [1]) (fun t => (getPkg t 0).doe == [[1, 0, 1, 2]]) = true ∧
    after .doeDiscovery (mails [3]) (fun t => (getPkg t 0).doe == [[0xFF, 0xFF, 0, 0]]) = true ∧
    after .unsupportedRequest (mails [0x12, 0xE4]) (fun t => (getPkg t 0).doe == [[0x12, 0x7F, 0x07, 0xE4]]) = true := by decide +kernel

/-- With a firmware copy whose signature verifies, it is the one picked. -/
theorem wit_firmware (c : FwCopy) (h : fwValid c = true) : fwPick { fw := [c] } = some c := by simp [fwPick, h]

/-! ### Witnesses: steps, encoding, memories -/

/-- ADD g4 = g2 + g3 at the program counter; the pc off its grid; the pc where nothing is mapped; a word that is illegal. -/
def atPc (w : Nat) (pc : Word) : State :=
  withCtx (withG (State.reset.withFetchWord 32 w) [(2, 5), (3, 7)]) fun c => { c with acc := { c.acc with pc := pc } }

def addWord : Nat := 0x00184200

def fetched (s : State) : Bool × List Byte × (Nat × Word) :=
  match (fetchBytes (turnState s) w0 (getPc (getCtx (turnState s) w0) .access) 4).2 with
  | .ok bs => (true, bs, 0, 0)
  | .error e => (false, [], e)

theorem wit_stepRuns : StreamsTurn (atPc addWord 0x20000) ∧ (∀ s ∈ [atPc addWord 0x20000, atPc addWord 0x20002, atPc addWord 0x100000000, atPc 0xFF 0x20000],
      whoOk (turnState s) (turnState s).cur.w = true ∧ (boundary (turnState s)).isNone = true) := by
  refine ⟨fun t rest h => ?_, by decide +kernel⟩
  have h0 : (atPc addWord 0x20000).agenda = [] := by decide +kernel
  rw [h0] at h; cases h

theorem wit_stepRuns_fetch : (fetched (atPc addWord 0x20000)) = (true, leBytes 4 addWord, 0, 0) ∧
    okOf (decode .access (leBytes 4 addWord)) = some (.add (.g 4) (.g 2) (.g 3), []) ∧ (okOf (decode .access (leBytes 4 0xFF))).isNone = true ∧
    (fetched (atPc addWord 0x100000000)).1 = false ∧ bits (0x20002 : Word) 0 2 ≠ 0 ∧
    stepTo (atPc addWord 0x20000) (fun t => readG (getCtx t w0) 4 == 12 && (getCtx t w0).acc.pc == 0x20004) = true ∧
    stepTo (atPc addWord 0x20002) (fun t => (getCtx t w0).csr.scause == 3) = true ∧
    stepTo (atPc 0xFF 0x20000) (fun t => (getCtx t w0).csr.scause == 1 && (getCtx t w0).csr.sval == 0xFF) = true := by decide +kernel

/-- A halted context brings no instruction of its own. -/
theorem wit_stepBoundary : let s := withCtx base fun c => { c with halted := true }
    whoOk (turnState s) (turnState s).cur.w = true ∧ (boundary (turnState s)).isSome = true := by decide +kernel

theorem wit_stepBegun : let s := { begins with agenda := [] }
    StreamsTurn { s with agenda := [] } ∧ whoOk (turnState (withCtx s fun c => { c with loom := { c.loom with fly := some { i := .vld ld, rd := [1024, 1025] } } })) w0 = true ∧
    (let u := turnState (withCtx s fun c => { c with loom := { c.loom with fly := some { i := .vld ld, rd := [1024, 1025] } } })
     u.cur.w = w0 ∧ (boundary u).isNone = true ∧ begunInstr u = some (.vld ld)) ∧ begunInstr (turnState (atPc addWord 0x20000)) = none :=
  ⟨fun _ _ h => absurd h (List.cons_ne_nil _ _).symm, by decide +kernel, by decide +kernel, by decide +kernel⟩

theorem wit_stepEvent : isEvent .emergClear = true ∧
    stepTo { base with agenda := [{ ev := some .emergClear, arg := { n := 0, v := 1 } }] } (fun t => t.agenda.isEmpty) = true := by decide +kernel

theorem wit_encode : (Instr.csrw (.g 0) (.ch 6) 0x1111).wf = true ∧ engOf (.csrw (.g 0) (.ch 6) 0x1111) = some .access ∧ millInj (.csrw (.g 0) (.ch 6) 0x1111) = false ∧
    okOf (decode .access (encode (.csrw (.g 0) (.ch 6) 0x1111) ++ [9])) = some (.csrw (.g 0) (.ch 6) 0x1111, [9]) := by decide +kernel

theorem wit_decode : okOf (decode .mill (leBytes 24 0x14 ++ [7])) = some (.mexit, [7]) := by decide +kernel

theorem wit_memories : MemoriesCanonical { State.reset with host := [(5, 7)] } := ⟨by decide, fun _ => ⟨rfl, fun _ => rfl⟩, fun _ => rfl⟩

theorem wit_memories_step : stepTo { State.reset with host := [(5, 7)] } (fun _ => true) = true := by decide +kernel

/-! ### Words of the spec's encodings (02 R46 to R57; 06; 07; 14) -/

/-- The access core: result, bit field, branch, loop and channel forms, loads and stores of each kind, fences, cache maintenance. -/
theorem test_words_access : [0x002C4180, 0x022C4180, 0x0118C300, 0x08080210, 0x00801425, 0x00000027, 0x00246029, 0x10003FA9, 0x7410E33C, 0x3410E334, 0x700042B5, 0xA00062BE,
      0x32005236, 0x80304237, 0x803042B8, 0x00100039, 0x00A80039, 0x2018403A].map (decodeTableWord 32) =
    [some (.add (.g 3) (.pop 2) (.g 5)), some (.add (.g 3) (.peek 2) (.g 5)), some (.add (.g 6) (.g 6) (.pop 3)), some (.addi (.g 4) (.g 0) 0x101), some (.loop (.g 5) 2), some .exit,
      some (.chcfg 3 4), some (.sbw 0x7F), some (.ldAcq 6 7 2 2 .d .cl), some (.ld 6 7 2 2 .d), some (.stNt (.g 5) 2 0 0 .d), some (.stRelSy (.g 5) 3 0 0 .w), some (.ldq 4 2 0 1 .d),
      some (.atomAdd (.g 4) 2 (.g 6) true), some (.cas 5 2 (.g 6) true), some (.fenceAll .cl), some .fenceRelSy, some (.cwb 2 (.g 3) .pk)] := by decide +kernel

/-- The system: tiles, barriers, copies, CSRs, translation, contexts, remote operations, bundles, time. -/
theorem test_words_system : [0x30032040, 0x28032040, 0x00206050, 0x000185D3, 0xC0512442, 0x8038C2C2, 0x8880A071, 0x8888C071, 0x08000074, 0x6000A074, 0x40184074, 0x50184274,
      0x58184274, 0x32084368, 0x200022E9, 0x3200526C, 0x8230426A, 0x803042EB, 0x0000A0ED, 0x080060ED, 0x100024ED, 0x180024ED, 0x2058256D, 0x0000046E].map (decodeTableWord 32) =
    [some (.twait (.g 25)), some (.ttake (.g 0) (.g 25) (.g 0)), some (.binit (.g 3) (.g 4)), some (.bwait (.g 11) (.g 12)), some (.cpy 8 9 10 0 true true), some (.cpy 5 6 7 0 false true),
      some (.csrw (.g 0) (.g 5) 0x1110), some (.csrw (.g 0) (.g 6) 0x1111), some .ecall, some (.halt (.g 5)), some (.tlbi (.g 2) (.g 3)), some (.ctxs (.g 4) (.g 2) (.g 3)),
      some (.ctxr (.g 4) (.g 2) (.g 3)), some (.rld 6 2 1 1 .d), some (.rst (.g 5) 1 0 0 .w), some (.rldq 4 2 0 1 .d), some (.ratomAdd (.g 4) 2 (.g 6) true true), some (.rcas 5 2 (.g 6) true),
      some (.bndo 1 5), some (.bnds 1 3), some (.bndc 9 1), some (.bndr 9 1), some (.bndq (.g 10) 1 (.g 11)), some (.ftime (.g 8))] := by decide +kernel

/-- The Loom and the Mill. -/
theorem test_words_loom : [0x0000000100000A00020A4404, 0x000200000000040001000144, 0x0002000000001E0000000200, 0x000000016000020000A00003, 0x202, 0x02EA0001E000200003000102].map (decodeTableWord 96) =
    [some (.vfma { lf with b := .vreg 2 0 0 0, a := .stream 1, d := .vreg 4 0 0 0, rnd := .sr, fmt := .bf16, pred := 1 }), some (.vmovS { lf with modf := 1, b := .vreg 0 0 0 0, a := .chan 0 false }),
      some (.vloop { lf with modf := 1, a := .const 3, b := .vreg 0 0 0 0, d := .vreg 0 0 0 0 }), some (.vmul { lf with b := .const 2, a := .stream 0, d := .stream 1 }), some .vrdv,
      some (.vtopk { lf with modf := 0x175, b := .const 3, a := .vreg 4 0 0 0, d := .vreg 6 0 0 0 })] := by decide +kernel

theorem test_words_mill : [0x000004000000000010813001, 0x000003848820000080313001, 0x13, 0x14].map (decodeTableWord 192) =
    [some (.mstep { mform0 with use := 2, steps := 2, bfmt := 8, bs := 1, afmt := 3 }),
      some (.mstep { mform0 with use := 1, wfull := true, cons := true, epi := true, os := 2, ofmt := 2, act := 1, steps := 16, bfmt := 3, bs := 1, afmt := 3 }), some .mrdv, some .mexit] := by
  decide +kernel

/-! ### Ill-formed terms are refused (02 R58 and the checks of 06 and 07) -/

theorem test_illFormed_access : [Instr.add (.g 0) (.g 0) (.g 0), .bfx (.g 1) (.g 2) 60 4, .bfi 1 (.g 2) 1 63, .loop (.g 1) 0, .loop (.g 1) (-1), .ldAcq 1 2 0 0 .d .st, .stRel (.g 1) 2 0 0 .d .sy].map
    Instr.wf = [false, false, false, false, false, false, false] := by decide

/-- A form that none of them admits: a modifier of ones and a constant for a destination. -/
def badL : LForm := { lf with modf := 0x7FFF, d := .const 7, pred := 0 }

theorem test_illFormed_loom : ([Instr.vadd badL, .vsub badL, .vmul badL, .vfma badL, .vfms badL, .vfnma badL, .vdiv badL, .vsqrt badL, .vrcp badL, .vrsq badL, .vexp2 badL, .vlog2 badL, .vtanh badL,
    .vsinp badL, .vcosp badL, .vmin badL, .vmax badL, .vabs badL, .vneg badL, .vcpys badL, .vcls badL, .vcmpEq badL, .vcmpNe badL, .vcmpLt badL, .vcmpLe badL, .vcmpGt badL, .vcmpGe badL, .vsel badL,
    .vand badL, .vor badL, .vxor badL, .vnot badL, .vshl badL, .vshr badL, .vsha badL, .viadd badL, .visub badL, .vimul badL, .vcvt badL, .vqnt badL, .vdqt badL, .vredSum badL, .vredMin badL,
    .vredMax badL, .vscanSum badL, .vscanMin badL, .vscanMax badL, .vtopk badL, .vsort badL, .vtrn badL, .vperm badL, .vbcst badL, .vbcstRow badL, .vbcstColumn badL, .vshape badL, .vshapeImmediate badL,
    .vmov badL, .vmovS badL, .vmovI badL, .vmovQ badL, .vld badL, .vst badL, .vldff badL, .vgth badL, .vsct badL, .vpred badL, .vpredMin badL, .vpredZero badL, .vrand badL, .vloop badL, .vbrEq badL,
    .vbrNe badL, .vbrLt badL, .vbrGe badL, .vbrLtu badL, .vbrGeu badL].all fun i => !i.wf) = true := by decide

/-- One field at a time: a stream twice, a channel twice, a constant destination, a modifier, a format, a rounding mode, an operand not used. -/
theorem test_illFormed_loom_fields : [Instr.vadd { lf with a := .stream 1, b := .stream 1 }, .vadd { lf with a := .chan 1 false, b := .chan 1 true }, .vadd { lf with d := .const 1 }, .vadd { lf with modf := 1 },
    .vadd { lf with fmt := .i8 }, .vmin { lf with rnd := .rtz }, .vsqrt lf, .viadd { lf with fmt := .i32, rnd := .rna }, .vldff gf].map Instr.wf = List.replicate 9 false := by decide

theorem test_illFormed_mill : ([Instr.mstep { mform0 with ofmt := 1 }, .mstep { mform0 with ss := 1 }, .mclr { mform0 with steps := 1 }, .mswap { mform0 with bank := true }, .mlda { mform0 with os := 1 },
    .msta { mform0 with as := 1 }, .mpro { mform0 with mode := 1 }, .mepi { mform0 with pro := true }, .mrpgR { mform0 with imm2 := 1 }, .mrpgW { mform0 with as := 9, imm1 := 4 }, .mrpgI { mform0 with bs := 2, steps := 1 },
    .mrpgA { mform0 with os := 1 }, .mloop { mform0 with bs := 1 }, .mbrEq { mform0 with steps := 1 }, .mbrNe { mform0 with os := 1 }, .mbrLt { mform0 with ss := 1 }, .mbrGe { mform0 with zs := 1 },
    .mbrLtu { mform0 with erm := 1 }, .mbrGeu { mform0 with grp := true }, .mj { mform0 with as := 1 }].all fun i => !i.wf) = true := by decide

/-! ### Worked values of the spec -/

/-- 03, "one cell of an E4M3 tile step, and one HS4 weight". -/
theorem test_e4m3Cell : windowSum (valueOf .fp32 0x21800000 :: [(0x7E, 0x40), (0x01, 0x01), (0xFE, 0x40), (0, 5)].map fun p => numMul (valueOf .e4m3 p.1) (valueOf .e4m3 p.2)) .fp32 .rne
    false 0 = 0x36800000 := by decide +kernel

/-- The check value of CRC-16/T10-DIF over the digits 1 to 9, as the T10 standard publishes it; a sector of zeros, and one that fails its check (13 R329, R332). -/
theorem test_sectorCheck : t10Dif ([0x31, 0x32, 0x33, 0x34, 0x35, 0x36, 0x37, 0x38, 0x39]) = 0xD0DB ∧ t10Dif (List.replicate 32 0) = 0 ∧
    hbmMark { herr := [(3, 16)] } 3 = 0 ∧ hbmMark { herr := [(3, 16)], hbm := [(96, 1)] } 3 = 2 := by decide +kernel

/-- Native code is chosen; a record and an operand record by their fields (02 R65, R66). -/
theorem test_portable : codeChoice [] [{ typ := 3, flg := 0, gen := 3, off := 0, len := 0 }, { typ := 1, flg := 0, gen := 0, off := 0, len := 0 }] = some 3 ∧ codeChoice [] [] = none ∧
    (let r := portRecAt (leBytes 16 (0x1234 + 3 * 2 ^ 16 + 2 * 2 ^ 24 + 0x53 * 2 ^ 32 + 7 * 2 ^ 40 + 9 * 2 ^ 64 + 11 * 2 ^ 96)) 0
     (r.opn, r.count, r.flg, r.fr, r.pu) = (0x1234, 3, 2, 0x53, 7) ∧ (r.gap, r.opix, r.imm) = (0, 9, 11)) ∧
    (let x := portOpndAt (leBytes 8 (5 + 1 * 2 ^ 8 + 77 * 2 ^ 16 + 99 * 2 ^ 32)) 0; (x.kind, x.ofl, x.sym, x.val) = (5, 1, 77, 99)) := by decide +kernel

theorem test_proWeight : proWeight 0xA 0x3D80 3 = 0xBEE0 := by decide +kernel

/-- 03, "stochastic rounding of FP32 to BF16". -/
theorem test_stochastic : [0x8000, 0xBFFF, 0xC000, 0xF123].map (roundTo (valueOf .fp32 0x3F80C000) .bf16 .sr false) = [0x3F81, 0x3F81, 0x3F80, 0x3F80] := by decide +kernel

/-- 13, "coding one tile". -/
def codedTile : List MByte :=
  let r := fun v => leBytes 32 ((List.range 8).foldl (fun n k => n + v * 2 ^ (32 * k)) 0)
  codeBlock ([leBytes 32 0, r 0x40200000, r 0x40200000, (List.range 32).map (BitVec.ofNat 8)].map (fun b => (b, false)) ++ List.replicate 124 (leBytes 32 0, false))

theorem test_codedTile : codedTile.length = 96 ∧ (codedTile.take 2).map Prod.fst = [0xD8, 0] ∧ ((codedTile.drop 32).take 5).map Prod.fst = [0, 0, 0x20, 0x40, 0] := by decide +kernel

/-- 17, "deriving a tile capability". -/
theorem test_tileCapability : (mkCap 0 0 0xFFF 1 8 0 0x1C0000000000000 true).bits = 0x0000003FFC84000001C0000000000000 ∧ cbndFind 0x12345 0x20000 = some (2, 0x48D1, 0xC8D1) := by
  decide +kernel

/-- 14, "watching sixteen bytes", with REM clear: the write at 0x40000138 alone. -/
def watching : State := withCtx base fun c => { c with dbg := { c.dbg with wpb := [(0, 0x40000126)], wpm := [(0, 0xFFFF000000000000)] } }

theorem test_watchpoint : (watchHit (ctx watching) false false .write 0x40000128 8).isNone = true ∧ (watchHit (ctx watching) false false .read 0x40000130 8).isNone = true ∧
    watchHit (ctx watching) false false .write 0x40000138 8 = some 0x40000138 := by decide +kernel

theorem test_resetMemory : Memory.wf State.reset.host = true ∧ Memory.wf (getDie State.reset 0).mem.hbm = true := by decide

end Sys2Proof.Tests
end

section
/-!
SUPPORT. Laws of the package's own operations: the runs of host bytes that lie in one die's HBM, what a boot settles in the package's record, what a
machine check leaves and adds, and the mailbox's answers.
-/
namespace Sys2Proof.Machine
open Sys2Proof Sys2Proof.Claims

/-! ### Runs of bytes in HBM -/

/-- The bytes of a run in HBM, their marks of poison apart. -/
theorem spotRead_hbm_bytes (s : State) (d pa n : Nat) : (spotRead s ⟨d, .hbm, pa, n⟩).map Prod.fst = memRead (getDie s d).mem.hbm pa n := by
  simp only [spotRead, List.map_map]
  exact List.zipIdx_map_fst 0 _

@[simp] theorem plainBytes_bytes (bs : List Byte) : (plainBytes bs).map Prod.fst = bs := by
  simp [plainBytes, Function.comp_def]

@[simp] theorem plainBytes_length (bs : List Byte) : (plainBytes bs).length = bs.length := by
  simp [plainBytes]

/-- No byte of a plain list is poisoned. -/
theorem plainBytes_any_poisoned (bs : List Byte) (p : Nat → Bool) : ((plainBytes bs).zipIdx.any fun (b, j) => b.2 && p j) = false := by
  rw [List.any_eq_false]
  rintro ⟨b, j⟩ hb
  obtain ⟨c, -, rfl⟩ := List.mem_map.mp (List.fst_mem_of_mem_zipIdx hb)
  simp

/-- Writing plain bytes at a run is the memory write alone: no sector is poisoned. -/
theorem spotWrite_plainBytes (s : State) (t : Spot) (bs : List Byte) :
    spotWrite s t (plainBytes bs) = physWrite s t.die noCluster t.sp t.pa bs .nt := by
  unfold spotWrite
  rw [plainBytes_bytes]
  refine foldl_keeps id _ (fun u k => ?_) _ _
  rw [plainBytes_any_poisoned bs fun j => (t.pa + j) / 32 == k]
  rfl

/-- What is written to HBM is read back. -/
theorem memRead_physWrite_hbm (s : State) (d cl pa : Nat) (bs : List Byte) (m : WMode) :
    memRead (getDie (physWrite s d cl .hbm pa bs m) d).mem.hbm pa bs.length = bs := by
  simp only [physWrite, modMem, getDie_modDie, hbmWrite]
  exact memRead_memWrite bs _ pa

/-! ### The HDM window (R403) -/

theorem hdmOk_of_le {s : State} {p o n : Nat} (hp : pkgOk s p = true) (h : o + n ≤ 8 * (getPkg s p).hdm * 2 ^ 30) : hdmOk s p o n = true := by
  rw [hdmOk, hp, Bool.true_and]
  exact decide_eq_true h

@[simp] theorem hdmSpots_zero (p w k o : Nat) : hdmSpots p w k o 0 = [] := by
  cases k <;> simp [hdmSpots]

/-- Bytes that stay within 4 KiB of the window are one run. -/
theorem hdmSpots_within (p w k o : Nat) {n : Nat} (hn : n ≠ 0) (h : o % 4096 + n ≤ 4096) :
    hdmSpots p w (k + 1) o n = [⟨(hdmPlace p w o).1, .hbm, (hdmPlace p w o).2, n⟩] := by
  have hm : min n (4096 - o % 4096) = n := by omega
  simp [hdmSpots, hm, hn, hdmSpots_zero]

/-- A read within 4 KiB of the window gives the bytes at their place. -/
theorem spotsRead_hdmSpots (s : State) (p w k o n : Nat) (h : o % 4096 + n ≤ 4096) :
    (spotsRead s (hdmSpots p w (k + 1) o n)).map Prod.fst = memRead (getDie s (hdmPlace p w o).1).mem.hbm (hdmPlace p w o).2 n := by
  by_cases hn : n = 0
  · subst hn; simp [hdmSpots_zero, spotsRead, memRead]
  · simp only [hdmSpots_within p w k o hn h, spotsRead, List.flatMap_singleton, spotRead_hbm_bytes]

/-- A write within 4 KiB of the window is read back at its place. -/
theorem memRead_spotsWrite_hdmSpots (s : State) (p w k o : Nat) (bs : List Byte) (h : o % 4096 + bs.length ≤ 4096) :
    memRead (getDie (spotsWrite s (hdmSpots p w (k + 1) o bs.length) (plainBytes bs)) (hdmPlace p w o).1).mem.hbm (hdmPlace p w o).2 bs.length
      = bs := by
  by_cases hn : bs.length = 0
  · rw [List.length_eq_zero_iff.mp hn]; rfl
  · have hall : (plainBytes bs).take bs.length = plainBytes bs := List.take_of_length_le (Nat.le_of_eq (plainBytes_length bs))
    rw [hdmSpots_within p w k o hn h]
    simp only [spotsWrite, hall, spotWrite_plainBytes]
    exact memRead_physWrite_hbm ..

/-- The host reads what lies at the place of its offset. -/
theorem hostHdmRead_reads {s : State} (h : hdmOk s s.ev.n s.ev.v.toNat s.ev.k = true) (hp : s.ev.v.toNat % 4096 + s.ev.k ≤ 4096) :
    let a := hdmPlace s.ev.n (evPkg s).hdm s.ev.v.toNat
    Leads s .hostHdmRead fun t => t.out = memRead (memOf s a.1).hbm a.2 s.ev.k := by
  refine ⟨_, show execHostHdmRead s = _ from if_pos h, ?_⟩
  exact spotsRead_hdmSpots s _ _ _ _ _ hp

/-- What the host writes lies at the place of its offset. -/
theorem hostHdmWrite_writes {s : State} (h : hdmOk s s.ev.n s.ev.v.toNat s.ev.bytes.length = true)
    (hp : s.ev.v.toNat % 4096 + s.ev.bytes.length ≤ 4096) :
    let a := hdmPlace s.ev.n (evPkg s).hdm s.ev.v.toNat
    Leads s .hostHdmWrite fun t => memRead (memOf t a.1).hbm a.2 s.ev.bytes.length = s.ev.bytes := by
  refine ⟨_, show execHostHdmWrite s = _ from if_pos h, ?_⟩
  exact memRead_spotsWrite_hdmSpots s _ _ _ _ _ hp

/-! ### Boot (R408, R409) -/

/-- What a boot settles before it applies flash: whether firmware runs, and the measurements of the firmware and of the boot ROM. -/
def bootRecord (x : Pkg) : Bool × BitVec 512 × BitVec 512 := (x.ready, x.fwM, x.romM)

theorem bootRecord_eq_iff (x : Pkg) (b : Bool) (f r : BitVec 512) : bootRecord x = (b, f, r) ↔ x.ready = b ∧ x.fwM = f ∧ x.romM = r := by
  simp [bootRecord]

@[simp] theorem bootRecord_applyCfg (x : Pkg) (r : CfgRec) : bootRecord (applyCfg x r) = bootRecord x := by
  unfold applyCfg
  dsimp only
  split <;> rfl

@[simp] theorem bootRecord_applyFlash (p : Nat) (x : Pkg) : bootRecord (applyFlash p x) = bootRecord x := by
  refine foldl_keeps bootRecord _ (fun y r => ?_) _ _
  split
  · exact bootRecord_applyCfg y _
  · rfl

@[simp] theorem bootRecord_applyPorts (x : Pkg) : bootRecord (applyPorts x) = bootRecord x := rfl

/-- Setting the dies' windows leaves the packages. -/
@[simp] theorem getPkg_setWindows (s : State) (p q : Nat) : getPkg (setWindows s p) q = getPkg s q := by
  refine foldl_keeps (getPkg · q) _ (fun u i => ?_) _ _
  exact getPkg_modDie ..

/-- With no firmware to run, the boot ROM stops with an error. -/
theorem boot_without_firmware {s : State} (hp : pkgOk s s.ev.n = true) (hr : (evPkg s).ready = false) (he : (evPkg s).err = false)
    (hf : fwPick (evPkg s) = none) : Leads s .boot fun t => (pkgIn s t).err = true ∧ (pkgIn s t).ready = false := by
  simp only [evPkg] at hr he hf
  refine ⟨_, show execBoot s = _ by simp only [execBoot, hp, hr, he, hf]; rfl, ?_⟩
  simp [pkgIn]

/-- The firmware picked runs, and it and the boot ROM are measured. -/
theorem boot_with_firmware {s : State} {c : FwCopy} (hp : pkgOk s s.ev.n = true) (hr : (evPkg s).ready = false) (he : (evPkg s).err = false)
    (hf : fwPick (evPkg s) = some c) :
    Leads s .boot fun t => (pkgIn s t).ready = true ∧ (pkgIn s t).fwM = Config.sha512 c.bytes ∧
      (pkgIn s t).romM = Config.sha512 (Config.romBytes s.ev.n) := by
  simp only [evPkg] at hr he hf
  refine ⟨_, show execBoot s = _ by simp only [execBoot, hp, hr, he, hf]; rfl, ?_⟩
  refine (bootRecord_eq_iff _ _ _ _).mp ?_
  simp only [pkgIn, getPkg_setWindows, getPkg_setPkg, bootRecord_applyPorts, bootRecord_applyFlash]
  rfl

/-! ### Faults of the I/O die (R377, R404) -/

/-- A machine check leaves the failed ports of every package. -/
@[simp] theorem machineCheck_gfail (s : State) (w : Who) (kind src : Nat) (known : Bool) (addr info p : Nat) :
    (getPkg (machineCheck s w kind src known addr info) p).gfail = (getPkg s p).gfail := by
  simp only [machineCheck, tellMoot, getPkg_modDie, raiseVec]
  by_cases h : p = pkgOf w.die
  · subst h; rw [getPkg_modPkg, getPkg_modDie]
  · rw [modPkg, getPkg_setPkg_other _ _ h, getPkg_modDie]

/-- A machine check tells the Moot its kind. -/
theorem machineCheck_tells_moot (s : State) (w : Who) (kind src : Nat) (known : Bool) (addr info : Nat) :
    ∃ q ∈ (getDie (machineCheck s w kind src known addr info) w.die).moot, q.kind = 4 ∧ q.cause = kind := by
  refine ⟨{ kind := 4, w := w, cause := kind, val := w64 info, eng := src }, ?_, rfl, rfl⟩
  simp [machineCheck, tellMoot]

/-- A link that fails makes a machine check of kind 6. -/
theorem granaryLinkFail_machineChecks {s : State} (hp : pkgOk s s.ev.n = true) (hk : s.ev.k < 4)
    (hg : spGet false (evPkg s).gfail s.ev.k = false) :
    Leads s .granaryLinkFail fun t => spGet false (pkgIn s t).gfail s.ev.k = true ∧
      ∃ q ∈ (getDie t (pkgDie s.ev.n 0)).moot, q.kind = 4 ∧ q.cause = 6 := by
  rw [evPkg] at hg
  refine ⟨_, show execGranaryLinkFail s = _ from if_pos (by simp [hp, hk, hg]), ?_, machineCheck_tells_moot ..⟩
  simp only [pkgIn, machineCheck_gfail, getPkg_modPkg, spGet_spSet_same]

/-- An error in the Moot's SRAM halts the firmware that runs, and the host is told. -/
theorem mootSramError_halts {s : State} (hp : pkgOk s s.ev.n = true) (hr : (evPkg s).ready = true) :
    Leads s .mootSramError fun t => (pkgIn s t).ready = false ∧ (pkgIn s t).err = true ∧ (pkgIn s t).msix = (evPkg s).msix ++ [0] := by
  rw [evPkg] at hr
  refine ⟨_, show execMootSramError s = _ from if_pos (by simp [hp, hr]), ?_⟩
  simp [pkgIn, evPkg, raiseVec]

/-! ### The mailbox (R402, R409; 00 R6) -/

/-- A request of kind `k`, its code the listed one, joins the transcript and gets its answer. -/
theorem spdmRequest_answers {s : State} {i : Instr} {k : Nat} {c : Byte} (hi : exec i s = .next (spdmRequest s k))
    (hp : pkgOk s s.ev.n = true) (hr : (evPkg s).ready = true) (hk : spdmCodes[k]? = some c) (hc : spdmCode s.ev.bytes = c) :
    let tr := (if k = 0 then [] else (evPkg s).spdm) ++ [s.ev.bytes]
    Leads s i fun t => (pkgIn s t).spdm = tr ∧ (pkgIn s t).doe = (evPkg s).doe ++ [spdmReply k tr (measBlocks (evPkg s))] := by
  rw [evPkg] at hr
  refine ⟨_, hi, ?_⟩
  simp [spdmRequest, pkgIn, evPkg, hp, hr, hk, hc]

/-- The answers by kind: versions, capabilities, else the standard's. -/
theorem spdmReply_by_kind (k : Nat) (t : List (List Byte)) (m : List (BitVec 512)) :
    spdmReply k t m =
      if k = 0 then [0x10, 0x04, 0, 0, 0, 1, 0, 0x12]
      else if k = 1 then [0x12, 0x61, 0, 0, 0, Config.spdmTiming, 0, 0, 0x16, 0, 0, 0] ++ wordBytes8 Config.spdmSizes
      else Config.spdmAnswer k t m := by
  match k with
  | 0 => rfl
  | 1 => rfl
  | k + 2 => rfl

/-- The answer to a discovery request whose index is a byte: three protocols in a ring, and none past them. -/
theorem doeProtocol_byte (n : Byte) :
    doeProtocol n.toNat = if n < 3 then [1, 0, n, if n = 2 then 0 else n + 1] else [0xFF, 0xFF, 0, 0] := by
  have hlt : n.toNat < 3 ↔ n < 3 := (BitVec.lt_def (y := 3)).symm
  unfold doeProtocol
  by_cases h : n < 3
  · have hnext : BitVec.ofNat 8 ((n.toNat + 1) % 3) = if n = 2 then 0 else n + 1 := by
      have : n.toNat = 0 ∨ n.toNat = 1 ∨ n.toNat = 2 := by have := hlt.mpr h; omega
      rcases this with h0 | h1 | h2
      · obtain rfl : n = 0 := BitVec.eq_of_toNat_eq h0
        rfl
      · obtain rfl : n = 1 := BitVec.eq_of_toNat_eq h1
        rfl
      · obtain rfl : n = 2 := BitVec.eq_of_toNat_eq h2
        rfl
    rw [if_pos (hlt.mpr h), if_pos h, BitVec.ofNat_toNat, BitVec.setWidth_eq, hnext]
  · rw [if_neg (mt hlt.mp h), if_neg h]

/-- The mailbox answers a discovery request. -/
theorem doeDiscovery_answers {s : State} (hp : pkgOk s s.ev.n = true) :
    let n : Byte := s.ev.bytes.getD 0 0
    Leads s .doeDiscovery fun t =>
      (pkgIn s t).doe = (evPkg s).doe ++ [if n < 3 then [1, 0, n, if n = 2 then 0 else n + 1] else [0xFF, 0xFF, 0, 0]] := by
  refine ⟨_, show execDoeDiscovery s = _ from if_pos hp, ?_⟩
  simp only [pkgIn, getPkg_modPkg, evPkg, doeProtocol_byte]

/-- An SPDM request of a code that is not listed is answered with an error that names it. -/
theorem unsupportedRequest_spdm {s : State} (hp : pkgOk s s.ev.n = true) (hk : s.ev.k = 0) (hc : spdmCode s.ev.bytes ∉ spdmCodes) :
    Leads s .unsupportedRequest fun t => (pkgIn s t).doe = (evPkg s).doe ++ [[0x12, 0x7F, 0x07, spdmCode s.ev.bytes]] := by
  refine ⟨_, show execUnsupportedRequest s = _ from
    (if_neg (by simp [hp])).trans ((if_pos hk).trans (if_neg (mt List.contains_iff_mem.mp hc))), ?_⟩
  simp [pkgIn, evPkg]

/-- A request of another standard gets that standard's answer. -/
theorem unsupportedRequest_other {s : State} (hp : pkgOk s s.ev.n = true) (hk : s.ev.k ≠ 0) :
    Leads s .unsupportedRequest fun t => (pkgIn s t).doe = (evPkg s).doe ++ [Config.unsupported s.ev.k s.ev.bytes] := by
  refine ⟨_, show execUnsupportedRequest s = _ from (if_neg (by simp [hp])).trans (if_neg hk), ?_⟩
  simp [pkgIn, evPkg]

/-- Settles O54, part by part from the law of each operation of the package. -/
theorem bootHostAndMailbox : Obligations.BootHostAndMailbox := by
  intro s hp
  have answers {i : Instr} {c : Byte} (k : Nat) (hi : exec i s = .next (spdmRequest s k)) (hk : spdmCodes[k]? = some c)
      (hr : (evPkg s).ready = true) (hc : spdmCode s.ev.bytes = c) := by
    have := spdmRequest_answers hi hp hr hk hc
    simp only [spdmReply_by_kind] at this
    exact this
  refine ⟨?boot, mootSramError_halts hp, granaryLinkFail_machineChecks hp, ?hdmRead, ?hdmWrite, ?spdm, doeDiscovery_answers hp,
    unsupportedRequest_spdm hp, unsupportedRequest_other hp⟩
  case boot => exact fun hr he => ⟨boot_without_firmware hp hr he, fun c hf => boot_with_firmware hp hr he hf⟩
  case hdmRead => exact fun ho => hostHdmRead_reads (hdmOk_of_le hp ho)
  case hdmWrite => exact fun ho => hostHdmWrite_writes (hdmOk_of_le hp ho)
  case spdm =>
    exact fun hr => ⟨answers 0 rfl rfl hr, answers 1 rfl rfl hr, answers 2 rfl rfl hr, answers 3 rfl rfl hr, answers 4 rfl rfl hr,
      answers 5 rfl rfl hr, answers 6 rfl rfl hr⟩

end Sys2Proof.Machine
end
